-- ==== Sys2Proof/Word.lean ====
section
/-!
DEFINITION. Words of the X4 and the plainest arithmetic on them: bytes, 64-bit words, bit fields of a natural number
(the spec writes a field as [msb:lsb], bit 0 least significant) and little-endian byte lists.
-/
namespace Sys2Proof

/-- One byte. -/
abbrev Byte := BitVec 8

/-- A 64-bit word: a scalar register, an instruction, a transfer word. -/
abbrev Word := BitVec 64

/-- Field `[lo+n-1:lo]` of `x`, as a number. -/
def fld (x lo n : Nat) : Nat := (x >>> lo) % 2 ^ n

/-- Bit `i` of `x`. -/
def bitAt (x i : Nat) : Bool := x.testBit i

/-- `b` as a number. -/
def b2n (b : Bool) : Nat := if b then 1 else 0

/-- `x`, `n` bits wide, read as a two's-complement integer. -/
def sgn (n x : Nat) : Int := if x % 2 ^ n < 2 ^ (n - 1) then (x % 2 ^ n : Nat) else ((x % 2 ^ n : Nat) : Int) - (2 ^ n : Nat)

/-- The low `n` bits of the two's-complement form of `x`. -/
def wrapN (n : Nat) (x : Int) : Nat := (x % ((2 ^ n : Nat) : Int)).toNat

/-- A little-endian byte list as a number. -/
def leNat : List Byte → Nat
  | [] => 0
  | b :: bs => b.toNat + 256 * leNat bs

/-- The low `n` bytes of `x`, little-endian. -/
def leBytes : Nat → Nat → List Byte
  | 0, _ => []
  | n + 1, x => BitVec.ofNat 8 x :: leBytes n (x / 256)

/-- `ceil (a / b)`. -/
def ceilDiv (a b : Nat) : Nat := (a + b - 1) / b

end Sys2Proof
end

