-- ==== Sys2Proof/Syntax.lean ====
section
/-!
DEFINITION. The commands of the X4 as syntax: the records they carry (fields of core and update instructions, packets,
frames, datagrams, plats, option records, firmware images, readings) and the ONE inductive of commands. A choice that the
spec leaves to the planner, to an operator or to the world outside is an operand.
-/
namespace Sys2Proof

/-! ## Instructions of cores and of update engines -/

/-- The fields of a core instruction (R176) but CLASS and OP, which the command names. -/
structure CoreFields where
  pneg : Bool := false
  pred : Nat := 0
  a : Nat := 0
  b : Nat := 0
  c : Nat := 0
  flags : Nat := 0
  imm : Nat := 0
  deriving DecidableEq, Repr

/-- The 64-bit word of a core instruction of a class and an OP (R176). -/
def CoreFields.word (f : CoreFields) (cls op : Nat) : Word :=
  BitVec.ofNat 64 (cls * 2 ^ 61 + b2n f.pneg * 2 ^ 60 + f.pred % 8 * 2 ^ 57 + op % 128 * 2 ^ 50 + f.a % 32 * 2 ^ 45 +
    f.b % 32 * 2 ^ 40 + f.c % 32 * 2 ^ 35 + f.flags % 8 * 2 ^ 32 + f.imm % 2 ^ 32)

/-- The fields of an update instruction (R281) but OP. -/
structure UpdFields where
  d : Nat := 0
  a : Nat := 0
  b : Nat := 0
  c : Nat := 0
  f : Nat := 0
  imm : Nat := 0
  deriving DecidableEq, Repr

/-- The 64-bit word of an update instruction of an OP (R281). -/
def UpdFields.word (u : UpdFields) (op : Nat) : Word :=
  BitVec.ofNat 64 (op % 64 * 2 ^ 58 + u.d % 32 * 2 ^ 53 + u.a % 64 * 2 ^ 47 + u.b % 64 * 2 ^ 41 + u.c % 64 * 2 ^ 35 +
    u.f % 8 * 2 ^ 32 + u.imm % 2 ^ 32)

/-! ## Fabric -/

/-- A packet: the fields of its 32-byte header (R390) and its payload. `len` is LENGTH, which a READ uses for the bytes it
asks for. -/
structure Packet where
  dst : Nat
  src : Nat
  epoch : Bool := false
  tc : Nat
  down : Bool := false
  domain : Nat := 0
  op : Nat
  seq : BitVec 32 := 0
  tag : BitVec 16 := 0
  job : Nat := 0
  addr : Nat := 0
  ctr : Nat := 0
  inject : Nat := 0
  len : Nat := 0
  arg : Nat := 0
  data : List Byte := []
  deriving DecidableEq, Repr

/-- What a control frame carries (R386): an acknowledgement of every frame up to a link sequence number, a negative
acknowledgement naming one, credits returned as (virtual channel, cells), drain markers by virtual channel, the sender's ranks and
its transmit stamp; and the stamp it last took with the time it took it, so that both ends get the four stamps of an exchange (R409; DESIGN
CHOICE: how they travel). -/
structure CtlFrame where
  ack : Option (BitVec 12) := none
  nack : Option (BitVec 12) := none
  credits : List (Nat × Nat) := []
  markers : List Nat := []
  ranks : Option (BitVec 24 × BitVec 24) := none
  stamp : Nat := 0
  echo : Option (Nat × Nat) := none
  deriving DecidableEq, Repr

/-- A codeword frame as the port's decoder sees it (R386, R387): its link sequence number (of a frame that is not accepted, the one that its
lane's turn gives), whether the decoder corrected every symbol error, the symbols corrected, the content and its CRC-32C. The 8-bit
frame type, whose codes the rules do not give, is the kind of the content: packets, or control. -/
structure Frame where
  seq : BitVec 12 := 0
  decoded : Bool := true
  corrected : Nat := 0
  content : Packet ⊕ CtlFrame
  crc : BitVec 32 := 0
  deriving DecidableEq, Repr

/-- What the training of a port finds (R384, R385): lanes passing in both directions, lanes fenced at the other end,
how many of the six steps completed, in their order, and the identity the other end sent in step 4. -/
structure Training where
  passing : BitVec 8 := 0
  farFenced : BitVec 8 := 0
  steps : Nat := 6
  remoteModule : Nat := 0
  remotePort : Nat := 0
  rank0 : BitVec 24 := 0
  rank1 : BitVec 24 := 0
  deriving DecidableEq, Repr

/-! ## Requesters and datagrams -/

/-- A UDP datagram at a service port (R437): source address and port, header, data and tag. -/
structure Datagram where
  fromAddr : BitVec 128 := 0
  fromPort : BitVec 16 := 0
  toPort : BitVec 16 := 0
  version : Nat := 1
  type : Nat
  domain : Nat
  zero : Nat := 0
  seq : BitVec 32 := 0
  ack : BitVec 32 := 0
  context : Nat := 0
  length : Nat := 0
  addr : Nat := 0
  data : List Byte := []
  tag : List Byte := []
  deriving DecidableEq, Repr

/-- Who makes a register access: the local host of a domain, the management processor, the planner firmware, a REG_READ or
REG_WRITE packet, or a remote host's datagram at a service port. -/
inductive Requester where
  | host (d : Nat)
  | mgmt
  | planner
  | packet (p : Packet)
  | remote (port : Nat) (g : Datagram)
  deriving DecidableEq, Repr

/-! ## Plats (chapter 13) -/

/-- A region of a context (R368). -/
structure Region where
  base : Nat
  size : Nat
  target : Nat
  station : Nat
  read : Bool
  write : Bool
  add : Bool
  deriving DecidableEq, Repr

/-- A binding of one logical core index (R354, CORES): index of the program in the job image's list, logical index,
cluster, slot of the core, position among the core's runs. -/
structure Bind where
  program : Nat
  index : Nat
  cluster : Nat
  slot : Nat
  run : Nat
  deriving DecidableEq, Repr

/-- Something of a job that the plat places on this module (R337): kind 0 dense group, 1 reduction sums, 2 preconditioner,
3 table shard, 4 undo log, 5 replica area. -/
structure Placed where
  kind : Nat
  id : Nat
  /-- local offsets, in the order the kind names -/
  addrs : List Nat
  /-- first row and number of rows held on this module -/
  first : Nat
  count : Nat
  deriving DecidableEq, Repr

/-- A parcel that a plat moves (R106): where its 16-byte parcel map entry lies (module and offset), the bytes of its row offsets
and of its arrays, and where both go: station, tier, offsets. -/
structure ParcelMove where
  entryModule : Nat
  entryAt : Nat
  offsetBytes : Nat
  edgeBytes : Nat
  station : Nat
  tier : Nat
  offsets : Nat
  edges : Nat
  deriving DecidableEq, Repr

/-- One gathered tensor of a plat (R350, R351): its group, whether its copy is kept for the backward part, the bytes of the copy; and what
KEEPS does not list: the forward gather phase that makes the copy, the last forward phase that reads it, and the backward gather phases
of the same tensor. -/
structure Keep where
  group : Nat
  kept : Bool
  bytes : Nat
  fwd : Nat
  last : Nat
  bwd : List Nat
  deriving DecidableEq, Repr

/-- A plat as this module adopts it (R337, R346, R354). -/
structure Plat where
  /-- REASON of R353, and whether the job-wide part changed -/
  reason : Nat := 0
  jobwide : Bool := false
  clusters : List Nat := []
  binds : List Bind := []
  regions : List Region := []
  placed : List Placed := []
  /-- PARCELS: graph, tier, parcel, station -/
  parcels : List (Nat × Nat × Nat × Nat) := []
  moves : List ParcelMove := []
  /-- gathered copies that move: from, to, bytes (R349) -/
  copies : List (Nat × Nat × Nat) := []
  /-- HOMES: kind, update die, id, station, first, count -/
  homes : List (Nat × Nat × Nat × Nat × Nat × Nat) := []
  keeps : List Keep := []
  /-- CHAINAGE: sequence, station, first, positions -/
  chainage : List (Nat × Nat × Nat × Nat) := []
  /-- spread lists by phase: the clusters assigned to it, in ascending number (R240) -/
  spread : List (List Nat) := []
  /-- per cluster of a traverse engine: gather engines and table ids its batches post hints to (R133) -/
  hints : List (Nat × List (Nat × List Nat)) := []
  /-- per cluster: hash unit reserved, prefetch area in KiB -/
  sram : List (Nat × Bool × Nat) := []
  /-- table rows to migrate at the step's commit: table, row, target class, target address or none (R163) -/
  migrations : List (Nat × Nat × Nat × Option Nat) := []
  /-- near-tier bytes set aside for working copies of rows, and the keep budget in bytes (R351) -/
  copyRoom : Nat := 0
  budget : Nat := 0
  /-- near tier that the domain gives up for another domain's easement: start and length (R357) -/
  released : List (Nat × Nat) := []
  /-- nanoseconds that drawing it took (PLN_DRAW_MAX) -/
  drawNs : Nat := 0
  /-- FORMAT and class of the plat log: address the record goes to is the planner's, local -/
  logAt : Nat := 0
  logBase : Nat := 0
  deriving DecidableEq, Repr

/-! ## Management, power and reset -/

/-- The fence list (R17, R25 to R28, R461): fenced clusters, channels, near-tier banks, link lanes 0 to 383, cores by global
number, vector lanes and tile-array rows of a core, and whether a unit of the service die is fenced. -/
structure FenceList where
  clusters : List Nat := []
  channels : List Nat := []
  banks : List Nat := []
  lanes : List Nat := []
  cores : List Nat := []
  /-- core and vector lane 0 to 63 -/
  vectorLanes : List (Nat × Nat) := []
  /-- core and row 0 to 15 of its tile array -/
  arrayRows : List (Nat × Nat) := []
  service : Bool := false
  deriving DecidableEq, Repr

/-- A firmware image (R469). `zeros` holds the reserved bytes 0x002, 0x003, 0x006, 0x007, 0x018 to 0x01F and 0x224 to
0x5FF in order. -/
structure FwImage where
  format : Nat := 1
  zeros : List Byte := []
  rollback : Nat := 0
  revoke : Nat := 0
  version : BitVec 32 := 0
  length : Nat := 0
  build : BitVec 64 := 0
  modulus : Nat := 0
  exponent : Nat := 0
  signature : Nat := 0
  body : List Byte := []
  deriving DecidableEq, Repr

/-- What the management processor sets of a domain (R415, R443). -/
structure DomCfg where
  host : Nat := 0
  ctxBase : Nat := 0
  ctxCount : Nat := 0
  clusters : Nat := 0
  ntMib : Nat := 0
  slowGib : Nat := 0
  hostmemGib : Nat := 0
  /-- local address of the host memory share, and the domain's other shares: start and length (R369, R418) -/
  hostAt : Nat := 0
  shares : List (Nat × Nat) := []
  cores : BitVec 32 := 0
  remotePort : BitVec 16 := 0
  remoteAddr : BitVec 128 := 0
  key : List Byte := []
  /-- easement: clusters, near-tier MiB, link weight -/
  ease : Option (Nat × Nat × Nat) := none
  deriving DecidableEq, Repr

/-- A change an OEM action makes to a domain (R478, R415). -/
inductive DomChange where
  | hostKind (kind : Nat)
  | contexts (base count : Nat)
  | quotas (clusters ntMib slowGib : Nat)
  | memory (gib at' : Nat) (shares : List (Nat × Nat))
  | cores (mask : BitVec 32)
  | remote (port : BitVec 16) (addr : BitVec 128)
  | key (bytes : List Byte)
  | managementCa (digest : BitVec 512)
  deriving DecidableEq, Repr

/-- One copy of the option record (R498): its sequence number, signing key, signature, signed bytes, and what it holds. -/
structure OptionRec where
  seq : Nat := 0
  modulus : Nat := 0
  exponent : Nat := 0
  signature : Nat := 0
  bytes : List Byte := []
  module : Nat := 0
  fence : FenceList := {}
  domains : List DomCfg := []
  resetKey : List Byte := []
  ca : BitVec 512 := 0
  gpioDir : BitVec 16 := 0
  gpioOut : BitVec 16 := 0
  deriving DecidableEq, Repr

/-- Nominal voltages of the rails in mV, in the order of the readings (R526): VDD_T0 to VDD_T3 as they are at power-on, VDD_NT, VDD_U, VDD_S,
VDD_LNK_T0 to VDD_LNK_T3, VDD2H, VDD2L, VDDQ, VDD1 and VDD_IO. -/
def nominalRailMv (n : Nat) : Nat :=
  [750, 750, 750, 750, 750, 750, 750, 900, 900, 900, 900, 1050, 900, 500, 1800, 1800].getD n 0

/-- What phase 1 sees (R480, R498, R524, R527, R528): each rail's voltage in mV, none where its regulator does not answer, reference clocks present, the sensors that fail their
bring-up check and the hottest of the others in 1/16 °C, and whether a clock is outside R524 or the order of R528 was broken. -/
structure Supplies where
  rails : List (Option Nat) := (List.range 16).map fun n => some (nominalRailMv n)
  clocks : Bool := true
  badSensors : List Nat := []
  hottest : Int := 0
  outside : Bool := false
  deriving DecidableEq, Repr

/-- A client's attempt to open a management connection (R477). -/
structure TlsHello where
  /-- TLS version times ten: 13 for 1.3 -/
  version : Nat := 13
  /-- TLS_AES_256_GCM_SHA384 or TLS_AES_128_GCM_SHA256 is offered -/
  suite : Bool := true
  /-- digest of the certificate authority the client's certificate chains to, when it presents one -/
  chain : Option (BitVec 512) := none
  deriving DecidableEq, Repr

/-! ## Commands -/


/-- The commands of the block, one constructor per row of the opcode table. `q` is a core, `k` a cluster, `slot` a job slot
of the commit unit, `c` a context, `n` a command of its ring, `d` a domain. -/
inductive Instr where
  /-- NOP (R180): CTL NOP does nothing. -/
  | nop (q : Nat) (f : CoreFields)
  /-- HALT (R188): HALT ends the program; the phase ends on the core once its transfers and submissions have completed. -/
  | halt (q : Nat) (f : CoreFields)
  /-- BR (R183): BR adds the sign-extended IMM to the program counter and pops every loop level whose body it leaves. -/
  | br (q : Nat) (f : CoreFields)
  /-- LOOP (R183): LOOP runs the next IMM[11:0] instructions count times, and skips the body when count is 0. -/
  | loop (q : Nat) (f : CoreFields)
  /-- LI (R180): LI loads the sign-extended IMM into sA. -/
  | li (q : Nat) (f : CoreFields)
  /-- LUI (R180): LUI places IMM in the upper 32 bits of sA. -/
  | lui (q : Nat) (f : CoreFields)
  /-- ADD (R180): ADD sets sA = sB + sC modulo 2^64. -/
  | add (q : Nat) (f : CoreFields)
  /-- ADDI (R180): ADDI sets sA = sB plus the sign-extended IMM. -/
  | addi (q : Nat) (f : CoreFields)
  /-- SUB (R180): SUB sets sA = sB − sC modulo 2^64. -/
  | sub (q : Nat) (f : CoreFields)
  /-- MUL (R180): MUL keeps the low 64 bits of sB × sC in sA. -/
  | mul (q : Nat) (f : CoreFields)
  /-- AND (R180): AND sets sA = sB and sC. -/
  | andB (q : Nat) (f : CoreFields)
  /-- OR (R180): OR sets sA = sB or sC. -/
  | orB (q : Nat) (f : CoreFields)
  /-- XOR (R180): XOR sets sA = sB xor sC. -/
  | xorB (q : Nat) (f : CoreFields)
  /-- SHL (R180): SHL shifts sB left by sC[5:0] into sA. -/
  | shl (q : Nat) (f : CoreFields)
  /-- SHR (R180): SHR shifts sB right logically by sC[5:0] into sA. -/
  | shr (q : Nat) (f : CoreFields)
  /-- SRA (R180): SRA shifts sB right arithmetically by sC[5:0] into sA. -/
  | sra (q : Nat) (f : CoreFields)
  /-- MIN (R180): MIN sets sA to the signed minimum of sB and sC. -/
  | minS (q : Nat) (f : CoreFields)
  /-- MAX (R180): MAX sets sA to the signed maximum of sB and sC. -/
  | maxS (q : Nat) (f : CoreFields)
  /-- CMP (R180): CMP sets p[A] from comparing sB with sC under the FLAGS condition. -/
  | cmp (q : Nat) (f : CoreFields)
  /-- CMPI (R180): CMPI sets p[A] from comparing sB with the sign-extended IMM. -/
  | cmpi (q : Nat) (f : CoreFields)
  /-- LD (R180): LD loads the aligned u64 at local-store offset sB + IMM into sA. -/
  | ld (q : Nat) (f : CoreFields)
  /-- ST (R180): ST stores sA into the aligned u64 at local-store offset sB + IMM. -/
  | st (q : Nat) (f : CoreFields)
  /-- PSET (R180): PSET combines p[B] and p[C] into p[A] with the FLAGS operation. -/
  | pset (q : Nat) (f : CoreFields)
  /-- LIDX (R180): LIDX loads the iteration index of the loop level that FLAGS names into sA. -/
  | lidx (q : Nat) (f : CoreFields)
  /-- XFER (R190): XFER checks a transfer descriptor at issue, takes a tag and starts a COPY or RED64_ADD transfer. -/
  | xfer (q : Nat) (f : CoreFields)
  /-- TRV_SUBMIT (R108): TRV_SUBMIT queues a batch descriptor at the cluster's traverse engine, and stalls while the queue is full. -/
  | trvSubmit (q : Nat) (f : CoreFields)
  /-- GTH_LOOKUP (R145): GTH_LOOKUP queues a lookup descriptor at the gather engine, and stalls while the queue is full. -/
  | gthLookup (q : Nat) (f : CoreFields)
  /-- GTH_SCATTER (R165): GTH_SCATTER queues a scatter descriptor at the gather engine, and stalls while the queue is full. -/
  | gthScatter (q : Nat) (f : CoreFields)
  /-- DRAIN (R180): DRAIN waits until every earlier XFER of the core has completed. -/
  | drain (q : Nat) (f : CoreFields)
  /-- SIGNAL (R194): SIGNAL sends an addition to a named closure counter, held until earlier transfers complete when FENCE is set. -/
  | signal (q : Nat) (f : CoreFields)
  /-- WAIT (R195): WAIT stalls the core until a cluster closure counter reaches the target modulo 2^32. -/
  | wait (q : Nat) (f : CoreFields)
  /-- RDCNT (R180): RDCNT reads a cluster closure counter into sA. -/
  | rdcnt (q : Nat) (f : CoreFields)
  /-- ZERO (R193): ZERO sets a cluster closure counter to zero, with additions in the same cycle applied after it. -/
  | zero (q : Nat) (f : CoreFields)
  /-- TLD (R198): TLD loads a tile from the local store into a tile register, expanding L4 and decoding sparse layout. -/
  | tld (q : Nat) (f : CoreFields)
  /-- TST (R198): TST writes a tile register, or a binary64 pair, to the local store in dense layout. -/
  | tst (q : Nat) (f : CoreFields)
  /-- TZERO (R199): TZERO sets an accumulator, or both members of an F64 pair, to EMPTY and clears OVF. -/
  | tzero (q : Nat) (f : CoreFields)
  /-- TMMA (R202): TMMA multiplies two log tiles into an accumulator through the 20-bit window, on the array or routed to the sparse engine. -/
  | tmma (q : Nat) (f : CoreFields) (flt1 flt2 : List (Nat × Int))
  /-- TMMA32 (R211): TMMA32 adds an exact binary32 tile product into an accumulator and rounds once. -/
  | tmma32 (q : Nat) (f : CoreFields) (flt1 flt2 : List (Nat × Int))
  /-- TMMA64 (R212): TMMA64 performs binary64 fused multiply-adds into the a0/a1 pair on an anchor core. -/
  | tmma64 (q : Nat) (f : CoreFields) (flt1 flt2 : List (Nat × Int))
  /-- TOUT (R213): TOUT converts an accumulator, optionally fused with a tile, into a tile register and writes its header. -/
  | tout (q : Nat) (f : CoreFields)
  /-- TTRANS (R198): TTRANS writes the transpose of tB, with tB's header, into tA. -/
  | ttrans (q : Nat) (f : CoreFields)
  /-- TACC_ST (R215): TACC_ST writes an accumulator image to the local store in a class S context. -/
  | taccSt (q : Nat) (f : CoreFields)
  /-- TACC_LD (R215): TACC_LD reads an accumulator image from the local store in a class S context. -/
  | taccLd (q : Nat) (f : CoreFields)
  /-- ROUTED_TMMA_START (R234): The sparse engine, once free, loads the match table from tC and streams tB for a routed TMMA. -/
  | routedTmmaStart (k : Nat)
  /-- ROUTED_TMMA_DONE (R231): The sparse engine's window values are promoted, and the routed TMMA writes its accumulator. -/
  | routedTmmaDone (k : Nat)
  /-- SSEG (R235): SSEG queues a segment descriptor at the cluster's sparse engine, and stalls while the queue is full. -/
  | sseg (q : Nat) (f : CoreFields)
  /-- SENC (R226): SENC encodes a tile register into the local store in sparse or dense layout. -/
  | senc (q : Nat) (f : CoreFields)
  /-- SDEC (R227): SDEC loads a tile in either layout into a tile register and recounts NNZ. -/
  | sdec (q : Nat) (f : CoreFields)
  /-- SMCHK (R246): SMCHK sets p[A] to show whether tB is a transposable mask. -/
  | smchk (q : Nat) (f : CoreFields)
  /-- SMGRAD (R247): SMGRAD adds weight gradients at the mask positions into an accumulator, or rejects a mask that is not transposable. -/
  | smgrad (q : Nat) (f : CoreFields)
  /-- VLD (R254): VLD loads 256 bytes from the local store into a vector register. -/
  | vld (q : Nat) (f : CoreFields)
  /-- VST (R254): VST stores the active lanes of a vector register to the local store. -/
  | vst (q : Nat) (f : CoreFields)
  /-- VBCAST (R254): VBCAST copies sB[31:0] into every active lane. -/
  | vbcast (q : Nat) (f : CoreFields)
  /-- VADD (R255): VADD adds two vectors lane by lane in binary32 or int32. -/
  | vadd (q : Nat) (f : CoreFields)
  /-- VSUB (R255): VSUB subtracts two vectors lane by lane. -/
  | vsub (q : Nat) (f : CoreFields)
  /-- VMUL (R255): VMUL multiplies two vectors lane by lane. -/
  | vmul (q : Nat) (f : CoreFields)
  /-- VFMA (R255): VFMA computes vB × vC + vA with one rounding. -/
  | vfma (q : Nat) (f : CoreFields)
  /-- VMIN (R255): VMIN takes the lane-wise minimum. -/
  | vmin (q : Nat) (f : CoreFields)
  /-- VMAX (R255): VMAX takes the lane-wise maximum. -/
  | vmax (q : Nat) (f : CoreFields)
  /-- VABS (R255): VABS takes the lane-wise absolute value. -/
  | vabs (q : Nat) (f : CoreFields)
  /-- VSEL (R254): VSEL selects vB or vC in each lane by a mask register. -/
  | vsel (q : Nat) (f : CoreFields)
  /-- VCMP (R254): VCMP writes a lane-wise comparison into a mask register. -/
  | vcmp (q : Nat) (f : CoreFields)
  /-- VPERM (R262): VPERM permutes lanes by the index lanes of vC. -/
  | vperm (q : Nat) (f : CoreFields)
  /-- VSHUF (R263): VSHUF applies a fixed shuffle kind to the lanes. -/
  | vshuf (q : Nat) (f : CoreFields)
  /-- VPACK (R265): VPACK packs the low W bits of each lane into one part of vA. -/
  | vpack (q : Nat) (f : CoreFields)
  /-- VUNPACK (R265): VUNPACK extracts W-bit fields into lanes, with sign or zero extension. -/
  | vunpack (q : Nat) (f : CoreFields)
  /-- VREDT (R257): VREDT reduces a tile along rows or columns into half of a vector register. -/
  | vredt (q : Nat) (f : CoreFields)
  /-- VSEGRED (R259): VSEGRED performs a segmented scan reduction and writes the segment carry. -/
  | vsegred (q : Nat) (f : CoreFields)
  /-- VEXP2 (R270): VEXP2 computes 2^x per lane by the exact table algorithm. -/
  | vexp2 (q : Nat) (f : CoreFields)
  /-- VLOG2 (R271): VLOG2 computes log2 per lane by the exact table algorithm. -/
  | vlog2 (q : Nat) (f : CoreFields)
  /-- VRCP (R272): VRCP computes a truncated reciprocal per lane. -/
  | vrcp (q : Nat) (f : CoreFields)
  /-- VRSQ (R273): VRSQ computes a truncated reciprocal square root per lane. -/
  | vrsq (q : Nat) (f : CoreFields)
  /-- VCVT (R266): VCVT converts each lane between log, IEEE and int32 formats. -/
  | vcvt (q : Nat) (f : CoreFields)
  /-- MTAIL (R252): MTAIL sets the mask bits of lanes below sB. -/
  | mtail (q : Nat) (f : CoreFields)
  /-- MLOGIC (R252): MLOGIC combines two mask registers with a logic operation. -/
  | mlogic (q : Nat) (f : CoreFields)
  /-- VFMA64 (R256): VFMA64 performs binary64 fused multiply-adds on lane pairs of an anchor core. -/
  | vfma64 (q : Nat) (f : CoreFields)
  /-- VTGET (R258): VTGET moves two lines of a tile into the lanes. -/
  | vtget (q : Nat) (f : CoreFields)
  /-- VTPUT (R258): VTPUT writes the lanes into two lines of a tile's raw slots. -/
  | vtput (q : Nat) (f : CoreFields)
  /-- RKEY (R88): RKEY fills a tile with the keyed stream fields of one tile key. -/
  | rkey (q : Nat) (f : CoreFields)
  /-- RBERN (R95): RBERN writes a keyed Bernoulli mask tile. -/
  | rbern (q : Nat) (f : CoreFields)
  /-- RFREE (R92): RFREE draws one free-running 16-bit field per lane, advancing each generator. -/
  | rfree (q : Nat) (f : CoreFields)
  /-- CVT (R182): CVT converts a tile into another format and writes its header. -/
  | cvt (q : Nat) (f : CoreFields)
  /-- CAMAX (R68): CAMAX reads the running-maximum register into sA and clears the register. -/
  | camax (q : Nat) (f : CoreFields)
  /-- CRED64 (R180): CRED64 writes the 1,024 RED64 integers of a tile to the local store. -/
  | cred64 (q : Nat) (f : CoreFields)
  /-- PHASE_START (R187): Once every core of the current phase has ended, the next phase starts on a cluster: plats are adopted and programs bound to cores. -/
  | phaseStart (slot cluster : Nat)
  /-- CORE_PHASE_END (R188): The phase's work on a core ends once HALT has executed and all its transfers and submissions have completed. -/
  | corePhaseEnd (q : Nat)
  /-- PLAT_DRAWN (R344): The planner finishes drawing a plat in the background, or a forced draw completes. -/
  | platDrawn (slot : Nat) (plat : Plat)
  /-- BATCH_START (R132): The traverse engine starts the next queued descriptor that the lookahead allows, checks it, and begins sampling. -/
  | batchStart (k : Nat)
  /-- BATCH_COMPLETE (R130): Once every block write is complete, the traverse engine increments the batch's closure counter and posts its prefetch hints. -/
  | batchComplete (k id : Nat)
  /-- PREFETCH_HINT (R160): A gather engine queues a prefetch hint from a completed block, or discards it. -/
  | prefetchHint (k : Nat)
  /-- PREFETCH_FETCH (R160): A gather engine fetches a hinted row once the executing step equals the hint's STEP, or at once for a FROZEN table. -/
  | prefetchFetch (k evict : Nat)
  /-- LOOKUP_START (R171): The gather engine starts a queued lookup descriptor, checks it, and begins fetching rows. -/
  | lookupStart (k : Nat)
  /-- LOOKUP_COMPLETE (R151): Once the output tiles and argmax array are written, the gather engine increments the lookup's closure counter. -/
  | lookupComplete (k id : Nat)
  /-- SCATTER_START (R166): The gather engine starts a scatter descriptor and forms contributions into the coalescing buffer. -/
  | scatterStart (k : Nat) (evict : List Nat)
  /-- SCATTER_COMPLETE (R169): Once every coalescing entry is flushed, the scatter's closure counter increments. -/
  | scatterComplete (k id : Nat)
  /-- MIGRATION_SOURCE_FREE (R163): A migration source copy is freed once its step has committed and that step's lookup closure is complete. -/
  | migrationSourceFree (slot table row : Nat)
  /-- SEGMENT_START (R245): The sparse engine starts a segment descriptor, checks it, and processes its segments. -/
  | segmentStart (k : Nat)
  /-- FORWARDED_SEGMENT (R241): An engine takes a forwarded segment from its queue and processes it in the origin's context. -/
  | forwardedSegment (k : Nat)
  /-- SEGMENT_REPORT (R242): A receiving engine reports a completed forwarded segment back to its origin. -/
  | segmentReport (k : Nat)
  /-- AGGREGATE_COMPLETE (R242): An AGGREGATE completes once all its adds are applied, and its closure counter rises. -/
  | aggregateComplete (k id : Nat)
  /-- FINISH_COMPLETE (R243): A FINISH completes once every output tile is written, and its closure counter rises. -/
  | finishComplete (k id : Nat)
  /-- UPD_NOP (R282): Update NOP does nothing. -/
  | updNop (die lane : Nat) (f : UpdFields)
  /-- UPD_LD (R280): Update LD loads a stream's value as at the start of the update phase. -/
  | updLd (die lane : Nat) (f : UpdFields)
  /-- UPD_ST (R280): Update ST records a new value for param, state1 or state2. -/
  | updSt (die lane : Nat) (f : UpdFields)
  /-- UPD_ADD (R282): Update ADD adds two operands with one rounding. -/
  | updAdd (die lane : Nat) (f : UpdFields)
  /-- UPD_SUB (R282): Update SUB subtracts two operands with one rounding. -/
  | updSub (die lane : Nat) (f : UpdFields)
  /-- UPD_MUL (R282): Update MUL multiplies two operands with one rounding. -/
  | updMul (die lane : Nat) (f : UpdFields)
  /-- UPD_FMA (R282): Update FMA computes A × B + C with one rounding. -/
  | updFma (die lane : Nat) (f : UpdFields)
  /-- UPD_DIV (R282): Update DIV divides A by B with one rounding. -/
  | updDiv (die lane : Nat) (f : UpdFields)
  /-- UPD_SQRT (R282): Update SQRT takes the square root of A with one rounding. -/
  | updSqrt (die lane : Nat) (f : UpdFields)
  /-- UPD_RSQRT (R273): Update RSQRT applies the reciprocal square root algorithm to A. -/
  | updRsqrt (die lane : Nat) (f : UpdFields)
  /-- UPD_MIN (R282): Update MIN gives the lesser of A and B. -/
  | updMin (die lane : Nat) (f : UpdFields)
  /-- UPD_MAX (R282): Update MAX gives the greater of A and B. -/
  | updMax (die lane : Nat) (f : UpdFields)
  /-- UPD_ABS (R282): Update ABS gives |A|. -/
  | updAbs (die lane : Nat) (f : UpdFields)
  /-- UPD_SIGN (R282): Update SIGN gives −1, +0 or 1 by the sign of A. -/
  | updSign (die lane : Nat) (f : UpdFields)
  /-- UPD_SEL (R282): Update SEL gives B or C according to a condition on A. -/
  | updSel (die lane : Nat) (f : UpdFields)
  /-- UPD_CLIP (R282): Update CLIP clamps A between B and C. -/
  | updClip (die lane : Nat) (f : UpdFields)
  /-- UPD_LERP (R282): Update LERP interpolates from A to B by C with one rounding. -/
  | updLerp (die lane : Nat) (f : UpdFields)
  /-- UPD_POW (R283): Update POW raises A to a scalar power B. -/
  | updPow (die lane : Nat) (f : UpdFields)
  /-- UPD_AMAX (R288): Update AMAX raises the group's pending amax code. -/
  | updAmax (die lane : Nat) (f : UpdFields)
  /-- UPD_SRND (R284): Update SRND rounds A stochastically into L8, L16 or binary16 using keyed bits. -/
  | updSrnd (die lane : Nat) (f : UpdFields)
  /-- UPDATE_PHASE_DONE (R313): A participant whose update phase has finished with no abort condition sends a ready VOTE with its carried commands. -/
  | updatePhaseDone (slot : Nat)
  /-- UNDO_LOG_FULL (R318): An update die whose undo log is full pauses its update phase, and its commit unit sends PNR_REQUEST. -/
  | undoLogFull (die slot : Nat)
  /-- ROOT_COMPUTE_START (R297): The matrix unit starts the next queued root computation, in order of trigger step and PRECOND. -/
  | rootComputeStart (die : Nat)
  /-- ROOT_COMPUTE_DONE (R294): A root computation finishes, and its residual decides adoption or rejection. -/
  | rootComputeDone (die : Nat)
  /-- REDUCED (R309): The coordinator takes a REDUCED with SENT and APPLIED, and sends CLOSED when the sums match. -/
  | reduced (p : Packet)
  /-- CLOSED (R303): A participant takes CLOSED, the reduce closure, and begins its update phase. -/
  | closed (p : Packet)
  /-- VOTE (R314): The coordinator takes a VOTE; a ready vote from every participant leads to COMMIT, and an abort vote leads to ABORT. -/
  | vote (p : Packet)
  /-- COMMIT (R316): A participant takes COMMIT and performs the apply of the step. -/
  | stepCommit (p : Packet)
  /-- APPLY_DONE (R290): Once every refresh write of the apply is complete, the participant sends DONE. -/
  | applyDone (slot : Nat)
  /-- ABORT (R322): A participant takes ABORT: it stops the job's contexts, rolls back, discards working results and raises marked exponents. -/
  | stepAbort (p : Packet)
  /-- ABORT_DONE (R322): Once rollback is done and no packet of the attempt can still be applied, the module sends DONE. -/
  | abortDone (slot : Nat)
  /-- DONE (R313): The coordinator takes DONE; with DONE from every participant it sends START, or first captures a monument. -/
  | stepDone (p : Packet)
  /-- MONUMENT_WRITTEN (R330): A participant's monument part is completely written. -/
  | monumentWritten (slot : Nat)
  /-- START (R304): A participant takes START, sets the job's current tag and begins the step's first phase. -/
  | stepStart (p : Packet)
  /-- PNR_REQUEST (R318): The coordinator takes PNR_REQUEST and sends PNR_QUERY, or a further grant. -/
  | pnrRequest (p : Packet)
  /-- PNR_QUERY (R318): A participant takes PNR_QUERY and sends its PNR_ANSWER. -/
  | pnrQuery (p : Packet)
  /-- PNR_ANSWER (R318): The coordinator takes PNR_ANSWER, and sends PNR_GRANT once every answer is ready, or ABORT. -/
  | pnrAnswer (p : Packet)
  /-- PNR_GRANT (R319): A participant takes PNR_GRANT and its dies write the remaining granules without logging. -/
  | pnrGrant (p : Packet)
  /-- ALIVE (R317): A commit unit takes ALIVE, which refreshes its timeout for the sender. -/
  | alive (p : Packet)
  /-- ALIVE_DUE (R317): While a step is live, ALIVE is sent when CMT_TIMEOUT / 4 has passed with no other message to that destination. -/
  | aliveDue (slot dest : Nat)
  /-- CARRY (R315): A commit unit takes a CARRY packet that holds a step-bound command. -/
  | carry (p : Packet)
  /-- PEER_SILENT (R317): Before its decision, the coordinator aborts when a participant has been silent for CMT_TIMEOUT. -/
  | peerSilent (slot : Nat)
  /-- REDUCE_LOST (R317): The coordinator aborts when SENT and APPLIED stay apart with no APPLIED change for CMT_TIMEOUT. -/
  | reduceLost (slot : Nat)
  /-- PEER_LOST (R317): After COMMIT, the job halts when a participant has been silent for 2 × CMT_TIMEOUT. -/
  | peerLost (slot : Nat)
  /-- COORDINATOR_LOST (R317): A participant halts the job when the coordinator has been silent for 2 × CMT_TIMEOUT. -/
  | coordinatorLost (slot : Nat)
  /-- CLOSURE_WATCHDOG (R453): A job's closure watchdog expires and takes an abort condition with reason WATCHDOG. -/
  | closureWatchdog (slot : Nat)
  /-- PACKET_ROUTE (R396): A router takes a packet and chooses an output by the tables of its epoch and the up-down rule, or discards it. -/
  | packetRoute (tract output : Nat)
  /-- READ (R391): A destination takes a READ request and returns READ_DATA. -/
  | readReq (p : Packet)
  /-- WRITE (R391): A destination writes a WRITE's data, counts it at its counter, and returns WRITE_ACK. -/
  | writeReq (p : Packet)
  /-- ADD_ACKED (R391): A destination applies acknowledged RED64 contributions and returns WRITE_ACK. -/
  | addAcked (p : Packet)
  /-- READ_DATA (R391): A requester takes returned read data. -/
  | readData (p : Packet)
  /-- WRITE_ACK (R391): A requester takes a write acknowledgement. -/
  | writeAck (p : Packet)
  /-- REG_ACK (R391): A requester takes a register write acknowledgement and may issue its next access to the page. -/
  | regAck (p : Packet)
  /-- REG_DATA (R391): A requester takes the data of a register read. -/
  | regData (p : Packet)
  /-- POSTED_WRITE (R391): A destination writes posted data. -/
  | postedWrite (p : Packet)
  /-- RED64_ADD (R391): A destination adds each word at the site, adds ARG to a table site's count, and counts the packet in APPLIED. -/
  | red64Add (p : Packet)
  /-- COUNT (R391): A destination adds ARG to a closure counter. -/
  | count (p : Packet)
  /-- LINK_LOSS (R388): A commit unit takes LINK_LOSS and treats it as an abort condition with reason LINK. -/
  | linkLoss (p : Packet)
  /-- FRAME_RECEIVED (R387): A port takes a codeword frame and accepts it or refuses it with a negative acknowledgement; control frames carry acks, credits, markers and time stamps. -/
  | frameReceived (port : Nat) (fr : Frame)
  /-- FRAME_ACK_TIMEOUT (R387): A frame neither acknowledged nor refused after 2 µs is resent as if refused. -/
  | frameAckTimeout (port : Nat)
  /-- RETRY_EXHAUSTED (R388): An exhausted retry episode takes the port down, returns or discards buffered packets, sends LINK_LOSS and retrains. -/
  | retryExhausted (port : Nat)
  /-- PORT_TRAINING_DONE (R385): Port training ends with the port up at an agreed width, or down. -/
  | portTrainingDone (port : Nat) (r : Training)
  /-- DRAIN_MARKER (R404): A router takes a drain marker of a DRAINING version and forwards markers or makes the version EMPTY. -/
  | drainMarker (tract input vc : Nat)
  /-- TIME_PPS_EDGE (R409): A rising TIME_PPS_IN edge disciplines a root's time base to the nearest second. -/
  | timePpsEdge
  /-- PPS_MISSING (R409): No PPS edge for 1.5 s is tallied as PPS_MISSING. -/
  | ppsMissing
  /-- CTRL_COMMIT (R46): A write of 1 to CTRL.COMMIT commits the page-triggered staged group in one cycle. -/
  | ctrlCommit (who : Requester) (type inst : Nat)
  /-- QUIESCE (R36): A write to CTRL.QUIESCE makes the block accept no new work and finish what it holds. -/
  | quiesce (who : Requester) (type inst : Nat) (on : Bool)
  /-- ENABLE (R36): A write to CTRL.ENABLE lets the block accept work, or stops it once it is idle. -/
  | enable (who : Requester) (type inst : Nat) (on : Bool)
  /-- BLOCK_QUIESCED (R36): A quiescing block's work in flight ends, and it sets STATUS.QUIESCED or stops. -/
  | blockQuiesced (type inst : Nat)
  /-- EVENT_CLEAR (R41): A W1C write to EVENT clears the bits written as 1, unless hardware sets them in the same cycle. -/
  | eventClear (who : Requester) (type inst : Nat) (bits during : BitVec 8)
  /-- REGISTER_WRITE (R38): A write to a register with no behaviour of its own updates its RW fields, or is refused under the access rules. -/
  | registerWrite (who : Requester) (addr size : Nat) (value : BitVec 64)
  /-- RETRAIN (R388): A write of 1 to LNK_CTRL.RETRAIN retrains the port without an exhausted episode. -/
  | retrain (who : Requester) (port : Nat)
  /-- ARM0 (R402): A write of 1 to RTE_EPOCH.ARM0 moves an EMPTY version 0 to ARMED. -/
  | arm0 (who : Requester) (tract : Nat)
  /-- ARM1 (R402): A write of 1 to RTE_EPOCH.ARM1 moves an EMPTY version 1 to ARMED. -/
  | arm1 (who : Requester) (tract : Nat)
  /-- FLIP (R402): A write of 1 to RTE_EPOCH.FLIP makes the ARMED version INJECTING and the old one DRAINING, or is refused. -/
  | flip (who : Requester) (tract : Nat)
  /-- RTE_RANK_WRITE (R402): A write of a router rank takes effect only while its version is EMPTY. -/
  | rteRankWrite (who : Requester) (tract version : Nat) (rank : BitVec 24)
  /-- RTE_MT_DATA (R414): A write of a module-table entry takes effect only while the selected version is EMPTY. -/
  | rteMtData (who : Requester) (tract : Nat) (entry : BitVec 32)
  /-- RTE_LT_DATA (R414): A write of a local-table entry takes effect only while the selected version is EMPTY. -/
  | rteLtData (who : Requester) (tract : Nat) (entry : BitVec 32)
  /-- RTE_MC_DATA (R414): A write of a multicast entry takes effect only while the selected version is EMPTY. -/
  | rteMcData (who : Requester) (tract : Nat) (entry : BitVec 64)
  /-- RTE_TIME_SET (R409): A write to RTE_TIME_SET steps a root's time base forward only. -/
  | rteTimeSet (who : Requester) (ns : BitVec 64)
  /-- UPD_PROG_COUNT (R300): A write to UPD_PROG_COUNT makes the die read its update programs from UPD_PROG_BASE. -/
  | updProgCount (who : Requester) (die : Nat) (count : BitVec 32)
  /-- CTX_ACTIVATE (R422): A write of 1 to CTX_CONTROL.ACTIVATE reads the context descriptor and makes the context ACTIVE or REFUSED. -/
  | ctxActivate (who : Requester) (c : Nat)
  /-- CTX_DEACTIVATE (R422): A write of 1 to CTX_CONTROL.DEACTIVATE makes a context that holds no job INACTIVE. -/
  | ctxDeactivate (who : Requester) (c : Nat)
  /-- CTX_RESET (R508): A write of 1 to CTX_CONTROL.RESET stops the context, tears down its job and makes it INACTIVE. -/
  | ctxReset (who : Requester) (c : Nat)
  /-- CTX_SQ_TAIL (R424): A doorbell write to CTX_SQ_TAIL makes commands available, or is refused as DOORBELL_INVALID. -/
  | ctxSqTail (who : Requester) (c : Nat) (tail : BitVec 32)
  /-- CTX_CQ_HEAD (R432): A write to CTX_CQ_HEAD consumes records and releases any held records. -/
  | ctxCqHead (who : Requester) (c : Nat) (head : BitVec 32)
  /-- COMMAND_TAKE (R426): A context takes its next command in ring order once the previous command is accepted or refused, or once all earlier ones complete for AFTER. -/
  | commandTake (c : Nat)
  /-- LOAD_IMAGE (R343): LOAD_IMAGE reads, checks and binds a job image to the context. -/
  | loadImage (c n place : Nat)
  /-- RUN (R428): RUN starts a job on its participants and completes when the job stops. -/
  | run (c n : Nat)
  /-- STOP (R428): STOP stops a running job at the next step boundary. -/
  | stop (c n : Nat)
  /-- TABLE_SELECT (R142): TABLE_SELECT selects a table slot at the commit of step s, or is refused. -/
  | tableSelect (c n : Nat)
  /-- STAKE (R156): STAKE adds rows to, or removes rows from, the stake list at the commit of step s. -/
  | stake (c n : Nat)
  /-- MONUMENT (R329): MONUMENT orders a capture of the job's lasting state after step s. -/
  | monument (c n : Nat)
  /-- RESTORE (R331): RESTORE checks a monument against an image and restores the job's lasting state. -/
  | restore (c n place : Nat)
  /-- RESTORE_BEGIN (R331): A restore proceeds once every target module reports the job quiesced with no packet in flight. -/
  | restoreBegin (slot : Nat)
  /-- TEARDOWN (R428): TEARDOWN frees the job's slot, homes and context binding. -/
  | teardown (c n : Nat)
  /-- EASEMENT (R357): EASEMENT grants, changes or releases a domain's reservation. -/
  | easement (c n : Nat)
  /-- EASEMENT_IN_FORCE (R357): A pending easement comes IN FORCE once its resources are reclaimed, and its record is written. -/
  | easementInForce (d : Nat)
  /-- FREEZE (R359): FREEZE makes the planner carry the plat in force at later boundaries. -/
  | freeze (c n : Nat)
  /-- UNFREEZE (R359): UNFREEZE ends a job's freeze. -/
  | unfreeze (c n : Nat)
  /-- SAVE_CONTEXT (R440): SAVE_CONTEXT stops the context and writes its image. -/
  | saveContext (c n : Nat)
  /-- CONTEXT_STOPPED (R440): The context reaches its stop point, started work completes, and its image is written. -/
  | contextStopped (c : Nat)
  /-- RESUME_CONTEXT (R442): RESUME_CONTEXT restores a context image and runs the context again. -/
  | resumeContext (c n : Nat)
  /-- COMMAND_COMPLETE (R431): A completed command's record is written with its generation, and CTX_CQ_TAIL advances. -/
  | commandComplete (c n : Nat)
  /-- COALESCE_TIMEOUT (R435): COALESCE_US after the oldest unnotified record, a notification is raised. -/
  | coalesceTimeout (c : Nat)
  /-- SUBMIT (R438): A SUBMIT datagram writes 1 to 16 commands into the context's ring and advances the tail, or is rejected whole. -/
  | submit (port : Nat) (g : Datagram)
  /-- DGRAM_WRITE (R438): A WRITE datagram writes bytes into host memory. -/
  | dgramWrite (port : Nat) (g : Datagram)
  /-- DGRAM_READ (R438): A READ datagram is answered by a READ_DATA datagram. -/
  | dgramRead (port : Nat) (g : Datagram)
  /-- DGRAM_ACK (R439): An ACK from the host releases the acknowledged datagrams and trace records. -/
  | dgramAck (port : Nat) (g : Datagram)
  /-- DATAGRAM_RESEND (R439): A module datagram not acknowledged within SVC_RESEND_US is resent. -/
  | datagramResend (d seq : Nat)
  /-- DOM_RESET (R507): A write of 1 to DOM_RESET starts a domain reset of its contexts and application cores. -/
  | domReset (who : Requester) (d : Nat)
  /-- RST_DOMAIN_HOLD (R507): A write to RST_DOMAIN_HOLD holds or releases domains in reset. -/
  | rstDomainHold (who : Requester) (hold : BitVec 32)
  /-- DOMAIN_RESET_DONE (R507): A domain reset ends once its contexts are INACTIVE, and its cores restart. -/
  | domainResetDone (d : Nat)
  /-- APC_ASSIGN (R447): A write to APC_ASSIGN moves application cores between domains held in reset. -/
  | apcAssign (who : Requester) (off size : Nat) (value : BitVec 64)
  /-- THD_SEL_WRITE (R512): A write to a cluster counter selector claims, changes or releases the counter, or is refused. -/
  | thdSelWrite (who : Requester) (k n : Nat) (value : BitVec 32)
  /-- THD_GSEL_WRITE (R511): A write to a global counter selector changes its event and zeroes the counter. -/
  | thdGselWrite (who : Requester) (n : Nat) (value : BitVec 32)
  /-- THD_TRACE_CTRL (R515): A write to THD_TRACE_CTRL that changes MODE or SIZE_MIB empties the trace and requests a buffer. -/
  | thdTraceCtrl (who : Requester) (value : BitVec 32)
  /-- TRACE_BUFFER_PLACED (R515): The planner places and maps the trace buffer, or MODE reads OFF with TRACE_REFUSED. -/
  | traceBufferPlaced (d : Nat) (place : Option (Nat × Nat))
  /-- FW_ACTIVATE (R472): A write of 1 to MGT_FW_CTRL.ACTIVATE makes the verified other slot preferred with TRIAL set. -/
  | fwActivate (who : Requester)
  /-- FW_COMMIT (R472): A write of 1 to MGT_FW_CTRL.COMMIT clears TRIAL, raises the anti-rollback count and blows revocations. -/
  | fwCommit (who : Requester)
  /-- PWR_COMMIT (R484): A COMMIT of the PWR staged group changes power state, operating points and gating together, or is refused whole. -/
  | pwrCommit (who : Requester)
  /-- POWER_TRANSITION_DONE (R484): A power state or operating-point transition completes and BUSY clears. -/
  | powerTransitionDone
  /-- ACLK_SWITCH (R485): After its voltage ramp, a tract switches ACLK to the new operating point's frequency. -/
  | aclkSwitch (tract : Nat)
  /-- PWR_BRAKE_ASSERT (R488): A fall of PWR_BRAKE_N drives every tract to P3. -/
  | pwrBrakeAssert
  /-- PWR_BRAKE_RELEASE (R488): A rise of PWR_BRAKE_N returns each tract to its commanded point. -/
  | pwrBrakeRelease
  /-- DROOP (R448): A droop monitor detects supply droop and stretches the tract's ACLK. -/
  | droop (tract : Nat)
  /-- SENSOR_SAMPLE (R480): Every 100 µs the temperature sensors are sampled and failed sensors marked. -/
  | sensorSample (temps : List Int)
  /-- RAIL_TELEMETRY (R481): At 1 kHz the rails are read over AVSBus and PMBus and module power is formed. -/
  | railTelemetry (mv : List (Option Nat)) (mw : List Nat)
  /-- LOG_FLUSH (R482): At least once a second the SRAM log is copied to the flash ring. -/
  | logFlush
  /-- MANAGEMENT_WATCHDOG (R479): The management watchdog expires and causes a warm reset. -/
  | managementWatchdog
  /-- TLS_CONNECT (R477): A management connection is accepted with TLS 1.3 and a client certificate, or refused. -/
  | tlsConnect (h : TlsHello)
  /-- FIRMWARE_UPDATE (R472): An image loaded through the UpdateService is written into the non-running slot and verified. -/
  | firmwareUpdate (image : FwImage)
  /-- ATTESTATION (R476): A nonce request returns a signed attestation report. -/
  | attestation (nonce : BitVec 512)
  /-- CONFIGURE_DOMAIN (R415): An OEM action sets a domain's host kind, contexts, quotas, memory, cores or transport key. -/
  | configureDomain (d : Nat) (ch : DomChange)
  /-- CLEAR_FAULT_HISTORY (R459): An OEM action clears a unit's fault history records. -/
  | clearFaultHistory (kind unit : Nat)
  /-- POWER_ON (R492): PWR_GOOD_IN going low causes a power-on reset. -/
  | powerOn
  /-- COLD_RESET (R495): A recognised low pulse on COLD_RESET_N causes a cold module reset. -/
  | coldReset (ns : Nat)
  /-- WARM_RESET (R495): A recognised low pulse on WARM_RESET_N causes a warm module reset. -/
  | warmReset (ns : Nat)
  /-- RESET_FRAME (R505): A reset-command frame checked in hardware causes a cold or warm reset, or is discarded. -/
  | resetFrame (bytes : List Byte)
  /-- RESET_RELEASE (R496): A reset input going high again starts bring-up at phase 1 or phase 3. -/
  | resetRelease
  /-- SUPPLY_CHECK (R498): Phase 1 checks supplies, clocks and temperatures, and checks again every 1 ms until they pass. -/
  | supplyCheck (sup : Supplies)
  /-- FUSE_LOAD (R498): Phase 2 senses OTP, checks its CRC and extends M0. -/
  | fuseLoad (crcGood : Bool)
  /-- OPTION_LOADING (R498): Phase 3 verifies the option record, forms the fence list, loads configuration and reinstates domains. -/
  | optionLoading
  /-- FIRMWARE_VERIFICATION (R471): Phase 4 verifies and selects a firmware slot, or stops bring-up. -/
  | firmwareVerification
  /-- LPDDR5X_TRAINING (R498): Phase 5 trains each present channel and zeroes the slow tier. -/
  | lpddr5xTraining (failed : List Nat)
  /-- NEAR_TIER_SELF_TEST (R498): Phase 6 tests and zeroes the near tier, zeroes SRAM and runs the generator self-test. -/
  | nearTierSelfTest (banks gens : List Nat)
  /-- LINK_TRAINING (R498): Phase 7 trains link and service ports and sets routing version 0. -/
  | linkTraining (rs : List Training) (svc : List Bool)
  /-- READY (R501): Phase 8 makes the module Ready in RUN at P1 and releases the application cores. -/
  | ready
  /-- REG_READ (R391): A destination takes a REG_READ request, reads the register under R33, R49 and R50 (counting REG_REFUSED when the access is refused), and returns REG_DATA. -/
  | regRead (who : Requester) (addr size : Nat)
  /-- DGRAM_REG_READ (R438): A REG_READ datagram from a remote host is checked, the register is read under R49 and R50, and a REG_DATA datagram is sent and held for resend until acknowledged. -/
  | dgramRegRead (port : Nat) (g : Datagram)
  /-- CONTROL (R391): A CONTROL packet carrying a planner or management message, such as the coordinator's job-wide plat part, is delivered to its endpoint. -/
  | control (p : Packet)
  /-- GUEST_FAULT (R419): A guest access of a local host outside the G-stage mappings is refused and counted as GUEST_FAULT on the APC page. -/
  | guestFault (d addr : Nat)
  /-- SVC_LINK_DOWN (R446): A service port is lost while running, SVC_STATUS leaves up, and LINK_DOWN is tallied. -/
  | svcLinkDown (port : Nat)
  /-- SVC_PORT_UP (R446): A service port finishes training and SVC_STATUS reads up at 400 Gbit/s. -/
  | svcPortUp (port : Nat)
  deriving DecidableEq, Repr

end Sys2Proof
end

