-- ==== Sys2Proof/WellFormed.lean ====
section
/-!
DEFINITION. Which terms are commands at all: every operand within the range that the spec gives it, every field within the
width of its place in an instruction word (R176, R281), a packet header (R390) or a datagram header (R437). A meaning takes
any term: outside these ranges it has no effect, or reads the field modulo its width.
-/
namespace Sys2Proof

/-- Every field of a core instruction fits its place (R176). -/
def CoreFields.wf (f : CoreFields) : Bool :=
  decide (f.pred < 8) && decide (f.a < 32) && decide (f.b < 32) && decide (f.c < 32) && decide (f.flags < 8) &&
    decide (f.imm < 2 ^ 32)

/-- Every field of an update instruction fits its place (R281). -/
def UpdFields.wf (u : UpdFields) : Bool :=
  decide (u.d < 32) && decide (u.a < 64) && decide (u.b < 64) && decide (u.c < 64) && decide (u.f < 8) &&
    decide (u.imm < 2 ^ 32)

/-- Every field of a packet fits its place, and the payload is at most 512 bytes (R390). -/
def Packet.wf (p : Packet) : Bool :=
  decide (p.dst < 2 ^ 24) && decide (p.src < 2 ^ 24) && decide (p.tc < 4) && decide (p.domain < 16) &&
    decide (p.op < 256) && decide (p.job < 2 ^ 16) && decide (p.addr < 2 ^ 48) && decide (p.ctr < 256) &&
    decide (p.inject < 2 ^ 24) && decide (p.len ≤ 512) && decide (p.arg < 2 ^ 32) && decide (p.data.length ≤ 512)

/-- Every field of a datagram fits its place (R437). -/
def Datagram.wf (g : Datagram) : Bool :=
  decide (g.version < 256) && decide (g.type < 256) && decide (g.domain < 256) && decide (g.zero < 256) &&
    decide (g.context < 2 ^ 16) && decide (g.length < 2 ^ 16) && decide (g.addr < 2 ^ 64)

/-- A requester is one the module has. -/
def Requester.wf : Requester → Bool
  | .host d => decide (d < 16)
  | .mgmt => true
  | .planner => true
  | .packet p => p.wf
  | .remote port g => decide (port < 2) && g.wf

/-- A frame carries a well-formed packet, or control. -/
def Frame.wf (f : Frame) : Bool :=
  match f.content with
  | .inl p => p.wf
  | .inr _ => true

/-- Is the command well formed? -/
def Instr.wf (i : Instr) : Bool :=
  match i with
  | .nop q f => decide (q < 10240) && f.wf
  | .halt q f => decide (q < 10240) && f.wf
  | .br q f => decide (q < 10240) && f.wf
  | .loop q f => decide (q < 10240) && f.wf
  | .li q f => decide (q < 10240) && f.wf
  | .lui q f => decide (q < 10240) && f.wf
  | .add q f => decide (q < 10240) && f.wf
  | .addi q f => decide (q < 10240) && f.wf
  | .sub q f => decide (q < 10240) && f.wf
  | .mul q f => decide (q < 10240) && f.wf
  | .andB q f => decide (q < 10240) && f.wf
  | .orB q f => decide (q < 10240) && f.wf
  | .xorB q f => decide (q < 10240) && f.wf
  | .shl q f => decide (q < 10240) && f.wf
  | .shr q f => decide (q < 10240) && f.wf
  | .sra q f => decide (q < 10240) && f.wf
  | .minS q f => decide (q < 10240) && f.wf
  | .maxS q f => decide (q < 10240) && f.wf
  | .cmp q f => decide (q < 10240) && f.wf
  | .cmpi q f => decide (q < 10240) && f.wf
  | .ld q f => decide (q < 10240) && f.wf
  | .st q f => decide (q < 10240) && f.wf
  | .pset q f => decide (q < 10240) && f.wf
  | .lidx q f => decide (q < 10240) && f.wf
  | .xfer q f => decide (q < 10240) && f.wf
  | .trvSubmit q f => decide (q < 10240) && f.wf
  | .gthLookup q f => decide (q < 10240) && f.wf
  | .gthScatter q f => decide (q < 10240) && f.wf
  | .drain q f => decide (q < 10240) && f.wf
  | .signal q f => decide (q < 10240) && f.wf
  | .wait q f => decide (q < 10240) && f.wf
  | .rdcnt q f => decide (q < 10240) && f.wf
  | .zero q f => decide (q < 10240) && f.wf
  | .tld q f => decide (q < 10240) && f.wf
  | .tst q f => decide (q < 10240) && f.wf
  | .tzero q f => decide (q < 10240) && f.wf
  | .tmma q f _ _ => decide (q < 10240) && f.wf
  | .tmma32 q f _ _ => decide (q < 10240) && f.wf
  | .tmma64 q f _ _ => decide (q < 10240) && f.wf
  | .tout q f => decide (q < 10240) && f.wf
  | .ttrans q f => decide (q < 10240) && f.wf
  | .taccSt q f => decide (q < 10240) && f.wf
  | .taccLd q f => decide (q < 10240) && f.wf
  | .routedTmmaStart k => decide (k < 640)
  | .routedTmmaDone k => decide (k < 640)
  | .sseg q f => decide (q < 10240) && f.wf
  | .senc q f => decide (q < 10240) && f.wf
  | .sdec q f => decide (q < 10240) && f.wf
  | .smchk q f => decide (q < 10240) && f.wf
  | .smgrad q f => decide (q < 10240) && f.wf
  | .vld q f => decide (q < 10240) && f.wf
  | .vst q f => decide (q < 10240) && f.wf
  | .vbcast q f => decide (q < 10240) && f.wf
  | .vadd q f => decide (q < 10240) && f.wf
  | .vsub q f => decide (q < 10240) && f.wf
  | .vmul q f => decide (q < 10240) && f.wf
  | .vfma q f => decide (q < 10240) && f.wf
  | .vmin q f => decide (q < 10240) && f.wf
  | .vmax q f => decide (q < 10240) && f.wf
  | .vabs q f => decide (q < 10240) && f.wf
  | .vsel q f => decide (q < 10240) && f.wf
  | .vcmp q f => decide (q < 10240) && f.wf
  | .vperm q f => decide (q < 10240) && f.wf
  | .vshuf q f => decide (q < 10240) && f.wf
  | .vpack q f => decide (q < 10240) && f.wf
  | .vunpack q f => decide (q < 10240) && f.wf
  | .vredt q f => decide (q < 10240) && f.wf
  | .vsegred q f => decide (q < 10240) && f.wf
  | .vexp2 q f => decide (q < 10240) && f.wf
  | .vlog2 q f => decide (q < 10240) && f.wf
  | .vrcp q f => decide (q < 10240) && f.wf
  | .vrsq q f => decide (q < 10240) && f.wf
  | .vcvt q f => decide (q < 10240) && f.wf
  | .mtail q f => decide (q < 10240) && f.wf
  | .mlogic q f => decide (q < 10240) && f.wf
  | .vfma64 q f => decide (q < 10240) && f.wf
  | .vtget q f => decide (q < 10240) && f.wf
  | .vtput q f => decide (q < 10240) && f.wf
  | .rkey q f => decide (q < 10240) && f.wf
  | .rbern q f => decide (q < 10240) && f.wf
  | .rfree q f => decide (q < 10240) && f.wf
  | .cvt q f => decide (q < 10240) && f.wf
  | .camax q f => decide (q < 10240) && f.wf
  | .cred64 q f => decide (q < 10240) && f.wf
  | .phaseStart slot cluster => decide (slot < 64) && decide (cluster < 640)
  | .corePhaseEnd q => decide (q < 10240)
  | .platDrawn slot _ => decide (slot < 64)
  | .batchStart k => decide (k < 640)
  | .batchComplete k _ => decide (k < 640)
  | .prefetchHint k => decide (k < 640)
  | .prefetchFetch k _ => decide (k < 640)
  | .lookupStart k => decide (k < 640)
  | .lookupComplete k _ => decide (k < 640)
  | .scatterStart k _ => decide (k < 640)
  | .scatterComplete k _ => decide (k < 640)
  | .migrationSourceFree slot table _ => decide (slot < 64) && decide (table < 4096)
  | .segmentStart k => decide (k < 640)
  | .forwardedSegment k => decide (k < 640)
  | .segmentReport k => decide (k < 640)
  | .aggregateComplete k _ => decide (k < 640)
  | .finishComplete k _ => decide (k < 640)
  | .updNop die lane f => decide (die < 2) && decide (lane < 512) && f.wf
  | .updLd die lane f => decide (die < 2) && decide (lane < 512) && f.wf
  | .updSt die lane f => decide (die < 2) && decide (lane < 512) && f.wf
  | .updAdd die lane f => decide (die < 2) && decide (lane < 512) && f.wf
  | .updSub die lane f => decide (die < 2) && decide (lane < 512) && f.wf
  | .updMul die lane f => decide (die < 2) && decide (lane < 512) && f.wf
  | .updFma die lane f => decide (die < 2) && decide (lane < 512) && f.wf
  | .updDiv die lane f => decide (die < 2) && decide (lane < 512) && f.wf
  | .updSqrt die lane f => decide (die < 2) && decide (lane < 512) && f.wf
  | .updRsqrt die lane f => decide (die < 2) && decide (lane < 512) && f.wf
  | .updMin die lane f => decide (die < 2) && decide (lane < 512) && f.wf
  | .updMax die lane f => decide (die < 2) && decide (lane < 512) && f.wf
  | .updAbs die lane f => decide (die < 2) && decide (lane < 512) && f.wf
  | .updSign die lane f => decide (die < 2) && decide (lane < 512) && f.wf
  | .updSel die lane f => decide (die < 2) && decide (lane < 512) && f.wf
  | .updClip die lane f => decide (die < 2) && decide (lane < 512) && f.wf
  | .updLerp die lane f => decide (die < 2) && decide (lane < 512) && f.wf
  | .updPow die lane f => decide (die < 2) && decide (lane < 512) && f.wf
  | .updAmax die lane f => decide (die < 2) && decide (lane < 512) && f.wf
  | .updSrnd die lane f => decide (die < 2) && decide (lane < 512) && f.wf
  | .updatePhaseDone slot => decide (slot < 64)
  | .undoLogFull die slot => decide (die < 2) && decide (slot < 64)
  | .rootComputeStart die => decide (die < 2)
  | .rootComputeDone die => decide (die < 2)
  | .reduced p => p.wf
  | .closed p => p.wf
  | .vote p => p.wf
  | .stepCommit p => p.wf
  | .applyDone slot => decide (slot < 64)
  | .stepAbort p => p.wf
  | .abortDone slot => decide (slot < 64)
  | .stepDone p => p.wf
  | .monumentWritten slot => decide (slot < 64)
  | .stepStart p => p.wf
  | .pnrRequest p => p.wf
  | .pnrQuery p => p.wf
  | .pnrAnswer p => p.wf
  | .pnrGrant p => p.wf
  | .alive p => p.wf
  | .aliveDue slot dest => decide (slot < 64) && decide (dest < 2048)
  | .carry p => p.wf
  | .peerSilent slot => decide (slot < 64)
  | .reduceLost slot => decide (slot < 64)
  | .peerLost slot => decide (slot < 64)
  | .coordinatorLost slot => decide (slot < 64)
  | .closureWatchdog slot => decide (slot < 64)
  | .packetRoute tract output => decide (tract < 4) && decide (output < 18)
  | .readReq p => p.wf
  | .writeReq p => p.wf
  | .addAcked p => p.wf
  | .readData p => p.wf
  | .writeAck p => p.wf
  | .regAck p => p.wf
  | .regData p => p.wf
  | .postedWrite p => p.wf
  | .red64Add p => p.wf
  | .count p => p.wf
  | .linkLoss p => p.wf
  | .frameReceived port fr => decide (port < 48) && fr.wf
  | .frameAckTimeout port => decide (port < 48)
  | .retryExhausted port => decide (port < 48)
  | .portTrainingDone port _ => decide (port < 48)
  | .drainMarker tract input vc => decide (tract < 4) && decide (input < 14) && decide (vc < 8)
  | .timePpsEdge => true
  | .ppsMissing => true
  | .ctrlCommit who type inst => who.wf && decide (type < 256) && decide (inst < 16384)
  | .quiesce who type inst _ => who.wf && decide (type < 256) && decide (inst < 16384)
  | .enable who type inst _ => who.wf && decide (type < 256) && decide (inst < 16384)
  | .blockQuiesced type inst => decide (type < 256) && decide (inst < 16384)
  | .eventClear who type inst _ _ => who.wf && decide (type < 256) && decide (inst < 16384)
  | .registerWrite who _ size _ => who.wf && decide (size < 9)
  | .retrain who port => who.wf && decide (port < 48)
  | .arm0 who tract => who.wf && decide (tract < 4)
  | .arm1 who tract => who.wf && decide (tract < 4)
  | .flip who tract => who.wf && decide (tract < 4)
  | .rteRankWrite who tract version _ => who.wf && decide (tract < 4) && decide (version < 2)
  | .rteMtData who tract _ => who.wf && decide (tract < 4)
  | .rteLtData who tract _ => who.wf && decide (tract < 4)
  | .rteMcData who tract _ => who.wf && decide (tract < 4)
  | .rteTimeSet who _ => who.wf
  | .updProgCount who die _ => who.wf && decide (die < 2)
  | .ctxActivate who c => who.wf && decide (c < 16384)
  | .ctxDeactivate who c => who.wf && decide (c < 16384)
  | .ctxReset who c => who.wf && decide (c < 16384)
  | .ctxSqTail who c _ => who.wf && decide (c < 16384)
  | .ctxCqHead who c _ => who.wf && decide (c < 16384)
  | .commandTake c => decide (c < 16384)
  | .loadImage c _ _ => decide (c < 16384)
  | .run c _ => decide (c < 16384)
  | .stop c _ => decide (c < 16384)
  | .tableSelect c _ => decide (c < 16384)
  | .stake c _ => decide (c < 16384)
  | .monument c _ => decide (c < 16384)
  | .restore c _ _ => decide (c < 16384)
  | .restoreBegin slot => decide (slot < 64)
  | .teardown c _ => decide (c < 16384)
  | .easement c _ => decide (c < 16384)
  | .easementInForce d => decide (d < 16)
  | .freeze c _ => decide (c < 16384)
  | .unfreeze c _ => decide (c < 16384)
  | .saveContext c _ => decide (c < 16384)
  | .contextStopped c => decide (c < 16384)
  | .resumeContext c _ => decide (c < 16384)
  | .commandComplete c _ => decide (c < 16384)
  | .coalesceTimeout c => decide (c < 16384)
  | .submit port g => decide (port < 2) && g.wf
  | .dgramWrite port g => decide (port < 2) && g.wf
  | .dgramRead port g => decide (port < 2) && g.wf
  | .dgramAck port g => decide (port < 2) && g.wf
  | .datagramResend d seq => decide (d < 16) && decide (seq < 4294967296)
  | .domReset who d => who.wf && decide (d < 16)
  | .rstDomainHold who _ => who.wf
  | .domainResetDone d => decide (d < 16)
  | .apcAssign who _ size _ => who.wf && decide (size < 9)
  | .thdSelWrite who k _ _ => who.wf && decide (k < 640)
  | .thdGselWrite who _ _ => who.wf
  | .thdTraceCtrl who _ => who.wf
  | .traceBufferPlaced d _ => decide (d < 16)
  | .fwActivate who => who.wf
  | .fwCommit who => who.wf
  | .pwrCommit who => who.wf
  | .powerTransitionDone => true
  | .aclkSwitch tract => decide (tract < 4)
  | .pwrBrakeAssert => true
  | .pwrBrakeRelease => true
  | .droop tract => decide (tract < 4)
  | .sensorSample _ => true
  | .railTelemetry mv mw => decide (mv.length = 16) && decide (mw.length = 16)
  | .logFlush => true
  | .managementWatchdog => true
  | .tlsConnect _ => true
  | .firmwareUpdate _ => true
  | .attestation _ => true
  | .configureDomain d _ => decide (d < 16)
  | .clearFaultHistory kind _ => decide (kind < 16)
  | .powerOn => true
  | .coldReset _ => true
  | .warmReset _ => true
  | .resetFrame _ => true
  | .resetRelease => true
  | .supplyCheck _ => true
  | .fuseLoad _ => true
  | .optionLoading => true
  | .firmwareVerification => true
  | .lpddr5xTraining _ => true
  | .nearTierSelfTest _ _ => true
  | .linkTraining _ _ => true
  | .ready => true
  | .regRead who _ size => who.wf && decide (size < 9)
  | .dgramRegRead port g => decide (port < 2) && g.wf
  | .control p => p.wf
  | .guestFault d _ => decide (d < 16)
  | .svcLinkDown port => decide (port < 2)
  | .svcPortUp port => decide (port < 2)

end Sys2Proof
end

