-- ==== Sys2Proof/Machine/Numbers.lean ====
section
/-!
DEFINITION. Logarithmic numbers, IEEE formats and every conversion between them, bit for bit (chapter 03, R51 to R77).
Exact finite values are sign, magnitude and a power of two; a conversion answers its bits and the tallies it raises.
-/
namespace Sys2Proof.Machine

/-- The tallies of chapter 03 that one conversion or operation raises, counted per element (R73). -/
structure Tal where
  /-- SATURATED -/
  sat : Nat := 0
  /-- UNDERFLOW -/
  unf : Nat := 0
  /-- NAN_IN or INF_IN -/
  special : Nat := 0
  /-- HEADER_INVALID -/
  hdr : Nat := 0
  deriving DecidableEq, Repr

/-- Two tallies together. -/
def Tal.plus (x y : Tal) : Tal := ⟨x.sat + y.sat, x.unf + y.unf, x.special + y.special, x.hdr + y.hdr⟩

/-- No tally. -/
def Tal.none : Tal := {}

/-- An exact finite value: (-1)^neg × mag × 2^e; zero keeps no sign unless the operation says so. -/
structure Val where
  neg : Bool := false
  mag : Nat := 0
  e : Int := 0
  deriving DecidableEq, Repr

/-- Is the value zero? -/
def Val.isZero (x : Val) : Bool := x.mag == 0

/-- The exponent of a non-zero value: 2^exponent ≤ |x| < 2^(exponent+1). -/
def Val.exponent (x : Val) : Int := x.e + (Nat.log2 x.mag : Nat)

/-- The signed integer m with value m × 2^e. -/
def Val.int (x : Val) : Int := if x.neg then -(x.mag : Int) else x.mag

/-- The value m × 2^e. -/
def Val.ofInt (m : Int) (e : Int) : Val := ⟨decide (m < 0), m.natAbs, e⟩

/-- `x` scaled to an integer at exponent `e`, for `e ≤ x.e`. -/
def Val.atExp (x : Val) (e : Int) : Int := x.int * ((2 ^ (x.e - e).toNat : Nat) : Int)

/-- Exact sum. -/
def Val.add (x y : Val) : Val :=
  let e := min x.e y.e
  Val.ofInt (x.atExp e + y.atExp e) e

/-- Exact product. -/
def Val.mul (x y : Val) : Val := ⟨x.neg != y.neg, x.mag * y.mag, x.e + y.e⟩

/-- Negation. -/
def Val.opp (x : Val) : Val := { x with neg := !x.neg }

/-- Absolute value. -/
def Val.abs (x : Val) : Val := { x with neg := false }

/-- `x < y`, exactly. -/
def Val.lt (x y : Val) : Bool :=
  let e := min x.e y.e
  decide (x.atExp e < y.atExp e)

/-- `x = y`, exactly. -/
def Val.eq (x y : Val) : Bool :=
  let e := min x.e y.e
  decide (x.atExp e = y.atExp e)

/-- An exact value and the truth of "some of it lies below the last bit of mag": what a division or a root leaves. -/
structure Trunc where
  neg : Bool
  mag : Nat
  e : Int
  sticky : Bool
  deriving DecidableEq, Repr

/-- A value with nothing below its last bit. -/
def Val.exact (x : Val) : Trunc := ⟨x.neg, x.mag, x.e, false⟩

/-! ## IEEE formats -/

/-- A binary interchange format: precision p, exponent range, width. -/
structure Ieee where
  p : Nat
  emin : Int
  emax : Int
  width : Nat
  deriving DecidableEq, Repr

/-- binary16 -/
def Ieee.b16 : Ieee := ⟨11, -14, 15, 16⟩
/-- binary32 -/
def Ieee.b32 : Ieee := ⟨24, -126, 127, 32⟩
/-- binary64 -/
def Ieee.b64 : Ieee := ⟨53, -1022, 1023, 64⟩

/-- The bits of the largest finite value of the format. -/
def Ieee.maxBits (f : Ieee) (neg : Bool) : Nat :=
  (if neg then 2 ^ (f.width - 1) else 0) + (2 ^ (f.width - 1) - 2 ^ (f.p - 1) - 1)

/-- The largest finite magnitude, as a value. -/
def Ieee.maxVal (f : Ieee) (neg : Bool) : Val := ⟨neg, 2 ^ f.p - 1, f.emax - ((f.p - 1 : Nat) : Int)⟩

/-- What reading an IEEE element gives (R71). -/
structure IeeeIn where
  val : Val
  nan : Bool := false
  inf : Bool := false
  deriving DecidableEq, Repr

/-- The value of an IEEE element (R71): a NaN is +0, an infinity the largest finite value of its sign.
The sign of a zero is kept in `val.neg`. -/
def Ieee.read (f : Ieee) (bits : Nat) : IeeeIn :=
  let frac := fld bits 0 (f.p - 1)
  let ex := fld bits (f.p - 1) (f.width - f.p)
  let neg := bitAt bits (f.width - 1)
  let q : Int := f.emin - ((f.p - 1 : Nat) : Int)
  if ex = 2 ^ (f.width - f.p) - 1 then
    if frac = 0 then { val := f.maxVal neg, inf := true } else { val := {}, nan := true }
  else if ex = 0 then { val := ⟨neg, frac, q⟩ }
  else { val := ⟨neg, 2 ^ (f.p - 1) + frac, q + ((ex - 1 : Nat) : Int)⟩ }

/-- The tally of reading one IEEE element. -/
def IeeeIn.tal (x : IeeeIn) : Tal := { special := b2n (x.nan || x.inf) }

/-- The bits of a rounding, and whether it saturated or went to zero. -/
structure Rounded where
  bits : Nat
  sat : Bool := false
  unf : Bool := false
  deriving DecidableEq, Repr

/-- The tally of a rounding. -/
def Rounded.tal (r : Rounded) : Tal := { sat := b2n r.sat, unf := b2n r.unf }

/-- Round to nearest even in format `f`, saturating at the largest finite value; a non-zero value that rounds to zero
becomes +0 (R70, R71). A value must carry at least p + 2 bits where `sticky` holds. -/
def Ieee.round (f : Ieee) (x : Trunc) : Rounded :=
  if x.mag = 0 then { bits := 0, unf := x.sticky }
  else
    let E := x.e + (Nat.log2 x.mag : Nat)
    let qe := max (E - ((f.p - 1 : Nat) : Int)) (f.emin - ((f.p - 1 : Nat) : Int))
    let sh := qe - x.e
    let n :=
      if sh ≤ 0 then x.mag * 2 ^ (-sh).toNat
      else
        let k := sh.toNat
        let q := x.mag >>> k
        let rem := x.mag % 2 ^ k
        let half := 2 ^ (k - 1)
        if half < rem ∨ (rem = half ∧ (x.sticky = true ∨ q % 2 = 1)) then q + 1 else q
    let s := if x.neg then 2 ^ (f.width - 1) else 0
    if n = 0 then { bits := 0, unf := true }
    else
      -- a carry out of the significand moves to the next binade by the encoding itself
      let ef := qe - (f.emin - ((f.p - 1 : Nat) : Int))
      let enc := if n < 2 ^ (f.p - 1) then n else (ef.toNat + 1) * 2 ^ (f.p - 1) + (n - 2 ^ (f.p - 1))
      if 2 ^ (f.width - 1) - 2 ^ (f.p - 1) ≤ enc then { bits := f.maxBits x.neg, sat := true }
      else { bits := s + enc }

/-- The exact quotient a / b (b non-zero), cut below bit position of at least `k` significant bits. -/
def divTrunc (k : Nat) (a b : Val) : Trunc :=
  let sh := k + 1 + Nat.log2 b.mag
  let n := a.mag * 2 ^ sh
  ⟨a.neg != b.neg, n / b.mag, a.e - b.e - (sh : Nat), n % b.mag != 0⟩

/-- Integer square root by bits: the largest r with r^2 ≤ x, for x < 4^k. -/
def isqrtGo (x : Nat) : Nat → Nat → Nat
  | 0, acc => acc
  | k + 1, acc => if (acc + 2 ^ k) * (acc + 2 ^ k) ≤ x then isqrtGo x k (acc + 2 ^ k) else isqrtGo x k acc

/-- floor of the square root. -/
def isqrt (x : Nat) : Nat := isqrtGo x (Nat.log2 x / 2 + 1) 0

/-- The exact square root of a non-negative value, cut below at least `k` significant bits. -/
def sqrtTrunc (k : Nat) (a : Val) : Trunc :=
  let odd := a.e % 2 = 1
  let m := if odd then a.mag * 2 else a.mag
  let e := if odd then a.e - 1 else a.e
  let n := m * 4 ^ (k + 1)
  let r := isqrt n
  ⟨false, r, e / 2 - ((k + 1 : Nat) : Int), r * r != n⟩

/-! ## Log formats -/

/-- A log format (R51, R52): codes per octave n, bias b, largest code. -/
structure LogFmt where
  n : Nat
  b : Nat
  cmax : Nat
  width : Nat
  deriving DecidableEq, Repr

/-- L4 -/
def LogFmt.l4 : LogFmt := ⟨2, 4, 7, 4⟩
/-- L8 -/
def LogFmt.l8 : LogFmt := ⟨8, 64, 127, 8⟩
/-- L16 -/
def LogFmt.l16 : LogFmt := ⟨256, 16384, 32767, 16⟩

/-- The search of the largest r with 2r - 1 ≤ 2^(16 + num/den). -/
def pow2Go (num den : Nat) : Nat → Nat → Nat
  | 0, acc => acc
  | k + 1, acc =>
    if (2 * (acc + 2 ^ k) - 1) ^ den ≤ 2 ^ (16 * den + num) then pow2Go num den k (acc + 2 ^ k)
    else pow2Go num den k acc

/-- round(2^(num/den) × 2^15) (R59). -/
def pow2Entry (num den : Nat) : Nat := pow2Go num den 16 0

/-- Table t16 of R59. -/
def t16 : List Nat := (List.range 256).map fun j => pow2Entry j 256
/-- Table d16 of R59. -/
def d16 : List Nat := (List.range 256).map fun j => pow2Entry (2 * j + 1) 512
/-- Table t8 of R59. -/
def t8 : List Nat := (List.range 8).map fun j => pow2Entry j 8
/-- Table d8 of R59. -/
def d8 : List Nat := (List.range 8).map fun j => pow2Entry (2 * j + 1) 16
/-- Table t4 of R59. -/
def t4 : List Nat := (List.range 2).map fun j => pow2Entry j 2
/-- Table d4 of R59. -/
def d4 : List Nat := (List.range 2).map fun j => pow2Entry (2 * j + 1) 4

/-- The table t of a format. -/
def LogFmt.t (f : LogFmt) : List Nat := if f.n = 2 then t4 else if f.n = 8 then t8 else t16
/-- The table d of a format. -/
def LogFmt.d (f : LogFmt) : List Nat := if f.n = 2 then d4 else if f.n = 8 then d8 else d16

/-- Sign bit of a log element. -/
def LogFmt.neg (f : LogFmt) (x : Nat) : Bool := bitAt x (f.width - 1)
/-- Code of a log element. -/
def LogFmt.code (f : LogFmt) (x : Nat) : Nat := fld x 0 (f.width - 1)

/-- The value tF[q mod n] × 2^(q div n - 15 + s), with its sign (R60, R61). -/
def LogFmt.ofQ (f : LogFmt) (neg : Bool) (q s : Int) : Val :=
  let r := (q % (f.n : Int)).toNat
  ⟨neg, f.t.getD r 0, (q - (r : Int)) / (f.n : Int) - 15 + s⟩

/-- The decoded value of a log element at scale s (R53, R60). -/
def LogFmt.decode (f : LogFmt) (x : Nat) (s : Int) : Val :=
  let c := f.code x
  if c = 0 then {} else f.ofQ (f.neg x) ((c : Int) - (f.b : Int)) s

/-- L4 to L8 (R54): same sign, code 64 + 4 × (c - 4), and code 0 for code 0. -/
def expandL4 (x : Nat) : Nat :=
  let c := fld x 0 3
  (if bitAt x 3 then 128 else 0) + (if c = 0 then 0 else 64 + 4 * c - 16)

/-- m16 of R63: the leading 16 bits of the magnitude, cut. -/
def m16 (mag : Nat) : Nat :=
  let l := Nat.log2 mag
  if 15 ≤ l then mag >>> (l - 15) else mag <<< (15 - l)

/-- How many entries of a table are at most m. -/
def countLe (tab : List Nat) (m : Nat) : Nat := tab.countP fun t => decide (t ≤ m)

/-- A rounding mode into a log format: nearest, or stochastic with k bits r (R64, R65). -/
inductive LogMode where
  | nearest
  | stoch (k r : Nat)
  deriving DecidableEq, Repr

/-- The unclamped code of R64 or R65 of a non-zero value. -/
def LogFmt.rawCode (f : LogFmt) (x : Val) (s : Int) (mode : LogMode) : Int :=
  let e := x.exponent - s
  let m := m16 x.mag
  let fr :=
    match mode with
    | .nearest => countLe f.d m
    | .stoch k r =>
      let fr := countLe (f.t.drop 1) m
      let lo := f.t.getD fr 0
      let hi := f.t.getD (fr + 1) 65536
      let p := (2 ^ k * (m - lo)) / (hi - lo)
      if r < p then fr + 1 else fr
  (f.b : Int) + (f.n : Int) * e + (fr : Int)

/-- Conversion of an exact value into a log format at scale s (R63 to R66). Zero is code 0. -/
def LogFmt.encode (f : LogFmt) (x : Val) (s : Int) (mode : LogMode) : Rounded :=
  if x.mag = 0 then { bits := 0 }
  else
    let c := f.rawCode x s mode
    let sb := if x.neg then 2 ^ (f.width - 1) else 0
    if (f.cmax : Int) < c then { bits := sb + f.cmax, sat := true }
    else if c < 1 then { bits := 0, unf := true }
    else { bits := sb + c.toNat }

/-- The amax code of a magnitude (R67). -/
def amaxCode (x : Val) : Nat :=
  if x.mag = 0 then 0
  else
    let g := t16.countP fun t => decide (t < m16 x.mag)
    let c : Int := 16384 + 256 * x.exponent + (g : Int)
    if c < 1 then 1 else if 32767 < c then 32767 else c.toNat

/-- The scale chosen from an amax code A with headroom H (R69); L is 18,400 for L8, 32,767 for L16, 16,768 for L4. -/
def scaleFromAmax (f : LogFmt) (a h : Nat) : Int :=
  if a = 0 then 0
  else
    let l : Int := if f.n = 8 then 18400 else if f.n = 256 then 32767 else 16768
    let s : Int := -(((l - (a : Int)) / 256)) + (h : Int)
    if s < -128 then -128 else if 127 < s then 127 else s

/-! ## Formats of tiles (R55) -/

/-- The element formats of R55. -/
inductive Fmt where
  | l8 | l16 | l4 | f16 | f32 | f64
  deriving DecidableEq, Repr

/-- A FORMAT code. -/
def Fmt.ofCode (c : Nat) : Option Fmt :=
  match c with
  | 0 => some .l8 | 1 => some .l16 | 2 => some .l4 | 3 => some .f16 | 4 => some .f32 | 5 => some .f64
  | _ => none

/-- The FORMAT code of a format. -/
def Fmt.toCode : Fmt → Nat
  | .l8 => 0 | .l16 => 1 | .l4 => 2 | .f16 => 3 | .f32 => 4 | .f64 => 5

/-- Bits of an element. -/
def Fmt.bits : Fmt → Nat
  | .l8 => 8 | .l16 => 16 | .l4 => 4 | .f16 => 16 | .f32 => 32 | .f64 => 64

/-- The log format, where the format is one. -/
def Fmt.log? : Fmt → Option LogFmt
  | .l8 => some .l8 | .l16 => some .l16 | .l4 => some .l4
  | _ => none

/-- The IEEE format, where the format is one. -/
def Fmt.ieee? : Fmt → Option Ieee
  | .f16 => some .b16 | .f32 => some .b32 | .f64 => some .b64
  | _ => none

/-- Is the format one of L4, L8, L16? -/
def Fmt.isLog (f : Fmt) : Bool := f.log?.isSome

/-- The exact value of an element of a format at scale s (ignored by an IEEE format), and its tally on reading. -/
def Fmt.read (f : Fmt) (x : Nat) (s : Int) : Val × Tal :=
  match f with
  | .l8 => (LogFmt.l8.decode x s, {})
  | .l16 => (LogFmt.l16.decode x s, {})
  | .l4 => (LogFmt.l4.decode x s, {})
  | .f16 => let i := Ieee.b16.read x; (i.val, i.tal)
  | .f32 => let i := Ieee.b32.read x; (i.val, i.tal)
  | .f64 => let i := Ieee.b64.read x; (i.val, i.tal)

/-- The amax code of an element as it is read (R67): an infinity has code 32,767 and a NaN 0. -/
def Fmt.readAmax (f : Fmt) (x : Nat) (s : Int) : Nat :=
  match f.ieee? with
  | some i => if (i.read x).inf then 32767 else amaxCode (i.read x).val
  | none => amaxCode (f.read x s).1

/-- Encode an exact value in a format (R63 to R66, R70). -/
def Fmt.write (f : Fmt) (x : Val) (s : Int) (mode : LogMode) : Rounded :=
  match f with
  | .l8 => LogFmt.l8.encode x s mode
  | .l16 => LogFmt.l16.encode x s mode
  | .l4 => LogFmt.l4.encode x s mode
  | .f16 => Ieee.b16.round x.exact
  | .f32 => Ieee.b32.round x.exact
  | .f64 => Ieee.b64.round x.exact

/-- Is the element non-zero, as the NNZ count of R56 takes it: its code or IEEE value is non-zero? -/
def Fmt.nonzero (f : Fmt) (x : Nat) : Bool :=
  match f.log? with
  | some l => l.code x != 0
  | none => fld x 0 (f.bits - 1) != 0

/-! ## RED64 (R76, R77) -/

/-- v × 2^-E rounded to the nearest integer, ties to even (R77). -/
def red64Int (x : Val) (E : Int) : Int :=
  let sh := E - x.e
  if sh ≤ 0 then x.int * ((2 ^ (-sh).toNat : Nat) : Int)
  else
    let k := sh.toNat
    let q := x.mag >>> k
    let rem := x.mag % 2 ^ k
    let half := 2 ^ (k - 1)
    let n := if half < rem ∨ (rem = half ∧ q % 2 = 1) then q + 1 else q
    if x.neg then -(n : Int) else n

/-- The contribution of R77: the integer, clamped to ±(2^47 - 1), and whether it was clamped (the step is marked
GRAD_RANGE). -/
def red64Contribution (x : Val) (E : Int) : Int × Bool :=
  let n := red64Int x E
  if (2 ^ 47 : Int) ≤ n then (2 ^ 47 - 1, true)
  else if n ≤ -(2 ^ 47 : Int) then (-(2 ^ 47 - 1), true)
  else (n, false)

/-! ## Tile headers (R55) -/

/-- The fields of an 8-byte tile header. -/
structure TileHdr where
  format : Nat
  dense : Bool
  ovf : Bool
  scale : Int
  nnz : Nat
  whint : Nat
  amax : Nat
  deriving DecidableEq, Repr

/-- The header a 64-bit word spells. -/
def TileHdr.ofWord (w : Nat) : TileHdr :=
  { format := fld w 60 4, dense := bitAt w 59, ovf := bitAt w 58, scale := sgn 8 (fld w 48 8),
    nnz := fld w 32 11, whint := fld w 24 8, amax := fld w 0 15 }

/-- The word of a header, reserved bits zero. -/
def TileHdr.toWord (h : TileHdr) : Nat :=
  (h.format % 16) * 2 ^ 60 + b2n h.dense * 2 ^ 59 + b2n h.ovf * 2 ^ 58 + wrapN 8 h.scale * 2 ^ 48 +
    (h.nnz % 2048) * 2 ^ 32 + (h.whint % 256) * 2 ^ 24 + h.amax % 2 ^ 15

/-- The format of the header, where its code is not reserved. -/
def TileHdr.fmt? (h : TileHdr) : Option Fmt := Fmt.ofCode h.format

/-- R58: FORMAT reserved, NNZ above 1,024, or not dense in a format other than L8 and L16. -/
def TileHdr.invalid (h : TileHdr) : Bool :=
  (5 < h.format) || (1024 < h.nnz) || (!h.dense && (1 < h.format))

/-- The scale that counts: a tile of an IEEE format has scale zero whatever SCALE holds (R56). -/
def TileHdr.s (h : TileHdr) : Int := if h.format ≤ 2 then h.scale else 0

end Sys2Proof.Machine
end

