-- ==== Sys2Proof/Machine/Image.lean ====
section
/-!
DEFINITION. The job image (R339 to R343): its header and records, read through a reader of little-endian numbers, and the
checks of its layout, of core programs (R176, R186), of update programs, groups, curves and preconditioners (R285).
-/
namespace Sys2Proof.Machine

/-- A reader of an image: offset and number of bytes to a little-endian number. -/
abbrev RdN := Nat → Nat → Nat

/-- The reader of a byte list. -/
def rdList (bs : List Byte) : RdN := fun o n => leNat ((bs.drop o).take n)

/-! ## Header and records -/

/-- The header of a job image (R339). -/
structure ImgHdr where
  format : Nat
  flags : Nat
  check : Nat
  length : Nat
  seed : BitVec 64
  firstStep : BitVec 64
  watchdogUs : Nat
  phases : Nat
  phaseTable : Nat
  programs : Nat
  streams : Nat
  programTable : Nat
  streamTable : Nat
  updPrograms : Nat
  updCount : Nat
  groups : Nat
  preconds : Nat
  groupTable : Nat
  precondTable : Nat
  reduces : Nat
  reduceTable : Nat
  tableSlots : Nat
  zeros : Bool

/-- Are the n bytes at an offset zero? -/
def zeroAt (rd : RdN) (o n : Nat) : Bool := rd o n == 0

/-- The header that a reader gives. -/
def ImgHdr.ofRd (rd : RdN) : ImgHdr :=
  { format := rd 0 2, flags := rd 2 2, check := rd 4 1, length := rd 8 8, seed := BitVec.ofNat 64 (rd 0x10 8),
    firstStep := BitVec.ofNat 64 (rd 0x18 8), watchdogUs := rd 0x20 4, phases := rd 0x24 2, phaseTable := rd 0x28 8,
    programs := rd 0x30 4, streams := rd 0x34 4, programTable := rd 0x38 8, streamTable := rd 0x40 8,
    updPrograms := rd 0x48 8, updCount := rd 0x50 2, groups := rd 0x52 2, preconds := rd 0x54 2,
    groupTable := rd 0x58 8, precondTable := rd 0x60 8, reduces := rd 0x68 4, reduceTable := rd 0x70 8,
    tableSlots := rd 0x78 8,
    zeros := zeroAt rd 5 3 && zeroAt rd 0x26 2 && zeroAt rd 0x56 2 && zeroAt rd 0x6C 4 && zeroAt rd 0x80 128 }

/-- X2_MODE -/
def ImgHdr.x2 (h : ImgHdr) : Bool := bitAt h.flags 0
/-- SR3 -/
def ImgHdr.sr3 (h : ImgHdr) : Bool := bitAt h.flags 1
/-- CLASS_L -/
def ImgHdr.classL (h : ImgHdr) : Bool := bitAt h.flags 2

/-- A phase record (R340). -/
structure ImgPhase where
  phase : Nat
  kind : Nat
  flags : Nat
  first : Nat
  count : Nat
  gatherGroup : Nat
  ntKib : Nat
  zeros : Bool

/-- Phase record i. -/
def imgPhase (rd : RdN) (h : ImgHdr) (i : Nat) : ImgPhase :=
  let o := h.phaseTable + 32 * i
  { phase := rd o 2, kind := rd (o + 2) 1, flags := rd (o + 3) 1, first := rd (o + 4) 4, count := rd (o + 8) 2,
    gatherGroup := rd (o + 10) 2, ntKib := rd (o + 12) 4, zeros := zeroAt rd (o + 24) 8 }

/-- A program index entry (R341) with the fields of its program's header (R185). -/
structure ImgProg where
  offset : Nat
  width : Nat
  flags : Nat
  args : Nat
  zeros : Bool
  id : Nat
  phase : Nat
  slot : Nat
  length : Nat
  argBytes : Nat
  hdrZeros : Bool

/-- Program index entry i. -/
def imgProg (rd : RdN) (h : ImgHdr) (i : Nat) : ImgProg :=
  let o := h.programTable + 32 * i
  let p := rd o 8
  { offset := p, width := rd (o + 8) 4, flags := rd (o + 12) 1, args := rd (o + 16) 8, zeros := zeroAt rd (o + 13) 3,
    id := rd p 2, phase := rd (p + 2) 2, slot := rd (p + 4) 1, length := rd (p + 6) 2, argBytes := rd (p + 8) 4,
    hdrZeros := zeroAt rd (p + 5) 1 && zeroAt rd (p + 12) 20 }

/-- Instruction j of a program. -/
def progWord (rd : RdN) (p : ImgProg) (j : Nat) : BitVec 64 := BitVec.ofNat 64 (rd (p.offset + 32 + 8 * j) 8)

/-- The instructions of a program. -/
def progWords (rd : RdN) (p : ImgProg) : List (BitVec 64) := (List.range p.length).map (progWord rd p)

/-- Is a stream id marked free-running (R342)? -/
def freeStream (rd : RdN) (h : ImgHdr) (id : Nat) : Bool :=
  (List.range h.streams).any fun i =>
    rd (h.streamTable + 8 * i) 4 == id && rd (h.streamTable + 8 * i + 4) 1 == 1

/-- A group descriptor (R277). -/
structure GroupDesc where
  group : Nat
  kind : Nat
  flags : Nat
  program : Nat
  workFormat : Nat
  tableId : Nat
  rows : Nat
  cols : Nat
  reduce : Nat
  stream : Nat
  curves : Nat
  curveLen : Nat
  curveMask : Nat
  position : BitVec 64
  zeros : Bool

/-- The group descriptor at an offset. -/
def GroupDesc.ofRd (rd : RdN) (o : Nat) : GroupDesc :=
  { group := rd o 2, kind := rd (o + 2) 1, flags := rd (o + 3) 1, program := rd (o + 4) 1, workFormat := rd (o + 5) 1,
    tableId := rd (o + 6) 2, rows := rd (o + 8) 4, cols := rd (o + 12) 4, reduce := rd (o + 16) 4,
    stream := rd (o + 20) 4, curves := rd (o + 24) 8 % 2 ^ 48, curveLen := rd (o + 32) 8, curveMask := rd (o + 40) 1,
    position := BitVec.ofNat 64 (rd (o + 48) 8),
    zeros := rd (o + 24) 8 / 2 ^ 48 == 0 && zeroAt rd (o + 41) 7 && zeroAt rd (o + 56) 8 }

/-- Points of curve j (R287). -/
def GroupDesc.points (g : GroupDesc) (j : Nat) : Nat := fld g.curveLen (8 * j) 8 + 1

/-- A preconditioner descriptor (R291). -/
structure PrecondDesc where
  precond : Nat
  n : Nat
  root : Nat
  iters : Nat
  lag : Nat
  interval : Nat
  statReduce : Nat
  beta : Nat
  epsilon : Nat
  rootTol : Nat
  zeros : Bool

/-- The preconditioner descriptor at an offset. -/
def PrecondDesc.ofRd (rd : RdN) (o : Nat) : PrecondDesc :=
  { precond := rd o 2, n := rd (o + 2) 2, root := rd (o + 4) 1, iters := rd (o + 5) 1, lag := rd (o + 6) 2,
    interval := rd (o + 8) 2, statReduce := rd (o + 12) 4, beta := rd (o + 16) 8, epsilon := rd (o + 24) 8,
    rootTol := rd (o + 32) 8, zeros := zeroAt rd (o + 10) 2 && zeroAt rd (o + 40) 24 }

/-- A reduction descriptor (R327). -/
structure ReduceDesc where
  index : Nat
  exp : Int
  kind : Nat
  elements : Nat
  raises : Nat
  zeros : Bool

/-- The reduction descriptor at an offset. -/
def ReduceDesc.ofRd (rd : RdN) (o : Nat) : ReduceDesc :=
  { index := rd o 4, exp := sgn 16 (rd (o + 4) 2), kind := rd (o + 6) 1, elements := rd (o + 8) 8, raises := rd (o + 16) 4,
    zeros := zeroAt rd (o + 7) 1 && zeroAt rd (o + 20) 12 }

/-! ## The layout check (R343) -/

/-- Does an extent lie within the image? An empty one is not checked. -/
def fits (h : ImgHdr) (off n : Nat) : Bool := n == 0 || decide (off + n ≤ h.length)

/-- Why an image is refused: reason, and DETAIL of its record (R343, R429). -/
abbrev ImgErr := Nat × Nat

/-- Reason 23 with structure s and index i (R343). -/
def layoutErr (s i : Nat) : ImgErr := (23, i * 65536 + s)

/-- The first of a list of indices that fails. -/
def firstBad (n : Nat) (bad : Nat → Bool) : Option Nat := (List.range n).find? bad

/-- Is the header in range, and its extents within the image (R339)? -/
def hdrRangeBad (h : ImgHdr) : Bool :=
  h.format != 1 || h.flags / 8 != 0 || decide (4 < h.check) || !h.zeros || h.phases == 0 || decide (4096 < h.phases) ||
    h.programs == 0 || decide (65536 < h.programs) || decide (65536 < h.streams) || decide (256 < h.updCount) ||
    decide (4096 < h.groups) || decide (1024 < h.preconds) || decide (65536 < h.reduces) || h.tableSlots / 2 ^ 48 != 0

/-- Do the header's tables pass LENGTH? -/
def hdrExtentBad (h : ImgHdr) : Bool :=
  decide (h.length < 256) || !fits h h.phaseTable (32 * h.phases) || !fits h h.programTable (32 * h.programs) ||
    !fits h h.streamTable (8 * h.streams) || !fits h h.updPrograms (520 * h.updCount) ||
    !fits h h.groupTable (64 * h.groups) || !fits h h.precondTable (64 * h.preconds) ||
    !fits h h.reduceTable (32 * h.reduces)

/-- Is phase record i out of range (R340)? -/
def phaseRangeBad (p : ImgPhase) (i : Nat) : Bool :=
  p.phase != i || decide (3 < p.kind) || p.flags / 4 != 0 || p.count == 0 || decide (65535 < p.count) || !p.zeros

/-- Is program index entry i out of range (R341)? -/
def progRangeBad (p : ImgProg) : Bool := p.width == 0 || decide (16777216 < p.width) || p.flags / 2 != 0 || !p.zeros

/-- Does a program's header, body or argument blocks pass LENGTH? -/
def progExtentBad (h : ImgHdr) (p : ImgProg) : Bool :=
  !fits h p.offset 32 || !fits h p.offset (32 + 8 * p.length) || !fits h p.args (p.width * p.argBytes)

/-- Is stream entry i out of range (R342)? -/
def streamRangeBad (rd : RdN) (h : ImgHdr) (i : Nat) : Bool :=
  let x := rd (h.streamTable + 8 * i) 8
  decide (1 < fld x 32 8) || x / 2 ^ 40 != 0

/-- Has update program i reserved bits in its length word, or a word beyond its LENGTH (R339)? -/
def updWordsBad (rd : RdN) (h : ImgHdr) (i : Nat) : Bool :=
  let o := h.updPrograms + 520 * i
  rd o 8 / 128 != 0 || (List.range 64).any fun j => decide (rd o 8 % 128 ≤ j) && rd (o + 8 + 8 * j) 8 != 0

/-- The layout check of R343: conditions in its order, the lowest record of a structure within one. `bytes` is BYTES of the command;
fields are compared of the records that lie wholly among them, and a table that passes LENGTH fails the third condition. -/
def layoutCheck (rd : RdN) (bytes : Nat) : Option ImgErr :=
  let h := ImgHdr.ofRd rd
  if hdrRangeBad h || decide (bytes < 256) then some (layoutErr 0 0)
  else
    let room (off k n : Nat) : Nat := min n ((bytes - off) / k)
    let ph (i : Nat) : ImgPhase := imgPhase rd h i
    let pg (i : Nat) : ImgProg := imgProg rd h i
    let err (s : Nat) (n : Nat) (bad : Nat → Bool) : Option ImgErr := (firstBad n bad).map (layoutErr s)
    let missing := (List.range 4).any fun k => !(List.range h.phases).any fun i => (ph i).kind == k
    (err 1 (room h.phaseTable 32 h.phases) fun i => phaseRangeBad (ph i) i || decide (h.programs < (ph i).first + (ph i).count)) <|>
    (err 2 (room h.programTable 32 h.programs) fun i => progRangeBad (pg i)) <|>
    (err 3 (room h.streamTable 8 h.streams) fun i => streamRangeBad rd h i) <|>
    (err 4 (room h.updPrograms 520 h.updCount) fun i => updWordsBad rd h i) <|>
    (err 5 (room h.reduceTable 32 h.reduces) fun i =>
      let r := ReduceDesc.ofRd rd (h.reduceTable + 32 * i)
      r.index != i || decide (2 < r.kind) || !r.zeros) <|>
    (if hdrExtentBad h then some (layoutErr 0 0) else none) <|>
    (err 2 h.programs fun i => progExtentBad h (pg i)) <|>
    (if h.length != bytes then some (layoutErr 0 0) else none) <|>
    (err 1 h.phases fun i => i != 0 && decide ((ph i).kind < (ph (i - 1)).kind)) <|>
    (if missing then some (layoutErr 1 0xFFFF) else none) <|>
    (err 1 h.phases fun i =>
      let p := ph i
      (if bitAt p.flags 0 then decide (h.groups ≤ p.gatherGroup) else p.gatherGroup != 0xFFFF) || bitAt p.flags 1 && p.kind != 2) <|>
    (err 2 h.programs fun e =>
      (List.range h.phases).any fun i =>
        decide ((ph i).first ≤ e) && decide (e < (ph i).first + (ph i).count) && (pg e).phase != i) <|>
    (err 3 h.streams fun i => (List.range i).any fun j => rd (h.streamTable + 8 * j) 4 == rd (h.streamTable + 8 * i) 4)

/-! ## Core programs (R176, R186) -/

/-- How an instruction uses its fields: which bits of A, B, C, FLAGS and IMM may be set, and whether its sub-fields hold
only values the opcode lists. -/
structure FieldUse where
  a : Nat := 0
  b : Nat := 0
  c : Nat := 0
  flags : Nat := 0
  imm : Nat := 0
  ok : Bool := true

/-- Fields of the IMM of CVT and TOUT (R182). -/
def convUse (imm : Nat) : Nat × Bool :=
  let fmt := imm % 16
  let src := fld imm 8 2
  if 2 < fmt then (0xFF0003FF, decide (fmt ≤ 5))
  else ((if src = 0 then 0xFF000000 else 0x000000E0) + 0x31F, src != 3)

/-- The fields each opcode uses, or none for a reserved OP (R180, R226, R246, R247, R254 to R266). -/
def fieldUse (cls op flags imm : Nat) : Option FieldUse :=
  let int := 0x80000000
  match cls, op with
  | 0, 0x00 => some {}
  | 0, 0x01 => some {}
  | 0, 0x02 => some { imm := 0xFFFFFFFF }
  | 0, 0x03 => if bitAt flags 0 then some { b := 31, flags := 1, imm := 0xFFF } else some { flags := 1, imm := 0xFFFF0FFF }
  | 0, 0x04 => some { a := 31, imm := 0xFFFFFFFF }
  | 0, 0x05 => some { a := 31, imm := 0xFFFFFFFF }
  | 0, 0x07 => some { a := 31, b := 31, imm := 0xFFFFFFFF }
  | 0, 0x12 => some { a := 7, b := 31, c := 31, flags := 7, ok := decide (flags ≤ 5) }
  | 0, 0x13 => some { a := 7, b := 31, flags := 7, imm := 0xFFFFFFFF, ok := decide (flags ≤ 5) }
  | 0, 0x14 => some { a := 31, b := 31, imm := 0xFFFFFFFF }
  | 0, 0x15 => some { a := 31, b := 31, imm := 0xFFFFFFFF }
  | 0, 0x16 => some { a := 7, b := 7, c := 7, flags := 7, ok := decide (flags ≤ 3) }
  | 0, 0x17 => some { a := 31, flags := 3 }
  | 0, op => if 6 ≤ op ∧ op ≤ 0x11 then some { a := 31, b := 31, c := 31 } else none
  | 1, 0x04 => some {}
  | 1, op => if op ≤ 3 then some { a := 31 } else none
  | 2, 0x00 => some { b := 31, flags := 1, imm := 0xFFFFFFFF }
  | 2, 0x01 => some { b := 31, imm := 0xFF }
  | 2, 0x02 => some { a := 31, imm := 0xFF }
  | 2, 0x03 => some { imm := 0xFF }
  | 2, _ => none
  | 3, 0x00 => some { a := 7, b := 31 }
  | 3, 0x01 => some { a := 7, b := 31 }
  | 3, 0x02 => some { a := 1 }
  | 3, 0x06 =>
    let u := convUse imm
    some { a := 7, b := 1, c := if flags = 0 then 0 else 7, flags := 7, imm := u.1, ok := u.2 && decide (flags ≤ 2) }
  | 3, 0x07 => some { a := 7, b := 7 }
  | 3, 0x08 => some { a := 1, b := 31 }
  | 3, 0x09 => some { a := 1, b := 31 }
  | 3, op => if op ≤ 5 then some { a := 1, b := 7, c := 7 } else none
  | 4, 0x00 => some { b := 31 }
  | 4, 0x01 => some { a := 31, b := 7 }
  | 4, 0x02 => some { a := 7, b := 31 }
  | 4, 0x03 => some { a := 7, b := 7 }
  | 4, 0x04 => some { a := 1, b := 31, c := 7, flags := 1 }
  | 4, _ => none
  | 5, op =>
    match op with
    | 0x00 | 0x01 | 0x02 => some { a := 31, b := 31, flags := 7 }
    | 0x03 | 0x04 | 0x05 | 0x07 | 0x08 => some { a := 31, b := 31, c := 31, flags := 7, imm := int }
    | 0x06 => some { a := 31, b := 31, c := 31, flags := 7 }
    | 0x09 => some { a := 31, b := 31, flags := 7, imm := int }
    | 0x0A => some { a := 31, b := 31, c := 31, flags := 7, imm := 7 }
    | 0x0B => some { a := 7, b := 31, c := 31, flags := 7, imm := int + 7,
                     ok := decide (imm % 8 ≤ (if bitAt imm 31 then 5 else 3)) }
    | 0x0C => some { a := 31, b := 31, c := 31, flags := 7 }
    | 0x0D =>
      let k := imm % 8
      some { a := 31, b := 31, c := if k = 0 ∨ k = 4 then 0 else 31, flags := 7,
             imm := if k = 1 ∨ k = 2 then 7 else 0x3F07, ok := decide (k ≤ 4) }
    | 0x0E | 0x0F => some { a := 31, b := 31, flags := 7, imm := 0xF3, ok := imm % 4 != 3 }
    | 0x10 => some { a := 31, b := 7, flags := 7, imm := 0xF, ok := fld imm 1 2 != 3 }
    | 0x11 => some { a := 31, b := 31, c := 7, flags := 7, imm := int + 0xF }
    | 0x12 | 0x13 | 0x14 | 0x15 => some { a := 31, b := 31, flags := 7 }
    | 0x16 =>
      let dst := imm % 16
      let src := fld imm 8 4
      let ok (x : Nat) : Bool := decide (x ≤ 4) || x == 8
      some { a := 31, b := 31, c := if bitAt imm 4 && decide (dst ≤ 2) then 31 else 0, flags := 7,
             imm := (if dst ≤ 2 ∨ src ≤ 2 then 0xFF0000 else 0) + 0xF1F, ok := ok dst && ok src }
    | 0x17 => some { a := 7, b := 31 }
    | 0x18 => some { a := 7, b := 7, c := 7, imm := 7 }
    | 0x19 => some { a := 31, b := 31, c := 31, flags := 7 }
    | 0x1A => some { a := 31, b := 7, flags := 7, imm := 0x3F }
    | 0x1B => some { a := 7, b := 31, flags := 7, imm := 0x1F }
    | _ => none
  | 6, 0x00 => some { a := 7, b := 31, c := 31, imm := 0xFFFFFFFF }
  | 6, 0x01 => some { a := 7, b := 31, c := 31, imm := 0xFFFF }
  | 6, 0x02 => some { a := 31, imm := 0xFFFFFFFF }
  | 6, _ => none
  | 7, 0x00 => let u := convUse imm; some { a := 7, b := 7, imm := u.1, ok := u.2 }
  | 7, 0x01 => some { a := 31 }
  | 7, 0x02 => some { a := 31, b := 7, c := 31 }
  | _, _ => none

/-- Does a value set no bit outside a mask? -/
def within (x mask : Nat) : Bool := x &&& mask == x

/-- OPCODE (reason 2) of an instruction word. -/
def opcodeBad (w : Nat) : Bool :=
  let flags := fld w 32 3
  let imm := fld w 0 32
  match fieldUse (fld w 61 3) (fld w 50 7) flags imm with
  | none => true
  | some u =>
    !u.ok || !within (fld w 45 5) u.a || !within (fld w 40 5) u.b || !within (fld w 35 5) u.c || !within flags u.flags ||
      !within imm u.imm

/-- Is a word the instruction of a class and an OP? -/
def isOp (w cls op : Nat) : Bool := fld w 61 3 == cls && fld w 50 7 == op

/-- The loop bodies of a program: index of the LOOP, and one past the last instruction of its body. -/
def loopBodies (ws : List Nat) : List (Nat × Nat) :=
  ((List.range ws.length).zip ws).filterMap fun p => if isOp p.2 0 3 then some (p.1, p.1 + 1 + p.2 % 4096) else none

/-- Is an instruction inside the body of a LOOP? -/
def inBody (b : Nat × Nat) (i : Nat) : Bool := decide (b.1 < i) && decide (i < b.2)

/-- The lowest reason that instruction i fails, 0 where it passes (R186). -/
def instReason (ws : List Nat) (loops : List (Nat × Nat)) (slot : Nat) (classL : Bool) (free : Nat → Bool) (i w : Nat) :
    Nat :=
  let imm := fld w 0 32
  if opcodeBad w then 2
  else if (isOp w 3 5 || isOp w 5 0x19) && slot % 16 != 0 then 3
  else if isOp w 0 2 && (let t : Int := i + sgn 32 imm
      decide (t < 0) || decide ((ws.length : Int) ≤ t) || loops.any fun b => inBody b t.toNat && !inBody b i) then 4
  else if isOp w 0 3 && (let e := i + 1 + imm % 4096
      imm % 4096 == 0 || decide (ws.length < e) || decide (3 < loops.countP fun b => inBody b i) ||
        loops.any fun b => inBody b i && decide (b.2 < e)) then 5
  else if classL && (isOp w 3 8 || isOp w 3 9) then 6
  else if (isOp w 6 0 && free imm) || (isOp w 6 2 && !free imm) then 7
  else if isOp w 3 5 && fld w 45 5 == 1 then 8
  else 0

/-- The check of one program: reason and instruction index (R186). -/
def progCheck (rd : RdN) (h : ImgHdr) (p : ImgProg) : Option (Nat × Nat) :=
  if p.length == 0 || decide (2048 < p.length) || decide (4096 < p.argBytes) || p.argBytes % 8 != 0 ||
      decide (15 < p.slot) || !p.hdrZeros then some (1, 0)
  else
    let ws := (progWords rd p).map (·.toNat)
    let loops := loopBodies ws
    ((List.range ws.length).zip ws).findSome? fun x =>
      match instReason ws loops p.slot h.classL (freeStream rd h) x.1 x.2 with
      | 0 => none
      | r => some (r, x.1)

/-- The check of every core program: reason and DETAIL (R186, R429). -/
def programsCheck (rd : RdN) : Option ImgErr :=
  let h := ImgHdr.ofRd rd
  (List.range h.programs).findSome? fun i =>
    let p := imgProg rd h i
    (progCheck rd h p).map fun e => (e.1, p.id * 65536 + e.2)

/-! ## Update programs, groups, preconditioners (R285) -/

/-- Operands each update OP uses: D, A, B, C, F values, IMM mask; none for a reserved OP (R281, R282). -/
structure UpdUse where
  d : Bool := true
  a : Bool := false
  b : Bool := false
  c : Bool := false
  f : List Nat := [0]
  imm : Nat := 0

/-- The fields of each update OP. IMM is used where an operand names it, or SRND takes its headroom from it. -/
def updUse (op : Nat) : Option UpdUse :=
  match op with
  | 0x00 => some { d := false }
  | 0x01 => some { f := [0, 1, 2, 3] }
  | 0x02 => some { d := false, a := true, f := [0, 1, 2, 3] }
  | 0x03 | 0x04 | 0x05 | 0x07 | 0x0A | 0x0B | 0x11 => some { a := true, b := true }
  | 0x06 | 0x0F | 0x10 => some { a := true, b := true, c := true }
  | 0x08 | 0x09 | 0x0C | 0x0D => some { a := true }
  | 0x0E => some { a := true, b := true, c := true, f := [0, 1, 2, 3] }
  | 0x12 => some { d := false, a := true }
  | 0x13 => some { a := true, f := [0, 1, 3], imm := 7 }
  | _ => none

/-- The lowest reason that update instruction i of a program fails, 0 where it passes (R285). -/
def updReason (ws : List Nat) (i w : Nat) : Nat :=
  let op := fld w 58 6
  let d := fld w 53 5
  let a := fld w 47 6
  let b := fld w 41 6
  let c := fld w 35 6
  let f := fld w 32 3
  let imm := fld w 0 32
  match updUse op with
  | none => 17
  | some u =>
    let named := (u.a && a == 0x1A) || (u.b && b == 0x1A) || (u.c && c == 0x1A)
    if !u.f.contains f || (!u.d && d != 0) || (!u.a && a != 0) || (!u.b && b != 0) || (!u.c && c != 0) ||
        !(named || within imm u.imm) then 17
    else if (u.a && decide (0x1C < a)) || (u.b && decide (0x1C < b)) || (u.c && decide (0x1C < c)) || decide (15 < d) ||
        (op == 0x11 && !(decide (0x10 ≤ b) && decide (b ≤ 0x1C))) then 18
    else if op == 2 && (f == 1 || (ws.take i).any fun x => fld x 58 6 == 2 && fld x 32 3 == f) then 19
    else 0

/-- The words of update program i. -/
def updWords (rd : RdN) (h : ImgHdr) (i : Nat) : List Nat :=
  let o := h.updPrograms + 520 * i
  (List.range (rd o 8 % 128)).map fun j => rd (o + 8 + 8 * j) 8

/-- The check of the update programs. -/
def updCheck (rd : RdN) : Option ImgErr :=
  let h := ImgHdr.ofRd rd
  (List.range h.updCount).findSome? fun i =>
    let n := rd (h.updPrograms + 520 * i) 8 % 128
    if n == 0 || decide (64 < n) then some (16, i * 65536)
    else
      let ws := updWords rd h i
      ((List.range n).zip ws).findSome? fun x =>
        match updReason ws x.1 x.2 with
        | 0 => none
        | r => some (r, i * 65536 + x.1)

/-- Is a group descriptor refused as GROUP? -/
def groupBad (rd : RdN) (h : ImgHdr) (i : Nat) : Bool :=
  let g := GroupDesc.ofRd rd (h.groupTable + 64 * i)
  g.group != i || !g.zeros || decide (1 < g.kind) || g.flags / 2 != 0 || decide (h.updCount ≤ g.program) ||
    g.tableId / 4096 != 0 || g.workFormat / 16 != 0 || decide (1 < g.workFormat % 16) ||
    (g.kind == 0 && (g.rows == 0 || decide (16777216 < g.rows) || g.cols == 0 || decide (16777216 < g.cols))) ||
    (g.kind == 1 && (bitAt g.flags 0 || (List.range i).any fun j =>
      let x := GroupDesc.ofRd rd (h.groupTable + 64 * j)
      x.kind == 1 && x.tableId == g.tableId))

/-- Is a present curve of a group refused? `curve a n` reads n bytes at a context address of host memory, or none where
they do not lie there or cannot be read. -/
def curveBad (g : GroupDesc) (curve : Nat → Nat → Option (List Byte)) : Bool :=
  (List.range 8).any fun j =>
    bitAt g.curveMask j &&
      match curve (g.curves + 4096 * j) (16 * g.points j) with
      | none => true
      | some bs => (List.range (g.points j - 1)).any fun i => decide (rdList bs (16 * (i + 1)) 8 ≤ rdList bs (16 * i) 8)

/-- The check of the groups and their curves. -/
def groupsCheck (rd : RdN) (curve : Nat → Nat → Option (List Byte)) : Option ImgErr :=
  let h := ImgHdr.ofRd rd
  (List.range h.groups).findSome? fun i =>
    if groupBad rd h i then some (20, i * 65536)
    else if curveBad (GroupDesc.ofRd rd (h.groupTable + 64 * i)) curve then some (21, i * 65536)
    else none

/-- The check of the preconditioners (R291). -/
def precondsCheck (rd : RdN) : Option ImgErr :=
  let h := ImgHdr.ofRd rd
  (List.range h.preconds).findSome? fun i =>
    let p := PrecondDesc.ofRd rd (h.precondTable + 64 * i)
    if p.precond != i || p.n == 0 || decide (512 < p.n) || (p.root != 2 && p.root != 4) || p.iters == 0 ||
        decide (64 < p.iters) || p.lag == 0 || decide (p.interval < p.lag) || p.interval == 0 || !p.zeros then
      some (22, i * 65536)
    else none

/-- Every check of an image after its class (R186, R285, R343): reason and DETAIL of the first failure. -/
def imageCheck (rd : RdN) (bytes : Nat) (curve : Nat → Nat → Option (List Byte)) : Option ImgErr :=
  layoutCheck rd bytes <|> programsCheck rd <|> updCheck rd <|> groupsCheck rd curve <|> precondsCheck rd

end Sys2Proof.Machine
end

