-- ==== Sys2Proof/Machine/Tab.lean ====
section
/-!
DEFINITION. Sparse tables: a list of (key, value) pairs in one canonical form, keys strictly rising and no entry equal
to the table's default. Memory, register files, queues by number and page headers are such tables.
-/
namespace Sys2Proof.Machine

/-- A sparse table: an unlisted key reads as the table's default, which each use names. -/
abbrev Tab (α : Type) := List (Nat × α)

namespace Tab
variable {α : Type}

/-- The value at a key. -/
def get (d : α) : Tab α → Nat → α
  | [], _ => d
  | (k, v) :: r, i => if k = i then v else get d r i

/-- Is every key of the table above `i`, rising, and no value the default? -/
def wfFrom [DecidableEq α] (d : α) : Nat → Tab α → Bool
  | _, [] => true
  | i, (k, v) :: r => decide (i ≤ k) && decide (v ≠ d) && wfFrom d (k + 1) r

/-- The canonical form: keys strictly rising, no entry equal to the default. -/
def wf [DecidableEq α] (d : α) (t : Tab α) : Bool := wfFrom d 0 t

/-- The table without a key. -/
def erase : Tab α → Nat → Tab α
  | [], _ => []
  | (k, v) :: r, i => if k = i then erase r i else (k, v) :: erase r i

/-- Write one key; writing the default removes the entry. -/
def put [DecidableEq α] (d : α) : Tab α → Nat → α → Tab α
  | [], i, x => if x = d then [] else [(i, x)]
  | (k, v) :: r, i, x =>
    if x = d then erase ((k, v) :: r) i
    else if k = i then (i, x) :: r
    else if i < k then (i, x) :: (k, v) :: r
    else (k, v) :: put d r i x

/-- Change one key by a function. -/
def upd [DecidableEq α] (d : α) (t : Tab α) (i : Nat) (f : α → α) : Tab α := put d t i (f (get d t i))

/-- The entries at keys below `a`. -/
def below : Tab α → Nat → Tab α
  | [], _ => []
  | (k, v) :: r, a => if k < a then (k, v) :: below r a else []

/-- The entries at keys from `a` on. -/
def above : Tab α → Nat → Tab α
  | [], _ => []
  | (k, v) :: r, a => if k < a then above r a else (k, v) :: r

/-- The `n` values at keys i, i + 1, ..., of a table whose keys are all at least i. -/
def expandFrom (d : α) : Nat → Nat → Tab α → List α
  | 0, _, _ => []
  | n + 1, i, [] => d :: expandFrom d n (i + 1) []
  | n + 1, i, (k, v) :: r =>
    if k = i then v :: expandFrom d n (i + 1) r else d :: expandFrom d n (i + 1) ((k, v) :: r)

/-- The values at keys a to a + n - 1; a table in canonical form is walked once. -/
def getRange [DecidableEq α] (d : α) (t : Tab α) (a n : Nat) : List α :=
  if wf d t then expandFrom d n a (above t a) else (List.range n).map fun i => get d t (a + i)

/-- The entries that values at keys a, a + 1, ... make. -/
def ofListFrom [DecidableEq α] (d : α) : Nat → List α → Tab α
  | _, [] => []
  | a, x :: xs => if x = d then ofListFrom d (a + 1) xs else (a, x) :: ofListFrom d (a + 1) xs

/-- The table of a list of values at keys 0, 1, .... -/
def ofList [DecidableEq α] (d : α) (xs : List α) : Tab α := ofListFrom d 0 xs

/-- Write values at keys a, a + 1, .... -/
def putRange [DecidableEq α] (d : α) (t : Tab α) (a : Nat) (xs : List α) : Tab α :=
  below t a ++ ofListFrom d a xs ++ above t (a + xs.length)

/-- Back to the default at keys a to a + n - 1. -/
def clearRange (t : Tab α) (a n : Nat) : Tab α := below t a ++ above t (a + n)

/-- The first n values. -/
def toListN [DecidableEq α] (d : α) (t : Tab α) (n : Nat) : List α := getRange d t 0 n

/-- Rewrite every listed entry; an entry that becomes the default leaves the table. -/
def mapVals [DecidableEq α] (d : α) (f : Nat → α → α) : Tab α → Tab α
  | [] => []
  | (k, v) :: r => if f k v = d then mapVals d f r else (k, f k v) :: mapVals d f r

end Tab
end Sys2Proof.Machine
end

