-- ==== Sys2Proof/Machine/State.lean ====
section
/-!
DEFINITION. The state of one X4 module as plain data: every register, table, queue, buffer, mode and pin the spec gives
it, its reset value, and the queue of waiting commands. Sub-structures follow the chapters of the spec; a docstring names
the rule that gives the state. Widths are the spec's: a register is a bit vector of its width, a count, index or
position a natural number.
-/
namespace Sys2Proof.Machine

/-- Why a step can stop with a fault. Raised by the meaning of SUPPLY_CHECK only, where R524 and R528 promise no behaviour; safe (the
hardware's behaviour there is not described). -/
inductive Fault where
  /-- A reference clock is outside the limits of R524, or the power-up order of R528 was broken: "the X4 promises no behaviour".
  Raised by SUPPLY_CHECK. Safe. -/
  | outsideElectricalLimits
  deriving DecidableEq, Repr

/-- Why a command is refused by the model. -/
inductive Refusal where
  /-- The command has no meaning in the model yet; raised by an arm of exec only. Safe. -/
  | notModelled (mnemonic : String)
  deriving DecidableEq, Repr

/-! ## Pages, module make-up, tracts and clusters (chapters 01, 02, 04) -/

/-- The state behind the common header of a page 0 (R35, R36, R40): QUIESCE, ENABLE, STATUS.QUIESCED, EVENT, EVENT_MASK
and the eight tallies. ID, VERSION, CAPS, ACTIVE and FENCED are computed. -/
structure Hdr where
  quiesce : Bool := false
  enable : Bool := true
  quiesced : Bool := false
  event : BitVec 8 := 0
  mask : BitVec 8 := 0
  tallies : Tab (BitVec 32) := []
  deriving DecidableEq, Repr

/-- A TRC page (R29). -/
structure Trc where
  mhz : BitVec 16 := 1000
  op : BitVec 2 := 1
  tempMax : BitVec 16 := 0
  cycles : BitVec 48 := 0
  stretched : BitVec 48 := 0
  deriving DecidableEq, Repr

/-- The registers and closure counters of a cluster (R30). TEMP and GATED are computed from sensor k and PWR_GATE. -/
structure Clu where
  assigned : Bool := false
  domain : BitVec 4 := 0
  job : BitVec 16 := 0
  /-- the domain that held the cluster last, for the zeroing of R30; none when no domain has -/
  lastDomain : Option Nat := none
  hashKib : BitVec 11 := 0
  prefetchKib : BitVec 9 := 0
  suspect : Bool := false
  closureAdds : BitVec 48 := 0
  counters : Tab (BitVec 32) := []
  deriving DecidableEq, Repr

/-- RNG_SELFTEST (R99). -/
structure RngPage where
  done : Bool := false
  fail : Bool := false
  failed : BitVec 10 := 0
  deriving DecidableEq, Repr

/-! ## Cores: scalar state, tile registers, accumulators, vector registers (chapters 07, 08, 10) -/

/-- A tile register (R197): a header and 1,024 element slots of 32 bits, row-major. -/
structure Tile where
  hdr : BitVec 64 := 0
  slots : Tab (BitVec 32) := []
  deriving DecidableEq, Repr

/-- The mode of an accumulator (R199). -/
inductive AccMode where
  | empty | log | f32 | f64
  deriving DecidableEq, Repr

/-- An accumulator (R199). `wa` counts in mode LOG only. `vals` holds a LOG element as N sign-extended to 64 bits, an
F32 element as its 32 bits, and in mode F64, where a0 and a1 are one pair, a0 holds the binary64 values. -/
structure Acc where
  mode : AccMode := .empty
  ovf : Bool := false
  wa : Int := 0
  vals : Tab (BitVec 64) := []
  deriving DecidableEq, Repr

/-- One level of the loop stack (R174): first instruction of the body, its length, the count, the iteration index. -/
structure LoopLvl where
  start : Nat
  len : Nat
  count : BitVec 64
  idx : BitVec 64
  deriving DecidableEq, Repr

/-- What COR_STATE.STATE reads (R196). -/
inductive CoreRun where
  | idle | running | waiting | stalled | halted
  deriving DecidableEq, Repr

/-- Settings a core holds for the phase it runs: what the planner binds at phase start (R187, R217) and what its
instructions take from the job image (R65, R88, R209, R217). -/
structure CoreBind where
  /-- job slot of the commit unit -/
  slot : Nat := 0
  /-- context number -/
  ctx : Nat := 0
  /-- job seed (R88) -/
  seed : BitVec 64 := 0
  /-- k = 4, or 3 (R65) -/
  k3 : Bool := false
  /-- X2 mode (R209) -/
  x2 : Bool := false
  /-- checked fraction code, 0 off to 4 all (R217) -/
  check : Nat := 0
  /-- logical core index, position among the core's runs -/
  index : Nat := 0
  run : Nat := 0
  /-- the last run of the phase has ended (R188) -/
  ended : Bool := false
  deriving DecidableEq, Repr

/-- A transfer descriptor (R189). `bad` holds when a field that must be zero is not. -/
structure XferDesc where
  src : Nat
  dst : Nat
  srcAt : Nat
  dstAt : Nat
  srcGlobal : Bool
  dstGlobal : Bool
  rowBytes : Nat
  rows : Nat
  srcStride : Int
  dstStride : Int
  counter : BitVec 32
  increment : BitVec 32
  op : Nat
  bad : Bool
  deriving DecidableEq, Repr

/-- One READ of a transfer still to be answered: where its bytes go. -/
structure XferPiece where
  /-- handle of the READ -/
  handle : Nat
  /-- module and offset the bytes go to -/
  dstModule : Nat
  dstAddr : Nat
  len : Nat
  deriving DecidableEq, Repr

/-- A transfer of a core that has not completed (R189 to R191). -/
structure Xfer where
  /-- tag, 0 to 63 -/
  tag : Nat
  /-- a number that orders the core's transfers -/
  ord : Nat
  desc : XferDesc
  /-- READs still to be answered; the tag is held until there are none (R191) -/
  reads : List XferPiece
  /-- handles of WRITEs and adds still to be acknowledged -/
  writes : List Nat
  /-- source bytes failed their second read: what they would have written is never written -/
  lost : Bool := false
  deriving DecidableEq, Repr

/-- A SIGNAL with FENCE that is held until the transfers it follows complete (R194). -/
structure HeldSignal where
  /-- it waits for every transfer whose order number is below this -/
  before : Nat
  /-- time since which it is held (R451) -/
  since : Nat
  counter : BitVec 32
  inc : BitVec 32
  deriving DecidableEq, Repr

/-- One core (R174 to R196): scalar registers, predicates, loop stack, instruction buffer, engines' registers, page. -/
structure CoreSt where
  s : Tab (BitVec 64) := []
  /-- p0 to p7; bit 0 reads as 1 in the one operation that reads predicates -/
  p : BitVec 8 := 0
  loops : List LoopLvl := []
  pc : BitVec 11 := 0
  /-- the core issues nothing further: execution has passed the last instruction (R175), or a multiply failed its check
  twice (R450) -/
  passed : Bool := false
  ibuf : List (BitVec 64) := []
  run : CoreRun := .idle
  bind : CoreBind := {}
  progId : BitVec 16 := 0
  phase : BitVec 16 := 0
  step : BitVec 64 := 0
  waitCounter : BitVec 8 := 0
  waitTarget : BitVec 32 := 0
  /-- the wait is a DRAIN -/
  draining : Bool := false
  retired : BitVec 48 := 0
  stalls : BitVec 48 := 0
  waits : BitVec 48 := 0
  amax : BitVec 15 := 0
  dmaPc : BitVec 11 := 0
  dmaReason : BitVec 8 := 0
  t : Tab Tile := []
  a0 : Acc := {}
  a1 : Acc := {}
  v : Tab (BitVec 2048) := []
  m : Tab (BitVec 64) := []
  carry : BitVec 32 := 0
  carryOpen : Bool := false
  /-- multiplies executed in the current program (R217) -/
  mulOrd : Nat := 0
  xfers : List Xfer := []
  xferOrd : Nat := 0
  /-- time since which the core waits, stalls, has passed its end, or has ended (R451) -/
  since : Nat := 0
  held : List HeldSignal := []
  deriving DecidableEq, Repr

/-! ## Sparse engine (chapter 09) -/

/-- A routed TMMA at a sparse engine (R228, R233): what the instruction took at issue. -/
structure Routed where
  core : Nat
  pc : BitVec 11
  accIx : Nat
  tb : Nat
  tc : Nat
  s29 : BitVec 64
  s30 : BitVec 64
  s31 : BitVec 64
  /-- the instruction's ordinal is checked under R217 -/
  check : Bool
  /-- tB and tC (each with the other half of its pair) as the engine has read them; empty until it has -/
  tiles : Tab Tile
  /-- the engine has started it: it has read tB and tC -/
  started : Bool
  /-- faults of the first and the second execution (R449) -/
  flt1 : List (Nat × Int)
  flt2 : List (Nat × Int)
  deriving DecidableEq, Repr

/-- A segment descriptor (R235) with the core, context and step tag that submitted it. -/
structure SegDesc where
  core : Nat
  ctx : Nat
  /-- job slot of the commit unit -/
  slot : Nat
  tag : BitVec 16
  kind : Nat
  flags : Nat
  width : Nat
  closure : Nat
  format : Nat
  outScale : Int
  rowFirst : Nat
  rows : Nat
  reduce : Nat
  offsets : Nat
  columns : Nat
  edgeValues : Nat
  data : Nat
  sums : Nat
  bad : Bool
  deriving DecidableEq, Repr

/-- A segment that another engine of the module processes for its origin (R240, R241). -/
structure FwdSeg where
  origin : Nat
  /-- number of the descriptor at the origin -/
  id : Nat
  desc : SegDesc
  row : Nat
  seg : Nat
  deriving DecidableEq, Repr

/-- A segment descriptor in progress: pieces of remote memory still to come, handles of adds whose application is not
known, forwarded segments not yet reported, and output writes not yet acknowledged. -/
structure SegWork where
  id : Nat
  desc : SegDesc
  /-- rows below this one, counted from ROW_FIRST, have been processed -/
  nextRow : Nat
  /-- segments of that row below this one have been processed or forwarded -/
  nextSeg : Nat := 0
  /-- forwarded segments not yet reported -/
  fwdOut : Nat := 0
  /-- handles of output writes, and keys of adds at this module, still out -/
  writes : List Nat := []
  /-- adds sent to other modules: source and destination station, SEQ -/
  far : List (Nat × Nat × BitVec 32) := []
  /-- every local segment has been processed, or the FINISH has written its output -/
  computed : Bool := false
  /-- time it was started -/
  since : Nat
  deriving DecidableEq, Repr

/-- One sparse engine (R222 to R249). -/
structure Spr where
  threshold : BitVec 11 := 0x100
  heavy : BitVec 24 := 0x1000
  pos : BitVec 10 := 0
  count : BitVec 10 := 0
  /-- the spread list of the phase: clusters in ascending number (R240) -/
  spread : List Nat := []
  routed : List Routed := []
  queue : List SegDesc := []
  work : List SegWork := []
  fwd : List FwdSeg := []
  /-- forwarded segments processed here and not yet reported (R242) -/
  reports : List (Nat × Nat) := []
  nextId : Nat := 0
  tiles : BitVec 48 := 0
  matched : BitVec 48 := 0
  segments : BitVec 48 := 0
  forwarded : BitVec 48 := 0
  maskTile : BitVec 64 := 0
  maskCore : BitVec 14 := 0
  maskPc : BitVec 11 := 0
  refuse : BitVec 8 := 0
  deriving DecidableEq, Repr

/-! ## Memory tiers (chapter 14) -/

/-- What the reads of a 64-byte granule deliver in place of what it holds (R378 to R380). -/
structure GranErr where
  /-- the 64 bytes and the code that are delivered -/
  bytes : List Byte := []
  code : BitVec 32 := 0
  /-- so of every read until a whole-granule write, not of the next read alone -/
  lasting : Bool := false
  /-- a partial write whose read failed has left the granule with a code that marks it failed -/
  failed : Bool := false
  deriving DecidableEq, Repr

/-- Counters of a near-tier die (R381) or a channel (R382). -/
structure MemPage where
  mode : BitVec 2 := 0
  reads : BitVec 48 := 0
  writes : BitVec 48 := 0
  adds : BitVec 48 := 0
  stalls : BitVec 48 := 0
  errAddr : BitVec 64 := 0
  deriving DecidableEq, Repr

/-! ## Narber fabric (chapter 15) -/

/-- Training state of a link port: LNK_STATUS.STATE (R412). -/
inductive LinkState where
  | down | training | up | retraining
  deriving DecidableEq, Repr

/-- A frame in a replay buffer: its link sequence number, the packet or control it carries, how often it has been resent, and when it
was last sent. -/
structure TxFrame where
  seq : BitVec 12
  content : Packet ⊕ CtlFrame
  resends : Nat := 0
  sentAt : Nat := 0
  deriving DecidableEq, Repr

/-- The packet that a frame carries. -/
def TxFrame.packet? (f : TxFrame) : Option Packet :=
  match f.content with
  | .inl p => some p
  | .inr _ => none

/-- One link port (R383 to R388, R412). -/
structure Lnk where
  state : LinkState := .down
  width : BitVec 4 := 0
  group : BitVec 3 := 0
  passing : BitVec 8 := 0
  remoteValid : Bool := false
  remoteModule : BitVec 11 := 0
  remotePort : BitVec 6 := 0
  rank0 : BitVec 24 := 0
  rank1 : BitVec 24 := 0
  framesTx : BitVec 48 := 0
  framesRx : BitVec 48 := 0
  corrected : BitVec 48 := 0
  resends : BitVec 48 := 0
  retrains : BitVec 48 := 0
  /-- sequence number of the next new frame -/
  txSeq : BitVec 12 := 0
  /-- sequence number of the next frame to accept -/
  rxSeq : BitVec 12 := 0
  /-- the frame that was refused and has not come again: it and every later frame is discarded until it does (R387) -/
  refused : Option (BitVec 12) := none
  /-- accepted frames that wait for an earlier one of another lane, so that the port's order is restored (R384) -/
  early : List Frame := []
  /-- acknowledgement, refusal and credit returns owed to the other end, for the next control frame -/
  owedAck : Option (BitVec 12) := none
  owedNack : Option (BitVec 12) := none
  owedCredit : List (Nat × Nat) := []
  owedMarkers : List Nat := []
  /-- the router's ranks are to be sent: a version has been armed (R399) -/
  owedRanks : Bool := false
  /-- transmit stamp of the control frame last accepted, and when it came (R409) -/
  echo : Option (Nat × Nat) := none
  /-- packet frames sent since the last control frame: one frame in every 22 is a control frame (R386) -/
  sinceControl : Nat := 0
  /-- the retrain in progress follows an exhausted episode -/
  exhausted : Bool := false
  /-- packets chosen for the port and not yet framed -/
  queue : List Packet := []
  /-- replay buffer, oldest first, at most 2,048 frames -/
  replay : List TxFrame := []
  /-- the frame whose resend began the current retry episode, and the time it began (R388) -/
  episode : Option (BitVec 12 × Nat) := none
  /-- that frame would need a ninth resend (R388) -/
  ninth : Bool := false
  /-- cells in use at the other end, per virtual channel: 2 × class + epoch (R407) -/
  used : Tab Nat := []
  /-- width of the last training that ended up (WIDTH_REDUCED) -/
  lastWidth : Nat := 0
  deriving DecidableEq, Repr

/-- The state of one version of a router's tables (R402). -/
inductive Version where
  | empty | armed | injecting | draining
  deriving DecidableEq, Repr

/-- A packet held at a router, and the input code it came by: 0 to 13 a hop input, 14 to 16 a local unit. -/
structure Held where
  pkt : Packet
  input : Nat
  deriving DecidableEq, Repr

/-- One version of a router's tables (R395): rank, module, local and multicast entries. -/
structure RteTables where
  state : Version := .empty
  rank : BitVec 24 := 0
  mt : Tab (BitVec 32) := []
  lt : Tab (BitVec 32) := []
  mc : Tab (BitVec 64) := []
  deriving DecidableEq, Repr

/-- One tract router (R395 to R414). The time base is the module's own field. -/
structure Rte where
  v0 : RteTables := {}
  v1 : RteTables := {}
  inject : Bool := false
  markers : BitVec 14 := 0
  /-- the markers that have arrived, by input and traffic class: bit 4 × input + class (R404) -/
  vcMarkers : BitVec 56 := 0
  /-- hop outputs on which the markers of the DRAINING version have been sent -/
  markersSent : BitVec 14 := 0
  /-- drain markers that have come and have not been taken: input, virtual channel -/
  inbox : List (Nat × Nat) := []
  routed : BitVec 48 := 0
  discarded : BitVec 48 := 0
  held : List Held := []
  /-- round robin over request, response, posted; deficits by output, class and domain (R407) -/
  turn : Tab Nat := []
  deficit : Tab Nat := []
  mtSel : BitVec 13 := 0
  ltSel : BitVec 14 := 0
  mcSel : BitVec 13 := 0
  deriving DecidableEq, Repr

/-- The module's time base (R409, R413). -/
structure TimeBase where
  ns : BitVec 64 := 0
  root : Bool := true
  pps : Bool := false
  locked : Bool := false
  parent : BitVec 4 := 0
  offset : BitVec 32 := 0
  /-- correction still to be slewed, in ns; and ticks since the last nanosecond of it -/
  slew : Int := 0
  slewTicks : Nat := 0
  /-- time of the last PPS edge -/
  lastPps : Nat := 0
  deriving DecidableEq, Repr

/-- The duplicate filter of one control flow (R394): its floor, and the SEQ values at or above it that were accepted. -/
structure DupFilter where
  floor : BitVec 32 := 0
  seen : List (BitVec 32) := []
  deriving DecidableEq, Repr

/-! ## Traverse and gather engines (chapters 05, 06) -/

/-- Who submitted a descriptor: core, context, job slot of the commit unit, and the step tag of the attempt. -/
structure Origin where
  core : Nat
  ctx : Nat
  slot : Nat
  tag : BitVec 16
  deriving DecidableEq, Repr

/-- A hop spec of a batch descriptor (R108). -/
structure HopSpec where
  fanout : Nat
  mode : Nat
  edgeData : Nat
  restartP : Nat
  walkLen : Nat
  returnW : Nat
  inoutW : Nat
  topk : Nat
  reserved : Nat
  deriving DecidableEq, Repr

/-- A batch descriptor (R108). `bad` holds when a reserved bit is set. -/
structure BatchDesc where
  org : Origin
  graph : Nat
  batch : BitVec 64
  step : BitVec 64
  seeds : Nat
  block : Nat
  pages : Nat
  queryTime : Nat
  window : Nat
  stream : BitVec 32
  closure : Nat
  hops : Nat
  seedCount : Nat
  specs : List HopSpec
  bad : Bool
  deriving DecidableEq, Repr

/-- A batch in progress: whether its block has been written, and the writes still to be acknowledged. -/
structure TrvWork where
  id : Nat
  desc : BatchDesc
  written : Bool := false
  writes : List Nat := []
  /-- status of the block written: 0 or 2 -/
  status : Nat := 0
  /-- the block's ID_LIST, for the hints of R133 -/
  ids : List Nat := []
  /-- FLAGS of its graph -/
  flags : Nat := 0
  /-- parcel map entries as they stood when the batch started, of parcels moved since: module, offset, entry; and the copies they name:
  module, offset, bytes (R106) -/
  oldMap : List (Nat × Nat × Nat) := []
  oldCopies : List (Nat × Nat × Nat) := []
  /-- time it was started -/
  since : Nat := 0
  deriving DecidableEq, Repr

/-- One traverse engine (R101 to R136). -/
structure Trv where
  lookahead : BitVec 2 := 1
  queue : List BatchDesc := []
  work : List TrvWork := []
  nextId : Nat := 0
  batches : BitVec 48 := 0
  draws : BitVec 48 := 0
  reads : BitVec 48 := 0
  lastBatch : BitVec 64 := 0
  step : BitVec 64 := 0
  hashOcc : BitVec 17 := 0
  hashPeak : BitVec 17 := 0
  refuseReason : BitVec 8 := 0
  refuseBatch : BitVec 64 := 0
  deriving DecidableEq, Repr

/-- A lookup (R145) or scatter (R165) descriptor. `shape` is BAGS or SHAPE; `bytes` holds the reserved bytes. -/
structure GthDesc where
  org : Origin
  scatter : Bool
  tableId : Nat
  pool : Nat
  /-- OUT_FORMAT of a lookup, POOL byte place of a scatter: byte 3 of the descriptor -/
  byte3 : Nat
  kind : Nat
  shape : Nat
  step : BitVec 64
  indices : Nat
  bagOffsets : Nat
  weights : Nat
  data : Nat
  argmax : Nat
  closure : Nat
  outScale : Int
  reserved : Nat
  deriving DecidableEq, Repr

/-- A lookup or scatter in progress. -/
structure GthWork where
  id : Nat
  desc : GthDesc
  since : Nat := 0
  /-- the output has been written (lookup), or every contribution has been formed (scatter) -/
  done : Bool := false
  writes : List Nat := []
  deriving DecidableEq, Repr

/-- A prefetch hint: STEP of the block, table ids, row (R160). -/
structure Hint where
  cluster : Nat
  slot : Nat
  step : BitVec 64
  tables : List Nat
  row : Nat
  deriving DecidableEq, Repr

/-- A row in the prefetch area, keyed by table id, VERSION and row. -/
structure Prefetched where
  slot : Nat
  table : Nat
  version : Nat
  row : Nat
  frozen : Bool
  /-- the bytes are a master row, of class `cls`; otherwise a working copy -/
  master : Bool
  cls : Nat
  bytes : List Byte
  deriving DecidableEq, Repr

/-- An entry of the coalescing buffer (R169). -/
structure Coal where
  slot : Nat
  tag : BitVec 16
  table : Nat
  row : Nat
  seg : Nat
  /-- module of the master and master offset of the segment's first element -/
  module : Nat
  addr : Nat
  sums : List (BitVec 64)
  count : Nat
  deriving DecidableEq, Repr

/-- One gather engine (R137 to R173). -/
structure Gth where
  prefetchKib : BitVec 9 := 0x080
  queue : List GthDesc := []
  work : List GthWork := []
  nextId : Nat := 0
  /-- hints posted by completed blocks and not yet taken into the queue -/
  inHints : List Hint := []
  hints : List Hint := []
  area : List Prefetched := []
  coal : List Coal := []
  lookups : BitVec 48 := 0
  rows : BitVec 48 := 0
  hits : BitVec 48 := 0
  contributions : BitVec 48 := 0
  addsSent : BitVec 48 := 0
  emptyBags : BitVec 48 := 0
  step : BitVec 64 := 0
  refuseTable : BitVec 12 := 0
  refuseReason : BitVec 8 := 0
  refuseStep : BitVec 64 := 0
  dropTable : BitVec 12 := 0
  dropIndex : BitVec 41 := 0
  deriving DecidableEq, Repr

/-- A unit that has reads of another module's memory outstanding: the descriptor in progress of a cluster's engine, an
update die, the planner's or a context's transfer of a command. -/
inductive Owner where
  | core (q ord : Nat)
  | trv (k id : Nat)
  | gth (k id : Nat)
  | spr (k id : Nat)
  | gthStart (k : Nat)
  | trvStart (k : Nat)
  | sprStart (k : Nat)
  | sprFwd (k : Nat)
  | prefetch (k : Nat)
  | upd (die : Nat)
  | planner (slot : Nat)
  | cmt (slot : Nat)
  deriving DecidableEq, Repr

/-- A read sent to another module (R391): its handle, where from, and its data once it has come; `failed` when both
reads of a granule met a code error (R379). -/
structure Fetch where
  owner : Owner
  handle : Nat
  module : Nat
  addr : Nat
  len : Nat
  data : Option (List Byte) := none
  failed : Bool := false
  deriving DecidableEq, Repr

/-! ## Update dies (chapter 11) -/

/-- A parameter group's lasting state on this module and the values a die shows (R286, R288, R301). -/
structure GroupSt where
  position : BitVec 64 := 0
  amax : BitVec 15 := 0
  /-- pending amax code of the attempt (R288) -/
  pending : BitVec 15 := 0
  /-- scalars c0 to c7 of the step's update phase (R287) -/
  scalars : List (BitVec 32) := []
  /-- exponent E of the step's gradients -/
  exp : Int := 0
  /-- elements that each die updated in the attempt, and in the last committed step -/
  updated : Tab Nat := []
  elements : Tab Nat := []
  deriving DecidableEq, Repr

/-- A preconditioner's lasting state (R292, R296, R302): the addresses of S, the two root slots and their tiles lie in
the plat; values lie in memory. -/
structure PrecondSt where
  select : Bool := false
  /-- the snapshot A awaiting adoption, with the step that triggered it -/
  snapshot : Option (BitVec 64 × List (BitVec 64)) := none
  /-- the computed root and its residual, when its computation has finished: X, or none when rejected -/
  result : Option (Option (List (BitVec 64)) × BitVec 64) := none
  residual : BitVec 64 := 0
  adopted : BitVec 64 := 0
  rejects : BitVec 48 := 0
  deriving DecidableEq, Repr

/-- The element an update lane is working on (R280): group, row, column, registers, loaded stream values, recorded new
values, next instruction. -/
structure LaneSt where
  slot : Nat
  group : Nat
  row : Nat
  col : Nat
  regs : Tab (BitVec 32) := []
  /-- param, state1, state2 as at the start of the update phase, and the gradient's N -/
  loaded : List (BitVec 32) := []
  grad : BitVec 64 := 0
  /-- local offsets of param, state1, state2 -/
  addrs : List Nat := []
  /-- recorded new values of param, state1, state2 -/
  stored : List (Option (BitVec 32)) := []
  pc : Nat := 0
  deriving DecidableEq, Repr

/-- A queued or running root computation (R297). -/
structure RootJob where
  slot : Nat
  precond : Nat
  step : BitVec 64
  deriving DecidableEq, Repr

/-- An undo-log record (R310): its granule and step. The record stands in the log's memory with the granule's old
contents. -/
structure UndoRec where
  addr : Nat
  step : BitVec 64
  deriving DecidableEq, Repr

/-- One update die (R276 to R302). -/
structure Upd where
  groups : BitVec 13 := 0
  preconds : BitVec 11 := 0
  groupBase : BitVec 48 := 0
  precondBase : BitVec 48 := 0
  step : BitVec 64 := 0
  state : BitVec 3 := 0
  elements : BitVec 48 := 0
  rows : BitVec 48 := 0
  refresh : BitVec 48 := 0
  roots : BitVec 48 := 0
  busy : BitVec 48 := 0
  progBase : BitVec 48 := 0
  progCount : BitVec 9 := 0
  progSel : BitVec 8 := 0
  progIndex : BitVec 6 := 0
  /-- the die's copy of the update programs, read when UPD_PROG_COUNT is written (R300) -/
  programs : List (List (BitVec 64)) := []
  groupSel : BitVec 12 := 0
  rootSel : BitVec 10 := 0
  lanes : Tab (Option LaneSt) := []
  rootRunning : Option RootJob := none
  rootQueue : List RootJob := []
  deriving DecidableEq, Repr

/-! ## Commit unit: jobs (chapters 12, 13) -/

/-- CMT_JOB_STATE.STATE (R336). -/
inductive JobState where
  | idle | running | reducing | updating | voted | applying | aborting | pastPnr | halted | capturing | restoring
  deriving DecidableEq, Repr

/-- A write of the apply that crosses the fabric and is not yet acknowledged (R290, R389): handle, module, offset, bytes. -/
structure RefreshOut where
  /-- local number of the unit that sent it -/
  unit : Nat
  handle : Nat
  module : Nat
  addr : Nat
  data : List Byte
  deriving DecidableEq, Repr

/-- Where a participant is in ending an attempt: what it has sent and what it waits for. -/
structure PartSt where
  /-- CLOSED has arrived; the update phase runs or has ended -/
  closed : Bool := false
  reducedSent : Bool := false
  /-- a REDUCED of the step is known to have been sent: the step is live (R317) -/
  live : Bool := false
  /-- the APPLIED last reported -/
  reportedApplied : Nat := 0
  voteSent : Bool := false
  /-- a ready VOTE has been sent for some attempt of the step (R315) -/
  readyEver : Bool := false
  /-- COMMIT has arrived, with this number of CARRY packets to follow -/
  commit : Option Nat := none
  carriedIn : List (List Byte) := []
  granted : Bool := false
  pnrAsked : Bool := false
  aborting : Bool := false
  abortReason : Nat := 0
  doneSent : Bool := false
  /-- orders 1 to 4 of the apply have been performed -/
  applied : Bool := false
  /-- the update phase has begun: scalars and exponents are formed -/
  updating : Bool := false
  /-- the apply has waited for a root -/
  rootWaited : Bool := false
  /-- the apply met an unreadable granule: the halt code its DONE reports -/
  halt : Nat := 0
  /-- the rollback is done and every marked exponent is raised -/
  rolledBack : Bool := false
  /-- an undo record could not be read: the rollback is not complete (R325) -/
  rollbackBad : Bool := false
  /-- the coordinator has said that every participant is done: the monument part may be captured (R329) -/
  captureGo : Bool := false
  /-- this module's monument part has been written -/
  monumentDone : Bool := false
  /-- held writes of an apply or of raises at an abort (R290, R389) -/
  refresh : List RefreshOut := []
  /-- time of the coordinator's last message here, and of this module's last message to it -/
  heard : Nat := 0
  told : Nat := 0
  deriving DecidableEq, Repr

/-- What the coordinator holds of one participant (R309, R313, R318). -/
structure PeerSt where
  module : Nat
  reduced : Option (Nat × Nat) := none
  vote : Option (Bool × Nat × Nat) := none
  /-- carried commands received from it -/
  carried : List (List Byte) := []
  done : Bool := false
  pnr : Option Bool := none
  /-- time of its last message, and of the coordinator's last message to it -/
  heard : Nat := 0
  told : Nat := 0
  /-- its monument part has been written -/
  part : Bool := false
  deriving DecidableEq, Repr

/-- The coordinator's side of an attempt. -/
structure CoordSt where
  /-- step and attempt that the coordinator runs -/
  step : BitVec 64 := 0
  attempt : BitVec 2 := 0
  /-- a REDUCED of the step has come: the step is live (R317) -/
  live : Bool := false
  peers : List PeerSt := []
  closedSent : Bool := false
  commitSent : Bool := false
  abortSent : Bool := false
  granted : Bool := false
  pnrAsked : Bool := false
  /-- time of the last change of any participant's APPLIED -/
  appliedAt : Nat := 0
  /-- the halt that stands in the way of START, and whether some participant's rollback is not complete (R325) -/
  halt : Nat := 0
  inconsistent : Bool := false
  /-- the participants have been told to capture their monument parts -/
  captureSent : Bool := false
  deriving DecidableEq, Repr

/-- A width migration that runs during a step with its target class (R155, R163); once flipped, its source copy waits for the
lookup closure of the step. -/
structure Migration where
  table : Nat
  row : Nat
  target : Nat
  flipped : Bool := false
  deriving DecidableEq, Repr

/-- An entry of a shard's directory from rows to gradient sites (R167): its place among the pool's sites. The RED64 sums and the
contribution count stand in the pool's memory. -/
structure Site where
  table : Nat
  row : Nat
  shard : Nat
  index : Nat
  /-- the site has counted more than 65,536 contributions (R79) -/
  ranged : Bool := false
  deriving DecidableEq, Repr

/-- A sum array on this module that an AGGREGATE of the attempt adds into: its records are RED64 sites (R237). -/
structure RecordArray where
  reduce : Nat
  base : Nat
  pitch : Nat
  rows : Nat
  deriving DecidableEq, Repr

/-- A step-bound command that this module has accepted (R315): its 64 bytes, and the context and command number whose record
waits for the apply. -/
structure Carried where
  bytes : List Byte
  ctx : Nat
  n : Nat
  deriving DecidableEq, Repr

/-- A monument ordered for a step (R329): the command that ordered it, its destination and room. -/
structure MonOrder where
  step : BitVec 64
  ctx : Nat
  n : Nat
  dest : Nat
  bytes : Nat
  deriving DecidableEq, Repr

/-- A command that a context has taken and whose record is not decided (R426): its number in the ring, TAG, NOTIFY flag and bytes. -/
structure TakenCmd where
  n : Nat
  tag : Nat
  opcode : Nat
  notify : Bool
  bytes : List Byte
  /-- accepted and not yet carried out by its own command of the table -/
  accepted : Bool := false
  deriving DecidableEq, Repr

/-- A complete block: its descriptor and the FLAGS of its graph, which fix where its arrays stand (R128). -/
structure BlockRec where
  desc : BatchDesc
  flags : Nat
  deriving DecidableEq, Repr

/-- A section of a monument part or a context image (R330): KIND, ID, FIRST, COUNT and its bytes. -/
structure Sect where
  kind : Nat
  id : Nat := 0
  first : Nat := 0
  count : Nat := 0
  body : List Byte
  deriving DecidableEq, Repr

/-- A context image as a restore reads it (R441). -/
structure CtxImg where
  lanes : Nat
  source : Nat
  cls : Nat
  attempt : Nat
  step : Nat
  digest : List Byte
  sects : List Sect
  deriving DecidableEq, Repr

/-- A staked replica on this module (R157): the row, and the local offset and bytes of the replica. -/
structure Replica where
  table : Nat
  row : Nat
  addr : Nat
  bytes : Nat
  deriving DecidableEq, Repr

/-- A job in a slot of the commit unit (R336), with what the planner holds of it: its image copy, plats, and the state of
the step in progress. -/
structure Job where
  id : Nat
  ctx : Nat
  domain : Nat
  /-- the X4's copy of the job image: local address and bytes (R339) -/
  imageAt : Nat
  imageLen : Nat
  digest : List Byte
  /-- local address and count of the reduction descriptors (CMT_REDUCE_BASE, CMT_REDUCE_COUNT) -/
  reduceBase : BitVec 48 := 0
  reduceCount : BitVec 17 := 0
  state : JobState := .idle
  halt : BitVec 8 := 0
  abort : BitVec 8 := 0
  inconsistent : Bool := false
  attempt : BitVec 2 := 0
  step : BitVec 64 := 0
  participants : List Nat := []
  logLive : BitVec 13 := 0x40
  logStaged : BitVec 13 := 0x40
  logPlaced : BitVec 13 := 0
  undo0 : List UndoRec := []
  undo1 : List UndoRec := []
  sent : BitVec 48 := 0
  applied : BitVec 48 := 0
  commits : BitVec 48 := 0
  replays : BitVec 48 := 0
  pnr : BitVec 48 := 0
  monumentStep : BitVec 64 := 0
  /-- the run: context and number of the taken RUN command, steps left (none: until STOP), STOP requested, NO_FIT stop, any grant in the run -/
  run : Option (Nat × Nat) := none
  runsHeard : List Nat := []
  stepsLeft : Option Nat := none
  stopAsked : Bool := false
  /-- taken STOP commands that wait for the boundary: context and number -/
  stops : List (Nat × Nat) := []
  noFit : Bool := false
  runGranted : Bool := false
  started : Bool := false
  /-- the current step tag (R455); none while no attempt is current -/
  tag : Option (BitVec 16) := none
  part : PartSt := {}
  coord : CoordSt := {}
  carried : List Carried := []
  monuments : List MonOrder := []
  frozen : Bool := false
  /-- newest plat drawn, and the plat in force -/
  newest : Option Plat := none
  /-- time at which the drawing of the newest plat finished, and whether the job was frozen then (R353, R359) -/
  newestAt : Nat := 0
  newestFrozen : Bool := false
  plat : Option Plat := none
  /-- cause of a forced draw that the next boundary waits for, as REASON of R353; 0 none -/
  forced : Nat := 0
  waitingSince : Option Nat := none
  /-- index of the phase that runs, and whether it has begun; phases end at their count -/
  phase : Nat := 0
  phaseBegun : Bool := false
  /-- clusters of the current phase whose cores have been bound -/
  bound : List Nat := []
  /-- forward gather phases of the step whose copy stands on this module (R350) -/
  kept : List Nat := []
  groups : Tab GroupSt := []
  /-- by die: number of the next element a lane takes in the update phase -/
  updNext : Tab Nat := []
  preconds : Tab PrecondSt := []
  placed : List Placed := []
  sites : List Site := []
  recordArrays : List RecordArray := []
  /-- contributions counted this step at words of placed reduction sums: reduction index × 2^41 + word (R76) -/
  denseCount : Tab Nat := []
  /-- dense and record sums: contribution counts above the bound, clamped contributions (R79): reduction descriptor
  indices that mark GRAD_RANGE, and tables whose GRAD_EXP or POOL_EXP must rise -/
  rangeReduce : List Nat := []
  rangeGrad : List Nat := []
  rangePool : List Nat := []
  /-- exponents raised at an abort, not yet committed: reduction descriptor indices (RAISES is counted in the apply) -/
  raised : List Nat := []
  /-- an abort reason found on this module, or 16 plus a halt code; 0 none -/
  condition : Nat := 0
  migrations : List Migration := []
  /-- sketch deltas of the step: (table, row) and occurrences (R154) -/
  deltas : List (Nat × Nat × Nat) := []
  /-- blocks complete with STATUS 0 (R323) -/
  blocks : List BlockRec := []
  /-- graphs that the job's batches have named: module and offset of the graph descriptor (R107) -/
  graphs : List (Nat × Nat) := []
  /-- steps that a block with STATUS 2 names and that have not begun (R131) -/
  badBlocks : List Nat := []
  /-- selected slot of each table id (R142) -/
  selects : Tab Nat := []
  replicas : List Replica := []
  watchdogUs : Nat := 0
  watchdogAt : Nat := 0
  /-- the restore in progress: context and number of the taken RESTORE command -/
  restore : Option (Nat × Nat) := none
  /-- a context image that was resumed before the job's attempt runs; the phase it was saved in takes it up (R442) -/
  image : Option CtxImg := none
  deriving DecidableEq, Repr

/-- The planner (R362, R363) apart from its jobs. -/
structure Pln where
  domSel : BitVec 4 := 0
  draws : BitVec 48 := 0
  adopted : BitVec 48 := 0
  forcedNs : BitVec 48 := 0
  drawMax : BitVec 32 := 0
  /-- clusters removed from the health map (R361) -/
  avoidClusters : List Nat := []
  deriving DecidableEq, Repr

/-- A domain's page of the planner (R363) and its easement (R356 to R358). -/
structure PlnDom where
  logBase : BitVec 48 := 0
  /-- local address of the plat log's 64 MiB -/
  logAt : Nat := 0
  seq : BitVec 64 := 0
  head : BitVec 26 := 0
  oldest : BitVec 64 := 0
  /-- the records that stand whole in the log: SEQ, offset, length -/
  records : List (Nat × Nat × Nat) := []
  eased : BitVec 10 := 0
  easeNt : BitVec 32 := 0
  easeLink : BitVec 16 := 0
  easeState : BitVec 2 := 0
  /-- the easement that is pending: clusters, MiB, weight, context, taken command -/
  pending : Option (Nat × Nat × Nat × Nat × Nat) := none
  budget : BitVec 32 := 0
  /-- the weight the routers use; it follows easeLink at a phase boundary (R408) -/
  weight : Nat := 0
  deriving DecidableEq, Repr

/-- What page 1 of a slot without a job holds of its own (R336). -/
structure FreeSlot where
  logLive : BitVec 13 := 0x40
  logStaged : BitVec 13 := 0x40
  reduceBase : BitVec 48 := 0
  reduceCount : BitVec 17 := 0
  deriving DecidableEq, Repr

/-- The commit unit's page 0 (R335). -/
structure Cmt where
  timeout : BitVec 10 := 0x032
  jobSel : BitVec 6 := 0
  commits : BitVec 48 := 0
  aborts : BitVec 48 := 0
  halts : BitVec 48 := 0
  monuments : BitVec 48 := 0
  jobs : Tab (Option Job) := []
  free : Tab FreeSlot := []
  deriving DecidableEq, Repr

/-! ## Domains, contexts, ports of hosts (chapter 16) -/

/-- DOM_HOST.KIND (R443). -/
inductive HostKind where
  | unused | localHost | remote
  deriving DecidableEq, Repr

/-- A module datagram that has been sent and not acknowledged (R439). -/
structure OutGram where
  gram : Datagram
  sentAt : Nat
  /-- it has been sent; false while the window of R439 holds it back -/
  sent : Bool := true
  /-- trace records it carries, freed when it is acknowledged (R515) -/
  trace : Nat := 0
  deriving DecidableEq, Repr

/-- A domain (R415 to R418, R443) with its remote-host state (R437 to R439) and its host memory. -/
structure Dom where
  host : HostKind := .unused
  ctxBase : BitVec 14 := 0
  ctxCount : BitVec 15 := 0
  quotaClusters : BitVec 10 := 0
  quotaNt : BitVec 14 := 0
  quotaSlow : BitVec 11 := 0
  hostmemGib : BitVec 11 := 0
  /-- local address of the host memory share (R418) -/
  hostAt : Nat := 0
  /-- local ranges of memory the planner has assigned to the domain (R369): start and length -/
  shares : List (Nat × Nat) := []
  cores : BitVec 32 := 0
  notifyCore : BitVec 5 := 0
  notifyId : BitVec 11 := 0
  remotePort : BitVec 16 := 0
  remoteAddr : BitVec 128 := 0
  key : List Byte := []
  /-- highest SEQ received, none before the first, and the received ones within the 1,024 below it -/
  rxHigh : Option (BitVec 32) := none
  rxSeen : List (BitVec 32) := []
  rxLow : BitVec 32 := 0
  txSeq : BitVec 32 := 0
  out : List OutGram := []
  lastPort : Nat := 0
  deriving DecidableEq, Repr

/-- CTX_STATE.STATE (R444). -/
inductive CtxState where
  | inactive | active | running | stopping | stopped | refused
  deriving DecidableEq, Repr

/-- A completion record (R430) held back or being written. -/
structure Record where
  tag : Nat
  status : Nat
  reason : Nat
  detail : Nat
  value : Nat
  flags : Nat
  opcode : Nat
  notify : Bool
  deriving DecidableEq, Repr

/-- A context descriptor as read at activation (R421). -/
structure CtxDesc where
  classL : Bool
  size : Nat
  sqBase : Nat
  sqEntries : Nat
  cqEntries : Nat
  cqBase : Nat
  dropTally : Nat
  notifyCore : Nat
  notifyId : Nat
  coalesceCount : Nat
  coalesceUs : Nat
  deriving DecidableEq, Repr

/-- A context (R420 to R435, R444, R445). -/
structure Ctx where
  state : CtxState := .inactive
  refuse : BitVec 8 := 0
  descAddr : BitVec 48 := 0
  desc : Option CtxDesc := none
  /-- job slot of the commit unit that holds the bound job -/
  job : Option Nat := none
  jobId : BitVec 16 := 0
  clusters : BitVec 10 := 0
  commands : BitVec 48 := 0
  completions : BitVec 48 := 0
  regionSel : BitVec 8 := 0
  sqTail : BitVec 32 := 0
  sqHead : BitVec 32 := 0
  cqHead : BitVec 32 := 0
  cqTail : BitVec 32 := 0
  taken : List TakenCmd := []
  /-- a command whose meaning has been decided and whose record COMMAND_COMPLETE will write, in order of completion -/
  finished : List (Nat × Record) := []
  held : List Record := []
  /-- records written since the last notification, and the time of the oldest -/
  unnotified : Nat := 0
  oldestAt : Nat := 0
  regions : List Region := []
  /-- memory that is mapped read-only into the context whatever its regions grant: module, offset, bytes (R107, R144, R328) -/
  guards : List (Nat × Nat × Nat) := []
  /-- the context image of SAVE_CONTEXT is due when the context stops: taken command, DEST, BYTES -/
  save : Option (Nat × Nat × Nat) := none
  /-- free-running generators of the context by global number (R92); 0 where not drawn from since the context started -/
  gens : Tab (BitVec 64) := []
  deriving DecidableEq, Repr

/-- A service port (R446). -/
structure Svc where
  state : BitVec 2 := 0
  udpPort : BitVec 16 := 0x4B04
  resendUs : BitVec 16 := 0x00C8
  addr : BitVec 128 := 0
  rx : BitVec 48 := 0
  tx : BitVec 48 := 0
  deriving DecidableEq, Repr

/-- The application cores' page (R447). -/
structure Apc where
  assign : Tab (BitVec 8) := []
  running : BitVec 32 := 0
  guestFaults : BitVec 48 := 0
  /-- MSIs raised and not yet seen by the host: core, identity (R436) -/
  msis : List (Nat × Nat) := []
  deriving DecidableEq, Repr


/-! ## Faults, management, power, reset, observation, pins (chapters 17 to 21) -/

/-- A fault history record (R458). A record whose CRC does not match is ignored. -/
structure HistRec where
  kind : Nat
  event : Nat
  unit : Nat
  ptime : Nat
  step : Nat
  /-- a code error: its granule, which R460 compares; not part of the record's bytes -/
  granule : Nat := 0
  crcGood : Bool := true
  deriving DecidableEq, Repr

/-- A CPER record: severity and vendor section (R462, R463). -/
structure Cper where
  seq : Nat
  severity : Nat
  kind : Nat
  event : Nat
  unit : Nat
  rung : Nat
  attempt : Nat
  domain : Nat
  flags : Nat
  count : Nat
  time : Nat
  step : Nat
  job : Nat
  station : Nat
  address : Nat
  detail : Nat
  history : Nat
  deriving DecidableEq, Repr

/-- A record of the management log (R482). -/
inductive LogRec where
  | cper (r : Cper)
  /-- a management event: its name's number, and a detail -/
  | event (code detail time : Nat)
  deriving DecidableEq, Repr

/-- The fault-history block (R458 to R466). `history` and `cperSeq` stand in management flash. -/
structure Flt where
  history : List HistRec := []
  cper : List Cper := []
  cperSeq : BitVec 64 := 0
  reexec : BitVec 48 := 0
  watchdogs : BitVec 48 := 0
  late : BitVec 48 := 0
  stale : BitVec 48 := 0
  lastKind : BitVec 4 := 0
  lastUnit : BitVec 14 := 0
  selKind : BitVec 4 := 1
  selUnit : BitVec 14 := 0
  /-- units that are fence-pending (R460): kind and instance -/
  pending : List (Nat × Nat) := []
  deriving DecidableEq, Repr

/-- The management processor with its flash, SRAM and OTP (R467 to R482, R489, R490). -/
structure Mgt where
  resultA : BitVec 8 := 0
  resultB : BitVec 8 := 0
  /-- running slot: 0 A, 1 B -/
  slot : Nat := 0
  /-- version of the running image, its ROLLBACK, REVOKE and the key that signed it -/
  version : BitVec 32 := 0
  runRollback : Nat := 0
  runRevoke : BitVec 4 := 0
  keysUsed : BitVec 4 := 0
  /-- slot state in CS1: the preferred slot, TRIAL, and whether a stop or watchdog failed the trial -/
  preferred : Nat := 0
  trial : Bool := false
  trialFailed : Bool := false
  /-- the watchdog expired, to be tallied at the next bring-up (R479) -/
  wdogExpired : Bool := false
  imageA : Option FwImage := none
  imageB : Option FwImage := none
  /-- the slot that does not run holds an image that verified when it was written -/
  otherVerified : Bool := false
  /-- option record copies in flash -/
  option0 : Option OptionRec := none
  option1 : Option OptionRec := none
  /-- OTP: key digests, revocation bits, anti-rollback count, CRC good -/
  keyDigests : List (BitVec 512) := []
  keysRevoked : BitVec 4 := 0
  rollback : Nat := 0
  otpGood : Bool := true
  wdogMs : BitVec 16 := 0x03E8
  /-- time the watchdog was last serviced -/
  wdogAt : Nat := 0
  log : List LogRec := []
  /-- records of the SRAM log not yet copied to flash -/
  unflushed : Nat := 0
  flashLog : List LogRec := []
  logSeq : BitVec 64 := 0
  ptime : BitVec 32 := 0
  /-- nanoseconds of the second in progress -/
  ptimeNs : Nat := 0
  measSel : BitVec 2 := 0
  m0 : BitVec 512 := 0
  m1 : BitVec 512 := 0
  m2 : BitVec 512 := 0
  m3 : BitVec 512 := 0
  /-- digest of the management CA -/
  ca : BitVec 512 := 0
  /-- easements granted or released since, by domain, kept in flash: clusters, near-tier MiB, link weight (R358) -/
  eases : Tab (Option (Nat × Nat × Nat)) := []
  /-- certificates of the accepted management connections -/
  sessions : List (BitVec 512) := []
  /-- attestation reports sent, newest first -/
  reports : List (List Byte) := []
  /-- the management ports are trained (end of phase 3) -/
  portsUp : Bool := false
  deriving DecidableEq, Repr

/-- A temperature sensor (R480). -/
structure Sensor where
  temp : BitVec 16 := 0
  failed : Bool := false
  deriving DecidableEq, Repr

/-- A transition of a tract's ACLK and voltage in progress (R485, R488). -/
structure OpMove where
  tract : Nat
  op : Nat
  /-- ACLK has been switched -/
  switched : Bool := false
  /-- the change was commanded by a commit, which is then busy -/
  commit : Bool := false
  deriving DecidableEq, Repr

/-- The power block (R480 to R488, R491). -/
structure Pwr where
  stateCmd : BitVec 2 := 0
  stateStaged : BitVec 2 := 0
  opCmd : BitVec 8 := 0x55
  opStaged : BitVec 8 := 0x55
  gate : BitVec 640 := 0
  gateStaged : BitVec 640 := 0
  refuse : BitVec 8 := 0
  brake : Bool := false
  fault : Bool := false
  alert : Bool := false
  off : Bool := false
  state : BitVec 2 := 0
  /-- the power state a transition is moving to -/
  moving : Option Nat := none
  ops : List OpMove := []
  actual : BitVec 8 := 0x55
  /-- by rail, in the order of `railList`: the last voltage read in mV and power in mW, and since when its regulator has not answered, with
  whether that is in the log (R481, R527) -/
  volt : Tab (BitVec 16) := []
  railMw : Tab Nat := []
  railSilent : Tab (Option (Nat × Bool)) := []
  moduleW : BitVec 16 := 0
  energy : BitVec 48 := 0
  /-- microjoules of the millijoule in progress -/
  energyUj : Nat := 0
  sel : BitVec 10 := 0
  sensors : Tab Sensor := []
  deriving DecidableEq, Repr

/-- The reset block (R492 to R509). -/
structure Rst where
  ready : Bool := false
  stopped : Bool := false
  stopReason : BitVec 8 := 0
  phase : BitVec 4 := 1
  resets : BitVec 16 := 0
  unit : BitVec 4 := 0
  option : BitVec 4 := 0
  source : BitVec 4 := 1
  readyNs : BitVec 48 := 0
  /-- the module is held in reset, and the phase bring-up resumes at -/
  inReset : Bool := false
  resume : Nat := 1
  /-- time of the last release -/
  releasedAt : Nat := 0
  lastSeq : BitVec 64 := 0
  /-- RST_LAST_SEQ as last written to flash -/
  flashSeq : BitVec 64 := 0
  hold : BitVec 16 := 0
  domState : BitVec 16 := 0
  key : List Byte := []
  deriving DecidableEq, Repr

/-- The trace of a domain and its global counters (R514 to R518). -/
structure ThdDom where
  sizeMib : BitVec 9 := 0
  types : BitVec 8 := 0
  mode : BitVec 2 := 0
  base : BitVec 48 := 0
  /-- local address of the buffer, once the planner has placed it -/
  place : Option Nat := none
  asked : Bool := false
  head : BitVec 64 := 0
  lost : BitVec 48 := 0
  /-- records lost since the last LOST record -/
  lostRun : Nat := 0
  /-- STREAM: bytes acknowledged -/
  acked : Nat := 0
  gsel : Tab (BitVec 8) := []
  gctr : Tab (BitVec 48) := []
  deriving DecidableEq, Repr

/-- A cluster counter and its selector (R512, R519). -/
structure ThdSel where
  claimed : Bool := false
  mgt : Bool := false
  owner : BitVec 4 := 0
  cores : BitVec 16 := 0
  event : BitVec 8 := 0
  ctr : BitVec 48 := 0
  deriving DecidableEq, Repr

/-- A cluster's THD page (R519). -/
structure ThdClu where
  sel : Tab ThdSel := []
  traced : Tab (BitVec 9) := []
  deriving DecidableEq, Repr

/-- Levels of the low-speed signals (R502, R523). PRESENT_N is tied low. -/
structure Pins where
  pwrGood : Bool := true
  coldN : Bool := true
  warmN : Bool := true
  brakeN : Bool := true
  pps : Bool := false
  /-- ALERT_N and THERM_TRIP_N are released -/
  alertN : Bool := true
  tripN : Bool := true
  gpioDir : BitVec 16 := 0
  gpioOut : BitVec 16 := 0
  deriving DecidableEq, Repr

/-- What drives the SPI contacts: nothing, so that they are high-impedance, or the module (R502, R525). -/
inductive SpiState where
  | highImpedance | driven
  deriving DecidableEq, Repr

/-- The outputs of the PMBus and the AVSBuses (R502). -/
inductive BusState where
  | released | idle | driven
  deriving DecidableEq, Repr

/-- What a serial lane transmits (R502): nothing, frames without packets, or what its port sends. -/
inductive LaneState where
  | electricalIdle | framesOnly | active
  deriving DecidableEq, Repr

/-- Contents of the flash devices that an external programmer writes: slots, option record copies, the preferred slot and TRIAL, the fault
history and the flash log (R468, R525). -/
structure Flash where
  imageA : Option FwImage
  imageB : Option FwImage
  option0 : Option OptionRec
  option1 : Option OptionRec
  preferred : Nat
  trial : Bool
  history : List HistRec
  flashLog : List LogRec
  deriving DecidableEq, Repr

/-! ## The module -/

/-- A packet that has been delivered at an endpoint of this module and not yet consumed: the endpoint's local part, or
0x1FFF for a multicast to memory (R393, R406). -/
structure Arrived where
  target : Nat
  pkt : Packet
  deriving DecidableEq, Repr

/-- Everything of one X4 module but the queue of waiting commands. -/
structure Mach where
  /-- Module number and serial number. MOD_SERIAL's reset value is 'per module' (R25): the reset state takes 0 for the module it stands for,
  and nothing rests on it (DESIGN CHOICE). -/
  self : Nat := 0
  serial : BitVec 64 := 0
  fence : FenceList := {}
  /-- common headers, at type × 16,384 + instance -/
  hdrs : Tab Hdr := []
  trc : Tab Trc := []
  clu : Tab Clu := []
  cores : Tab CoreSt := []
  trv : Tab Trv := []
  gth : Tab Gth := []
  spr : Tab Spr := []
  ntm : Tab MemPage := []
  chan : Tab MemPage := []
  /-- every byte of the module's memory, at its offset in the local address space -/
  mem : Tab Byte := []
  /-- granules whose reads deliver something else than they hold, at offset div 64 -/
  granErr : Tab (Option GranErr) := []
  /-- which domain last held ranges of memory, newest first: start, length, domain (R417) -/
  lastHeld : List (Nat × Nat × Nat) := []
  upd : Tab Upd := []
  cmt : Cmt := {}
  pln : Pln := {}
  plnDom : Tab PlnDom := []
  lnk : Tab Lnk := []
  rte : Tab Rte := []
  time : TimeBase := {}
  arrived : List Arrived := []
  /-- planner and management messages delivered to an endpoint -/
  inbox : List Arrived := []
  /-- next SEQ of each flow, at (SRC × 2^24 + DST) × 4 + TC (R390) -/
  flowSeq : Tab (BitVec 32) := []
  /-- duplicate filters, at (endpoint × 2^24 + DST) × 2^24 + SRC (R394) -/
  filters : Tab DupFilter := []
  fetches : List Fetch := []
  /-- by cluster: RED64 adds whose issuer stalls until one of the cluster's 512 posted slots frees (R375) -/
  posted : Tab (List Packet) := []
  /-- handles issued so far -/
  handles : Nat := 0
  /-- register accesses of this module's requesters not yet acknowledged: handle and page; and the data returned -/
  regOut : List (Nat × Nat) := []
  regIn : List (Nat × Nat) := []
  /-- what the last register read of a local host, the management processor or the planner firmware returned -/
  lastRead : Nat := 0
  dom : Tab Dom := []
  ctx : Tab Ctx := []
  svc : Tab Svc := []
  apc : Apc := {}
  rng : RngPage := {}
  flt : Flt := {}
  mgt : Mgt := {}
  pwr : Pwr := {}
  rst : Rst := {}
  thdSel : BitVec 4 := 0
  thdDom : Tab ThdDom := []
  thdClu : Tab ThdClu := []
  pins : Pins := {}
  deriving DecidableEq, Repr

/-- The state of the model: the module, and the commands that wait, first in, first out. -/
structure State where
  mach : Mach := {}
  pending : List Instr := []
  deriving DecidableEq, Repr

/-- The module as a power-on reset leaves it: in phase 1 of bring-up, not Ready, every register at its reset value, every
queue and memory empty, and no command waiting (R493, R498, R509). -/
def State.reset : State := {}

end Sys2Proof.Machine
end

