-- ==== Sys2Proof/Machine/Access.lean ====
section
/-!
DEFINITION. The named operations that read and change one unit of the module: every meaning reaches a unit through them.
-/
namespace Sys2Proof.Machine

/-- Read the common header of a page 0 (type × 16,384 + instance). -/
def Mach.getHdr (m : Mach) (i : Nat) : Hdr := Tab.get {} m.hdrs i
/-- Change the common header of a page 0 (type × 16,384 + instance). -/
def Mach.modHdr (m : Mach) (i : Nat) (g : Hdr → Hdr) : Mach := { m with hdrs := Tab.upd {} m.hdrs i g }

/-- Read a tract page. -/
def Mach.getTrc (m : Mach) (i : Nat) : Trc := Tab.get {} m.trc i
/-- Change a tract page. -/
def Mach.modTrc (m : Mach) (i : Nat) (g : Trc → Trc) : Mach := { m with trc := Tab.upd {} m.trc i g }

/-- Read a cluster. -/
def Mach.getClu (m : Mach) (i : Nat) : Clu := Tab.get {} m.clu i
/-- Change a cluster. -/
def Mach.modClu (m : Mach) (i : Nat) (g : Clu → Clu) : Mach := { m with clu := Tab.upd {} m.clu i g }

/-- Read a core. -/
def Mach.getCore (m : Mach) (i : Nat) : CoreSt := Tab.get {} m.cores i
/-- Change a core. -/
def Mach.modCore (m : Mach) (i : Nat) (g : CoreSt → CoreSt) : Mach := { m with cores := Tab.upd {} m.cores i g }

/-- Read a traverse engine. -/
def Mach.getTrv (m : Mach) (i : Nat) : Trv := Tab.get {} m.trv i
/-- Change a traverse engine. -/
def Mach.modTrv (m : Mach) (i : Nat) (g : Trv → Trv) : Mach := { m with trv := Tab.upd {} m.trv i g }

/-- Read a gather engine. -/
def Mach.getGth (m : Mach) (i : Nat) : Gth := Tab.get {} m.gth i
/-- Change a gather engine. -/
def Mach.modGth (m : Mach) (i : Nat) (g : Gth → Gth) : Mach := { m with gth := Tab.upd {} m.gth i g }

/-- Read a sparse engine. -/
def Mach.getSpr (m : Mach) (i : Nat) : Spr := Tab.get {} m.spr i
/-- Change a sparse engine. -/
def Mach.modSpr (m : Mach) (i : Nat) (g : Spr → Spr) : Mach := { m with spr := Tab.upd {} m.spr i g }

/-- Read a near-tier die page. -/
def Mach.getNtm (m : Mach) (i : Nat) : MemPage := Tab.get {} m.ntm i
/-- Change a near-tier die page. -/
def Mach.modNtm (m : Mach) (i : Nat) (g : MemPage → MemPage) : Mach := { m with ntm := Tab.upd {} m.ntm i g }

/-- Read an LPDDR5X channel page. -/
def Mach.getChan (m : Mach) (i : Nat) : MemPage := Tab.get {} m.chan i
/-- Change an LPDDR5X channel page. -/
def Mach.modChan (m : Mach) (i : Nat) (g : MemPage → MemPage) : Mach := { m with chan := Tab.upd {} m.chan i g }

/-- Read an update die. -/
def Mach.getUpd (m : Mach) (i : Nat) : Upd := Tab.get {} m.upd i
/-- Change an update die. -/
def Mach.modUpd (m : Mach) (i : Nat) (g : Upd → Upd) : Mach := { m with upd := Tab.upd {} m.upd i g }

/-- Read a domain of the planner. -/
def Mach.getPlnDom (m : Mach) (i : Nat) : PlnDom := Tab.get {} m.plnDom i
/-- Change a domain of the planner. -/
def Mach.modPlnDom (m : Mach) (i : Nat) (g : PlnDom → PlnDom) : Mach := { m with plnDom := Tab.upd {} m.plnDom i g }

/-- Read a link port. -/
def Mach.getLnk (m : Mach) (i : Nat) : Lnk := Tab.get {} m.lnk i
/-- Change a link port. -/
def Mach.modLnk (m : Mach) (i : Nat) (g : Lnk → Lnk) : Mach := { m with lnk := Tab.upd {} m.lnk i g }

/-- Read a tract router. -/
def Mach.getRte (m : Mach) (i : Nat) : Rte := Tab.get {} m.rte i
/-- Change a tract router. -/
def Mach.modRte (m : Mach) (i : Nat) (g : Rte → Rte) : Mach := { m with rte := Tab.upd {} m.rte i g }

/-- Read a domain. -/
def Mach.getDom (m : Mach) (i : Nat) : Dom := Tab.get {} m.dom i
/-- Change a domain. -/
def Mach.modDom (m : Mach) (i : Nat) (g : Dom → Dom) : Mach := { m with dom := Tab.upd {} m.dom i g }

/-- Read a context. -/
def Mach.getCtx (m : Mach) (i : Nat) : Ctx := Tab.get {} m.ctx i
/-- Change a context. -/
def Mach.modCtx (m : Mach) (i : Nat) (g : Ctx → Ctx) : Mach := { m with ctx := Tab.upd {} m.ctx i g }

/-- Read a service port. -/
def Mach.getSvc (m : Mach) (i : Nat) : Svc := Tab.get {} m.svc i
/-- Change a service port. -/
def Mach.modSvc (m : Mach) (i : Nat) (g : Svc → Svc) : Mach := { m with svc := Tab.upd {} m.svc i g }

/-- Read the trace of a domain. -/
def Mach.getThdDom (m : Mach) (i : Nat) : ThdDom := Tab.get {} m.thdDom i
/-- Change the trace of a domain. -/
def Mach.modThdDom (m : Mach) (i : Nat) (g : ThdDom → ThdDom) : Mach := { m with thdDom := Tab.upd {} m.thdDom i g }

/-- Read the THD page of a cluster. -/
def Mach.getThdClu (m : Mach) (i : Nat) : ThdClu := Tab.get {} m.thdClu i
/-- Change the THD page of a cluster. -/
def Mach.modThdClu (m : Mach) (i : Nat) (g : ThdClu → ThdClu) : Mach := { m with thdClu := Tab.upd {} m.thdClu i g }

/-- The job in a slot of the commit unit, if any. -/
def Mach.job? (m : Mach) (slot : Nat) : Option Job := Tab.get none m.cmt.jobs slot
/-- Set a slot of the commit unit. -/
def Mach.setJob (m : Mach) (slot : Nat) (j : Option Job) : Mach :=
  { m with cmt := { m.cmt with jobs := Tab.put none m.cmt.jobs slot j } }
/-- Change the job in a slot; nothing happens where the slot is free. -/
def Mach.modJob (m : Mach) (slot : Nat) (g : Job → Job) : Mach :=
  match m.job? slot with
  | some j => m.setJob slot (some (g j))
  | none => m

/-- Every command's effect is on the module; the queue of waiting commands stays as it is. -/
def State.onMach (s : State) (g : Mach → Mach) : State := { s with mach := g s.mach }

end Sys2Proof.Machine
end

