-- ==== Sys2Proof/Machine/Crypto.lean ====
section
/-!
DEFINITION. SHA-512, HMAC-SHA-512, the RSASSA-PSS check with SHA-512 and MGF1, and CRC-32C. The spec names these
algorithms (R312, R378, R437, R458, R470, R475, R504) and does not restate them: PRESUMED, from FIPS 180-4, RFC 2104,
RFC 8017 and RFC 3720.
-/
namespace Sys2Proof.Machine

/-- The 80 round constants of SHA-512, first half. -/
def sha512K0 : List (BitVec 64) := [
  0x428A2F98D728AE22#64, 0x7137449123EF65CD#64, 0xB5C0FBCFEC4D3B2F#64, 0xE9B5DBA58189DBBC#64,
  0x3956C25BF348B538#64, 0x59F111F1B605D019#64, 0x923F82A4AF194F9B#64, 0xAB1C5ED5DA6D8118#64,
  0xD807AA98A3030242#64, 0x12835B0145706FBE#64, 0x243185BE4EE4B28C#64, 0x550C7DC3D5FFB4E2#64,
  0x72BE5D74F27B896F#64, 0x80DEB1FE3B1696B1#64, 0x9BDC06A725C71235#64, 0xC19BF174CF692694#64,
  0xE49B69C19EF14AD2#64, 0xEFBE4786384F25E3#64, 0x0FC19DC68B8CD5B5#64, 0x240CA1CC77AC9C65#64,
  0x2DE92C6F592B0275#64, 0x4A7484AA6EA6E483#64, 0x5CB0A9DCBD41FBD4#64, 0x76F988DA831153B5#64,
  0x983E5152EE66DFAB#64, 0xA831C66D2DB43210#64, 0xB00327C898FB213F#64, 0xBF597FC7BEEF0EE4#64,
  0xC6E00BF33DA88FC2#64, 0xD5A79147930AA725#64, 0x06CA6351E003826F#64, 0x142929670A0E6E70#64,
  0x27B70A8546D22FFC#64, 0x2E1B21385C26C926#64, 0x4D2C6DFC5AC42AED#64, 0x53380D139D95B3DF#64,
  0x650A73548BAF63DE#64, 0x766A0ABB3C77B2A8#64, 0x81C2C92E47EDAEE6#64, 0x92722C851482353B#64]

/-- The 80 round constants of SHA-512, second half. -/
def sha512K1 : List (BitVec 64) := [
  0xA2BFE8A14CF10364#64, 0xA81A664BBC423001#64, 0xC24B8B70D0F89791#64, 0xC76C51A30654BE30#64,
  0xD192E819D6EF5218#64, 0xD69906245565A910#64, 0xF40E35855771202A#64, 0x106AA07032BBD1B8#64,
  0x19A4C116B8D2D0C8#64, 0x1E376C085141AB53#64, 0x2748774CDF8EEB99#64, 0x34B0BCB5E19B48A8#64,
  0x391C0CB3C5C95A63#64, 0x4ED8AA4AE3418ACB#64, 0x5B9CCA4F7763E373#64, 0x682E6FF3D6B2B8A3#64,
  0x748F82EE5DEFB2FC#64, 0x78A5636F43172F60#64, 0x84C87814A1F0AB72#64, 0x8CC702081A6439EC#64,
  0x90BEFFFA23631E28#64, 0xA4506CEBDE82BDE9#64, 0xBEF9A3F7B2C67915#64, 0xC67178F2E372532B#64,
  0xCA273ECEEA26619C#64, 0xD186B8C721C0C207#64, 0xEADA7DD6CDE0EB1E#64, 0xF57D4F7FEE6ED178#64,
  0x06F067AA72176FBA#64, 0x0A637DC5A2C898A6#64, 0x113F9804BEF90DAE#64, 0x1B710B35131C471B#64,
  0x28DB77F523047D84#64, 0x32CAAB7B40C72493#64, 0x3C9EBE0A15C9BEBC#64, 0x431D67C49C100D4C#64,
  0x4CC5D4BECB3E42B6#64, 0x597F299CFC657E2A#64, 0x5FCB6FAB3AD6FAEC#64, 0x6C44198C4A475817#64]

/-- The initial hash value of SHA-512. -/
def sha512H : List (BitVec 64) := [
  0x6A09E667F3BCC908#64, 0xBB67AE8584CAA73B#64, 0x3C6EF372FE94F82B#64, 0xA54FF53A5F1D36F1#64,
  0x510E527FADE682D1#64, 0x9B05688C2B3E6C1F#64, 0x1F83D9ABFB41BD6B#64, 0x5BE0CD19137E2179#64]

/-- A number as n big-endian bytes. -/
def beBytes (n x : Nat) : List Byte := (leBytes n x).reverse

/-- A big-endian byte list as a number. -/
def beNat (bs : List Byte) : Nat := leNat bs.reverse

/-- Bytes with the padding of SHA-512. -/
def sha512Pad (bs : List Byte) : List Byte :=
  bs ++ [0x80#8] ++ List.replicate ((239 - bs.length % 128) % 128) 0 ++ beBytes 16 (8 * bs.length)

/-- The first n words of a block as big-endian 64-bit words. -/
def sha512Words : Nat → List Byte → List (BitVec 64)
  | 0, _ => []
  | n + 1, bs => BitVec.ofNat 64 (beNat (bs.take 8)) :: sha512Words n (bs.drop 8)

/-- Extend the message schedule, kept newest first, by n words. -/
def sha512Extend : Nat → List (BitVec 64) → List (BitVec 64)
  | 0, w => w
  | n + 1, w =>
    let a := w.getD 14 0
    let b := w.getD 1 0
    let s0 := a.rotateRight 1 ^^^ a.rotateRight 8 ^^^ (a >>> 7)
    let s1 := b.rotateRight 19 ^^^ b.rotateRight 61 ^^^ (b >>> 6)
    sha512Extend n ((w.getD 15 0 + s0 + w.getD 6 0 + s1) :: w)

/-- The working variables of SHA-512. -/
structure Sha512 where
  a : BitVec 64
  b : BitVec 64
  c : BitVec 64
  d : BitVec 64
  e : BitVec 64
  f : BitVec 64
  g : BitVec 64
  h : BitVec 64
  deriving DecidableEq, Repr

/-- One round, with the sum of the round constant and the schedule word. -/
def Sha512.round (x : Sha512) (kw : BitVec 64) : Sha512 :=
  let s1 := x.e.rotateRight 14 ^^^ x.e.rotateRight 18 ^^^ x.e.rotateRight 41
  let ch := (x.e &&& x.f) ^^^ (~~~x.e &&& x.g)
  let t1 := x.h + s1 + ch + kw
  let s0 := x.a.rotateRight 28 ^^^ x.a.rotateRight 34 ^^^ x.a.rotateRight 39
  let maj := (x.a &&& x.b) ^^^ (x.a &&& x.c) ^^^ (x.b &&& x.c)
  ⟨t1 + s0 + maj, x.a, x.b, x.c, x.d + t1, x.e, x.f, x.g⟩

/-- One block. -/
def Sha512.block (x : Sha512) (bs : List Byte) : Sha512 :=
  let w := (sha512Extend 64 (sha512Words 16 bs).reverse).reverse
  let y := (List.zipWith (· + ·) (sha512K0 ++ sha512K1) w).foldl Sha512.round x
  ⟨x.a + y.a, x.b + y.b, x.c + y.c, x.d + y.d, x.e + y.e, x.f + y.f, x.g + y.g, x.h + y.h⟩

/-- n blocks. -/
def Sha512.blocks : Nat → Sha512 → List Byte → Sha512
  | 0, x, _ => x
  | n + 1, x, bs => Sha512.blocks n (x.block (bs.take 128)) (bs.drop 128)

/-- SHA-512 of a byte list: 64 bytes. -/
def sha512 (bs : List Byte) : List Byte :=
  let p := sha512Pad bs
  let i (n : Nat) : BitVec 64 := sha512H.getD n 0
  let x := Sha512.blocks (p.length / 128) ⟨i 0, i 1, i 2, i 3, i 4, i 5, i 6, i 7⟩ p
  [x.a, x.b, x.c, x.d, x.e, x.f, x.g, x.h].flatMap fun w => beBytes 8 w.toNat

/-- HMAC-SHA-512 with a key of at most 128 bytes. -/
def hmac512 (key msg : List Byte) : List Byte :=
  let k := key ++ List.replicate (128 - key.length) 0
  sha512 (k.map (· ^^^ 0x5C#8) ++ sha512 (k.map (· ^^^ 0x36#8) ++ msg))

/-- MGF1 with SHA-512: n bytes. -/
def mgf1 (seed : List Byte) (n : Nat) : List Byte :=
  ((List.range ((n + 63) / 64)).flatMap fun c => sha512 (seed ++ beBytes 4 c)).take n

/-- a^e mod m by squaring, over the low `bits` bits of e. -/
def powMod (a e m : Nat) : Nat → Nat
  | 0 => 1 % m
  | bits + 1 =>
    let r := powMod (a * a % m) (e / 2) m bits
    if e % 2 = 1 then a * r % m else r

/-- RSASSA-PSS verification of RSA-4096 with SHA-512, MGF1 with SHA-512 and a 64-byte salt (R470). -/
def rsaPssVerify (modulus exponent signature : Nat) (msg : List Byte) : Bool :=
  if modulus ≤ signature || modulus < 2 ^ 4095 then false
  else
    let em := beBytes 512 (powMod signature exponent modulus 32)
    let db := em.take 447
    let h := (em.drop 447).take 64
    let mask := mgf1 h 447
    let db' := List.zipWith (· ^^^ ·) db mask
    let db' := match db' with
      | x :: xs => (x &&& 0x7F#8) :: xs
      | [] => []
    let salt := db'.drop 383
    em.drop 511 == [0xBC#8] && (em.headD 0).toNat < 128 && db'.take 383 == List.replicate 382 0 ++ [0x01#8] &&
      h == sha512 (List.replicate 8 0 ++ sha512 msg ++ salt)

/-- One byte of a CRC-32C: n bit steps. -/
def crc32cStep : Nat → Nat → Nat
  | 0, c => c
  | n + 1, c => crc32cStep n (if c % 2 = 1 then (c / 2) ^^^ 0x82F63B78 else c / 2)

/-- CRC-32C of a byte list. -/
def crc32c (bs : List Byte) : Nat :=
  (bs.foldl (fun c b => crc32cStep 8 (c ^^^ b.toNat)) 0xFFFFFFFF) ^^^ 0xFFFFFFFF

end Sys2Proof.Machine
end

