-- ==== Sys2Proof/Machine/Flags.lean ====
section
/-!
DEFINITION. Flags of the block: EVENT bits and tallies (R40 to R42), the notifications they raise (R435, R436) with the
datagrams that carry them (R437 to R439), and which pages a domain reaches (R49).
-/
namespace Sys2Proof.Machine

/-! ## Block types (R48) -/

/-- MOD -/ abbrev tyMod : Nat := 0x00
/-- TRC -/ abbrev tyTrc : Nat := 0x01
/-- CLU -/ abbrev tyClu : Nat := 0x02
/-- COR -/ abbrev tyCor : Nat := 0x03
/-- TRV -/ abbrev tyTrv : Nat := 0x04
/-- GTH -/ abbrev tyGth : Nat := 0x05
/-- SPR -/ abbrev tySpr : Nat := 0x06
/-- NTM -/ abbrev tyNtm : Nat := 0x07
/-- MEM -/ abbrev tyMem : Nat := 0x08
/-- UPD -/ abbrev tyUpd : Nat := 0x09
/-- CMT -/ abbrev tyCmt : Nat := 0x0A
/-- PLN -/ abbrev tyPln : Nat := 0x0B
/-- LNK -/ abbrev tyLnk : Nat := 0x0C
/-- RTE -/ abbrev tyRte : Nat := 0x0D
/-- DOM -/ abbrev tyDom : Nat := 0x0E
/-- CTX -/ abbrev tyCtx : Nat := 0x0F
/-- MGT -/ abbrev tyMgt : Nat := 0x10
/-- RST -/ abbrev tyRst : Nat := 0x11
/-- PWR -/ abbrev tyPwr : Nat := 0x12
/-- THD -/ abbrev tyThd : Nat := 0x13
/-- RNG -/ abbrev tyRng : Nat := 0x14
/-- FLT -/ abbrev tyFlt : Nat := 0x15
/-- SVC -/ abbrev tySvc : Nat := 0x16
/-- APC -/ abbrev tyApc : Nat := 0x18

/-- Instances of a block type; 0 for an unassigned type. -/
def instances (ty : Nat) : Nat :=
  match ty with
  | 0x00 => 1 | 0x01 => 4 | 0x02 => 640 | 0x03 => 10240 | 0x04 => 640 | 0x05 => 640 | 0x06 => 640 | 0x07 => 8
  | 0x08 => 64 | 0x09 => 2 | 0x0A => 1 | 0x0B => 1 | 0x0C => 48 | 0x0D => 4 | 0x0E => 16 | 0x0F => 16384
  | 0x10 => 1 | 0x11 => 1 | 0x12 => 1 | 0x13 => 641 | 0x14 => 1 | 0x15 => 1 | 0x16 => 2 | 0x18 => 1
  | _ => 0

/-- Pages of an instance of a block type. -/
def pagesOf (ty : Nat) : Nat :=
  match ty with
  | 0x04 => 2 | 0x05 => 2 | 0x09 => 4 | 0x0A => 2 | 0x0B => 2 | 0x0D => 4 | 0x0F => 2 | 0x10 => 2 | 0x15 => 2
  | _ => if instances ty = 0 then 0 else 1

/-- The key of a common header. -/
def hdrKey (ty inst : Nat) : Nat := ty * 16384 + inst

/-! ## Presence (R13, R15, R17, R26, R27) -/

/-- Is cluster k fenced: itself, or through a core of it, or a vector lane or tile-array row of a core (R17)? -/
def fencesCluster (f : FenceList) (k : Nat) : Bool :=
  f.clusters.contains k || f.cores.any (· / 16 == k) || f.vectorLanes.any (·.1 / 16 == k) || f.arrayRows.any (·.1 / 16 == k)

/-- Is cluster k present (R17, R27)? -/
def Mach.clusterPresent (m : Mach) (k : Nat) : Bool := decide (k < 640) && !fencesCluster m.fence k
/-- Is LPDDR5X channel n present? -/
def Mach.channelPresent (m : Mach) (n : Nat) : Bool := decide (n < 64) && !m.fence.channels.contains n
/-- Is near-tier bank b present? -/
def Mach.bankPresent (m : Mach) (b : Nat) : Bool := decide (b < 512) && !m.fence.banks.contains b
/-- Is signal lane L fenced? -/
def Mach.laneFenced (m : Mach) (l : Nat) : Bool := m.fence.lanes.contains l

/-- The widest aligned group whose every lane satisfies `ok`, and its first lane: widths 8, 4, 2, 1, lowest group first
(R384). Width 0 where there is none. -/
def widestGroup (ok : Nat → Bool) : Nat × Nat :=
  let groups := [8, 4, 2, 1].flatMap fun w => (List.range (8 / w)).map fun g => (w, g * w)
  match groups.find? (fun g => (List.range g.1).all fun i => ok (g.2 + i)) with
  | some g => g
  | none => (0, 0)

/-- MOD_PORT_WIDTH of port p (R25). -/
def Mach.portWidth (m : Mach) (p : Nat) : Nat := (widestGroup fun j => !m.laneFenced (8 * p + j)).1

/-- Is the instance of a block type fenced? -/
def Mach.instFenced (m : Mach) (ty inst : Nat) : Bool :=
  match ty with
  | 0x02 => !m.clusterPresent inst
  | 0x03 => !m.clusterPresent (inst / 16)
  | 0x04 => !m.clusterPresent inst
  | 0x05 => !m.clusterPresent inst
  | 0x06 => !m.clusterPresent inst
  | 0x07 => (List.range 64).all fun j => !m.bankPresent (64 * inst + j)
  | 0x08 => !m.channelPresent inst
  | 0x0C => m.portWidth inst == 0
  | 0x13 => inst != 0 && !m.clusterPresent (inst - 1)
  | _ => false

/-- Is the unit behind an endpoint of this module present (R27)? -/
def Mach.endpointPresent (m : Mach) (l : Nat) : Bool :=
  if l < 640 then m.clusterPresent l else if 0x0A00 ≤ l ∧ l < 0x0A08 then !m.instFenced 0x07 (l - 0x0A00) else true

/-! ## Time -/

/-- The global time in nanoseconds (R409). -/
def Mach.now (m : Mach) : Nat := m.time.ns.toNat

/-- Is ACLK of the tracts running: the module is in RUN, and not in reset, OFF or FAULT (R483)? -/
def Mach.aclkOn (m : Mach) : Bool := !m.rst.inReset && !m.pwr.off && !m.pwr.fault && m.pwr.state == 0

/-- A command of a tract's unit has its effect only while ACLK runs (R483). -/
def State.onTract (s : State) (g : Mach → Mach) : State := s.onMach fun m => if m.aclkOn then g m else m

/-! ## Domains and what they reach (R49, R415, R420) -/

/-- The domain that owns context c. -/
def Mach.domOfCtx (m : Mach) (c : Nat) : Option Nat :=
  (List.range 16).find? fun d =>
    let x := m.getDom d
    decide (x.ctxBase.toNat ≤ c) && decide (c < x.ctxBase.toNat + x.ctxCount.toNat)

/-- The domain that the current plat assigns cluster k to. -/
def Mach.domOfCluster (m : Mach) (k : Nat) : Option Nat :=
  if (m.getClu k).assigned then some (m.getClu k).domain.toNat else none

/-- The cluster a page of a cluster's units belongs to. -/
def clusterOfPage (ty inst : Nat) : Option Nat :=
  match ty with
  | 0x02 => some inst | 0x03 => some (inst / 16) | 0x04 => some inst | 0x05 => some inst | 0x06 => some inst
  | 0x13 => if inst = 0 then none else some (inst - 1)
  | _ => none

/-- May the host of domain d read, and may it write, page p of an instance (R49)? -/
def Mach.reaches (m : Mach) (d ty inst p : Nat) : Bool × Bool :=
  match ty with
  | 0x00 => (true, false)
  | 0x0E => (inst == d, inst == d)
  | 0x0F => let o := m.domOfCtx inst == some d; (o, o)
  | 0x0B => (p == 1, false)
  | 0x14 => (true, false)
  | 0x13 => let o := match clusterOfPage ty inst with
              | none => true
              | some k => m.domOfCluster k == some d
            (o, o)
  | _ => match clusterOfPage ty inst with
         | some k => (m.domOfCluster k == some d, false)
         | none => (false, false)

/-- The domains that reach a page, for the notification of its events (R435). -/
def Mach.reachers (m : Mach) (ty inst : Nat) : List Nat :=
  (List.range 16).filter fun d => (m.getDom d).host != .unused && (m.reaches d ty inst 0).1

/-! ## Datagrams (R437 to R439) -/

/-- The header of a datagram as its 24 bytes. -/
def gramHeader (g : Datagram) : List Byte :=
  leBytes 1 g.version ++ leBytes 1 g.type ++ leBytes 1 g.domain ++ leBytes 1 g.zero ++ leBytes 4 g.seq.toNat ++
    leBytes 4 g.ack.toNat ++ leBytes 2 g.context ++ leBytes 2 g.length ++ leBytes 8 g.addr

/-- The tag of a datagram under a transport key (R437). -/
def gramMac (g : Datagram) (key : List Byte) : List Byte := (hmac512 key (gramHeader g ++ g.data)).take 16

/-- Is `a` below `b` in sequence order, modulo 2^32? -/
def seqBelow (a b : BitVec 32) : Bool := a != b && decide ((b - a).toNat < 2 ^ 31)

/-- The lowest SEQ of a domain's datagrams that has been sent and not acknowledged. -/
def Dom.lowestOut (x : Dom) : Option (BitVec 32) := (x.out.find? (·.sent)).map (·.gram.seq)

/-- May a datagram with this SEQ be sent (R439: less than 1,024 above the lowest not acknowledged)? -/
def Dom.windowOpen (x : Dom) (seq : BitVec 32) : Bool :=
  match x.lowestOut with
  | none => true
  | some l => decide ((seq - l).toNat < 1024)

/-- Send a datagram of a domain: number it, form its tag, keep it for resending, and count it at the service port; where
the window is closed it waits unsent. An ACK datagram takes no number and is not kept. `trace` is the number of trace
bytes it carries. -/
def Mach.sendGram (m : Mach) (d type ctx addr : Nat) (data : List Byte) (trace : Nat := 0) : Mach :=
  let x := m.getDom d
  if x.host != .remote then m
  else
    let g : Datagram := { type := type, domain := d, seq := x.txSeq + 1, ack := x.rxLow, context := ctx,
                          length := data.length, addr := addr, data := data, toPort := x.remotePort,
                          fromAddr := (m.getSvc x.lastPort).addr, fromPort := (m.getSvc x.lastPort).udpPort }
    let g := { g with tag := gramMac g x.key }
    if type = 10 then m.modSvc x.lastPort fun v => { v with tx := v.tx + 1 }
    else
      let go := x.windowOpen g.seq
      let m := m.modDom d fun x =>
        { x with txSeq := x.txSeq + 1, out := x.out ++ [{ gram := g, sentAt := m.now, sent := go, trace := trace }] }
      if go then m.modSvc x.lastPort fun v => { v with tx := v.tx + 1 } else m

/-- Raise a notification: an MSI to the local host, or a NOTIFY datagram to a remote host (R436). Identity 0 raises
none. -/
def Mach.notify (m : Mach) (d core ident ctx : Nat) : Mach :=
  if ident = 0 then m
  else
    match (m.getDom d).host with
    | .unused => m
    | .localHost => { m with apc := { m.apc with msis := m.apc.msis ++ [(core, ident)] } }
    | .remote => m.sendGram d 9 ctx 0 (leBytes 4 ident)

/-! ## Events (R40) -/

/-- The header after n occurrences of event e: the bit is set and the tally rises, saturating (R40, R42). -/
def Hdr.occur (h : Hdr) (e n : Nat) : Hdr :=
  if n = 0 then h
  else { h with
    event := h.event ||| BitVec.ofNat 8 (2 ^ e)
    tallies := Tab.upd 0 h.tallies e fun t => BitVec.ofNat 32 (min (t.toNat + n) 0xFFFFFFFF) }

/-- n occurrences of event e of an instance: bit, tally, and the notification of every domain that reaches the page when
the mask bit is set (R40, R435). -/
def Mach.event (m : Mach) (ty inst e : Nat) (n : Nat := 1) : Mach :=
  if n = 0 then m
  else
    let m := m.modHdr (hdrKey ty inst) fun h => h.occur e n
    if (m.getHdr (hdrKey ty inst)).mask.getLsbD e then
      (m.reachers ty inst).foldl (fun m d => m.notify d (m.getDom d).notifyCore.toNat (m.getDom d).notifyId.toNat 0) m
    else m

/-- The chapter 03 tallies of a conversion on the page of the unit that converts: events 0 to 3 (R73, R196). -/
def Mach.tally (m : Mach) (ty inst : Nat) (t : Tal) : Mach :=
  ((((m.event ty inst 0 t.sat).event ty inst 1 t.unf).event ty inst 2 t.special).event ty inst 3 t.hdr)

end Sys2Proof.Machine
end

