-- ==== Sys2Proof/Machine/Ops.lean ====
section
/-!
DEFINITION. The shared operations of the module: memory and its tiers (R364 to R380), Theodolite counters and trace
(R510 to R517), fault records (R458 to R464), closure counters and the progress of a core (R174, R183, R193, R195),
packets put into the fabric (R390, R396), and the messages and conditions of the step protocol (R312, R314).
-/
namespace Sys2Proof.Machine

/-! ## The local address map (R364 to R366) -/

/-- Present channels of an update die, ascending (R365). -/
def Mach.presentChannels (m : Mach) (die : Nat) : List Nat :=
  ((List.range 32).map (32 * die + ·)).filter m.channelPresent

/-- Present banks of a near-tier die, ascending, numbered within the die (R366). -/
def Mach.presentBanks (m : Mach) (die : Nat) : List Nat := (List.range 64).filter fun j => m.bankPresent (64 * die + j)

/-- The memory of R364 that an offset lies in. -/
inductive Tier where
  | slow (die o : Nat)
  | near (die o : Nat)
  | sram (k o : Nat)
  | store (q o : Nat)
  | none
  deriving DecidableEq, Repr

/-- The window of an offset. -/
def tierOf (a : Nat) : Tier :=
  if a < 0x008000000000 then .slow 0 a
  else if a < 0x010000000000 then .slow 1 (a - 0x008000000000)
  else if a < 0x010000000000 + 8 * 2 ^ 31 then .near ((a - 0x010000000000) / 2 ^ 31) ((a - 0x010000000000) % 2 ^ 31)
  else if 0x020000000000 ≤ a ∧ a < 0x020000000000 + 640 * 2 ^ 20 then
    .sram ((a - 0x020000000000) / 2 ^ 20) ((a - 0x020000000000) % 2 ^ 20)
  else if 0x030000000000 ≤ a ∧ a < 0x030000000000 + 10240 * 2 ^ 15 then
    .store ((a - 0x030000000000) / 2 ^ 15) ((a - 0x030000000000) % 2 ^ 15)
  else .none

/-- Base of a cluster's SRAM. -/
def sramBase (k : Nat) : Nat := 0x020000000000 + k * 2 ^ 20
/-- Base of a core's local store. -/
def storeBase (q : Nat) : Nat := 0x030000000000 + q * 2 ^ 15

/-- Bytes populated from an offset on within its slice, cluster SRAM or local store (R364). -/
def Mach.extent (m : Mach) (a : Nat) : Nat :=
  match tierOf a with
  | .slow die o => (m.presentChannels die).length * 2 ^ 34 - o
  | .near die o => (m.presentBanks die).length * (24 * 2 ^ 20) - o
  | .sram k o => if m.clusterPresent k then 2 ^ 20 - o else 0
  | .store q o => if m.clusterPresent (q / 16) then 2 ^ 15 - o else 0
  | .none => 0

/-- Is every byte of a range populated, walking at most `fuel` slices? -/
def Mach.covers (m : Mach) : Nat → Nat → Nat → Bool
  | 0, _, n => n == 0
  | fuel + 1, a, n =>
    let e := m.extent a
    decide (n ≤ e) || (e != 0 && m.covers fuel (a + e) (n - e))

/-- Is every byte of a range populated (R364)? A range may cross from a slice into one that lies next to it. -/
def Mach.populated (m : Mach) (a n : Nat) : Bool := m.covers (n / 2 ^ 15 + 2) a n

/-- Local part of the station of the unit that holds an offset (R393). -/
def unitOf (a : Nat) : Nat :=
  match tierOf a with
  | .slow die _ => 0x0800 + die
  | .near die _ => 0x0A00 + die
  | .sram k _ => k
  | .store q _ => q / 16
  | .none => 0

/-- The channel that holds a slow-tier offset, and the channel offset (R365). -/
def Mach.channelAt (m : Mach) (die o : Nat) : Nat × Nat :=
  let cs := m.presentChannels die
  let c := max 1 cs.length
  (cs.getD (o / 4096 % c) (32 * die), o / 4096 / c * 4096 + o % 4096)

/-- The bank of a near-tier offset, numbered within the die, and the bank offset (R366). -/
def Mach.bankAt (m : Mach) (die o : Nat) : Nat × Nat :=
  let bs := m.presentBanks die
  let p := max 1 bs.length
  (bs.getD (o / 256 % p) 0, o / 256 / p * 256 + o % 256)

/-- Granules of 64 bytes that a range touches. -/
def granules (a n : Nat) : Nat := if n = 0 then 0 else (a + n - 1) / 64 - a / 64 + 1

/-- Which counter of a memory page an access raises. -/
inductive MemUse where
  | read | write | add
  deriving DecidableEq, Repr

/-- A memory page after n granules read or written or n adds (R381, R382). -/
def MemPage.count (p : MemPage) (u : MemUse) (n : Nat) : MemPage :=
  match u with
  | .read => { p with reads := p.reads + BitVec.ofNat 48 n }
  | .write => { p with writes := p.writes + BitVec.ofNat 48 n }
  | .add => { p with adds := p.adds + BitVec.ofNat 48 n }

/-- Count an access of one piece at the page of the die or the channel that carries it out. -/
def Mach.countPiece (m : Mach) (a n : Nat) (u : MemUse) : Mach :=
  let k := if u = .add then n / 8 else granules a n
  match tierOf a with
  | .slow die o => m.modChan (m.channelAt die o).1 fun p => p.count u k
  | .near die _ => m.modNtm die fun p => p.count u k
  | _ => m

/-- Count an access piece by piece, each within one 4 KiB granule of the slow tier. -/
def Mach.countSlow (m : Mach) (a n : Nat) (u : MemUse) : Mach :=
  if n = 0 then m
  else (List.range ((a + n - 1) / 4096 - a / 4096 + 1)).foldl (fun m i =>
    let lo := max a ((a / 4096 + i) * 4096)
    m.countPiece lo (min (a + n) ((a / 4096 + i + 1) * 4096) - lo) u) m

/-- Count an access at the pages of the dies and channels that carry it out. -/
def Mach.countMem (m : Mach) (a n : Nat) (u : MemUse) : Mach :=
  match tierOf a with
  | .slow _ _ => m.countSlow a n u
  | _ => m.countPiece a n u

/-! ## Theodolite counters (R511 to R514) -/

/-- Is a code of R513 a core event? -/
def thdCoreEvent (ev : Nat) : Bool := decide (2 ≤ ev ∧ ev ≤ 0x0B)

/-- Count n occurrences of a cluster event caused by a core, or by an engine where `core` is none. -/
def Mach.thd (m : Mach) (k : Nat) (core : Option Nat) (ev n : Nat) : Mach :=
  let c := m.getClu k
  if n = 0 then m
  else m.modThdClu k fun t => { t with sel := Tab.mapVals {} (fun _ (s : ThdSel) =>
    let mine := s.mgt || (s.claimed && c.assigned && s.owner == c.domain)
    let cores := match core with
      | some i => s.cores.getLsbD i
      | none => true
    if s.event.toNat = ev && mine && cores then { s with ctr := s.ctr + BitVec.ofNat 48 n } else s) t.sel }

/-- Count n occurrences of a global event of a domain (R514). -/
def Mach.thdGlobal (m : Mach) (d ev n : Nat) : Mach :=
  if n = 0 then m
  else m.modThdDom d fun t =>
    { t with gctr := (List.range 16).foldl (fun g i =>
        if (Tab.get 0 t.gsel i).toNat = ev then Tab.upd 0 g i (· + BitVec.ofNat 48 n) else g) t.gctr }

/-- Count bytes of the near tier or the slow tier for a domain's work (R514). -/
def Mach.thdBytes (m : Mach) (d : Option Nat) (a n : Nat) : Mach :=
  match d, tierOf a with
  | some d, .near _ _ => m.thdGlobal d 5 n
  | some d, .slow _ _ => m.thdGlobal d 6 n
  | _, _ => m

/-! ## Fault records (R458 to R464) -/

/-- One fault to be recorded. -/
structure FaultInfo where
  kind : Nat
  event : Nat
  unit : Nat
  severity : Nat := 2
  rung : Nat := 0
  attempt : Nat := 0
  domain : Nat := 0xFF
  flags : Nat := 0
  step : Nat := 0
  job : Nat := 0
  station : Nat := 0
  address : Nat := 0
  detail : Nat := 0

/-- Transient events of the history: CHECK_TRANSIENT and CODE_TRANSIENT. -/
def histTransient (event : Nat) : Bool := event == 2 || event == 4

/-- Is a record within the window of R460? -/
def Mach.inWindow (m : Mach) (r : HistRec) : Bool := decide (m.mgt.ptime.toNat ≤ r.ptime + 604800)

/-- Add a record, making room first (R459). -/
def Mach.histAdd (m : Mach) (r : HistRec) : Mach :=
  let m :=
    if m.flt.history.length < 65536 then m
    else
      let h := m.flt.history.filter fun x => !histTransient x.event || m.inWindow x
      let h := if h.length < 65536 then h
        else match h.find? (fun x => histTransient x.event) with
          | some x => h.erase x
          | none => h
      { m with flt := { m.flt with history := h } }.event tyFlt 0 5
  if 65536 ≤ m.flt.history.length then m else { m with flt := { m.flt with history := m.flt.history ++ [r] } }

/-- The history of a unit: records whose CRC is good; a core's count for its cluster (R460). -/
def Mach.unitHistory (m : Mach) (kind unit : Nat) : List HistRec :=
  m.flt.history.filter fun r => r.crcGood &&
    ((r.kind == kind && r.unit == unit) || (kind == 1 && r.kind == 2 && r.unit / 16 == unit))

/-- Does the unit's history meet a condition of R460? -/
def Mach.fencePending (m : Mach) (kind unit : Nat) : Bool :=
  let h := m.unitHistory kind unit
  let w := h.filter m.inWindow
  let n (e : Nat) := w.countP fun r => r.event == e
  let repeats := (w.filter fun r => r.event == 5 || r.event == 6).map (·.granule)
  let codes := decide (2 ≤ repeats.eraseDups.length) || decide (256 ≤ n 4)
  match kind with
  | 1 => h.any (fun r => r.event == 3) || h.any (fun r => r.event == 9) || decide (8 ≤ n 2)
  | 3 => decide (2 ≤ n 8)
  | 4 => h.any (fun r => r.event == 9) || codes
  | 5 => h.any (fun r => r.event == 8) || codes
  | _ => false

/-- Does the job use cluster k: in the plat in force, or in one drawn and not adopted yet? -/
def Job.uses (j : Job) (k : Nat) : Bool :=
  [j.plat, j.newest].any fun p => match p with
    | some p => p.clusters.contains k
    | none => false

/-- Declare a cluster suspect: the planner avoids it at once (R361). -/
def Mach.suspect (m : Mach) (k : Nat) : Mach :=
  if m.pln.avoidClusters.contains k then m
  else
    let force (_ : Nat) (j : Option Job) : Option Job := j.map fun j =>
      if j.uses k && j.forced == 0 then { j with forced := 3 } else j
    let jobs := Tab.mapVals none force m.cmt.jobs
    let m := { m with
      pln := { m.pln with avoidClusters := m.pln.avoidClusters ++ [k] },
      flt := { m.flt with lastKind := 1, lastUnit := BitVec.ofNat 14 k },
      cmt := { m.cmt with jobs := jobs } }
    ((m.modClu k fun c => { c with suspect := true }).event tyPln 0 2).event tyClu k 2

/-- Export a CPER record, merging records of one unit and one event within one second (R462). -/
def Mach.export (m : Mach) (f : FaultInfo) : Mach :=
  let w := ((m.unitHistory f.kind f.unit).filter m.inWindow).length
  match m.flt.cper.find? (fun r => r.kind == f.kind && r.unit == f.unit && r.event == f.event &&
      decide (m.now ≤ r.time + 1000000000)) with
  | some r =>
    let bump (x : Cper) : Cper := if x.seq = r.seq then { x with count := x.count + 1, history := w } else x
    let relog (x : LogRec) : LogRec := match x with
      | .cper y => .cper (bump y)
      | e => e
    let m := { m with flt := { m.flt with cper := m.flt.cper.map bump }, mgt := { m.mgt with log := m.mgt.log.map relog } }
    m.event tyFlt 0 7
  | none =>
    let r : Cper := {
      seq := m.flt.cperSeq.toNat + 1, severity := f.severity, kind := f.kind, event := f.event,
      unit := f.unit, rung := f.rung, attempt := f.attempt, domain := f.domain, flags := f.flags, count := 1,
      time := m.now, step := f.step, job := f.job, station := f.station, address := f.address, detail := f.detail,
      history := w }
    { m with flt := { m.flt with cper := m.flt.cper ++ [r], cperSeq := m.flt.cperSeq + 1 },
             mgt := { m.mgt with log := m.mgt.log ++ [LogRec.cper r], unflushed := m.mgt.unflushed + 1 } }

/-- Record a fault: history where R458 calls for it, CPER record, fence-pending units, suspect clusters (R458, R460,
R462). -/
def Mach.fault (m : Mach) (f : FaultInfo) : Mach :=
  let m := if f.event ≤ 9 then
      m.histAdd { kind := f.kind, event := f.event, unit := f.unit, ptime := m.mgt.ptime.toNat, step := f.step,
                  granule := f.address / 64 }
    else m
  let kind := if f.kind = 2 then 1 else f.kind
  let unit := if f.kind = 2 then f.unit / 16 else f.unit
  let new := m.fencePending kind unit && !m.flt.pending.contains (kind, unit)
  let m := if new then
      { m with flt := { m.flt with pending := m.flt.pending ++ [(kind, unit)], lastKind := BitVec.ofNat 4 kind,
                                   lastUnit := BitVec.ofNat 14 unit } }.event tyFlt 0 4
    else m
  let m := if new && kind == 1 then m.suspect unit else m
  let pend := m.flt.pending.contains (kind, unit)
  m.export { f with flags := f.flags ||| (if pend then 4 else 0) ||| (if pend && kind == 1 then 2 else 0),
                    severity := if new && f.severity = 2 then 0 else f.severity }

/-- A management event in the log (R482). -/
def Mach.mgtEvent (m : Mach) (code detail : Nat) : Mach :=
  { m with mgt := { m.mgt with log := m.mgt.log ++ [.event code detail m.now], unflushed := m.mgt.unflushed + 1 } }

/-! ## Memory accesses (R364, R374, R378 to R380) -/

/-- What a granule holds decides what a second failed read does (R379). -/
inductive DataKind where
  | working | committed
  deriving DecidableEq, Repr

/-- Bytes of memory as they stand. -/
def Mach.peek (m : Mach) (a n : Nat) : List Byte := Tab.getRange 0 m.mem a n

/-- Put bytes into memory. -/
def Mach.poke (m : Mach) (a : Nat) (bs : List Byte) : Mach := { m with mem := Tab.putRange 0 m.mem a bs }

/-- The CRC-32C code of granule g: over its bytes and its address (R378). PRESUMED: the address follows the bytes, as eight bytes
little-endian. -/
def granuleCode (g : Nat) (bs : List Byte) : BitVec 32 := BitVec.ofNat 32 (crc32c (bs ++ leBytes 8 (64 * g)))

/-- Does the code show that what a read of granule g delivers is not what was written there? -/
def GranErr.detected (e : GranErr) (g : Nat) : Bool := e.failed || e.code != granuleCode g e.bytes

/-- The faulty granules that a range touches: granule and what its reads deliver. -/
def Mach.faulty (m : Mach) (a n : Nat) : List (Nat × GranErr) :=
  if n = 0 then []
  else m.granErr.filterMap fun e =>
    if decide (a / 64 ≤ e.1) && decide (e.1 ≤ (a + n - 1) / 64) then e.2.map (e.1, ·) else none

/-- Write over a byte list that stands at an offset, as far as the two meet. -/
def overlay (a : Nat) (bs : List Byte) (at' : Nat) (new : List Byte) : List Byte :=
  (List.range bs.length).map fun i => if at' ≤ a + i ∧ a + i < at' + new.length then new.getD (a + i - at') 0 else bs.getD i 0

/-- The bytes that a read delivers: what memory holds, but where a granule delivers other bytes with a code that fits them. -/
def Mach.delivers (m : Mach) (a n : Nat) : List Byte :=
  ((m.faulty a n).filter fun e => !e.2.detected e.1).foldl (fun bs e => overlay a bs (64 * e.1) e.2.bytes) (m.peek a n)

/-- The page that shows the accesses of a granule, of a near-tier die or a channel: its type and instance. -/
def Mach.memPage (m : Mach) (g : Nat) : Option (Nat × Nat) :=
  match tierOf (64 * g) with
  | .slow die o => some (tyMem, (m.channelAt die o).1)
  | .near die _ => some (tyNtm, die)
  | _ => none

/-- Raise event e once at each page that shows one of these granules. -/
def Mach.pageEvents (m : Mach) (gs : List Nat) (e : Nat) : Mach :=
  ((gs.filterMap m.memPage).eraseDups).foldl (fun m p => m.event p.1 p.2 e) m

/-- Record a detection-code error of granule g: the error address of its die or channel, and the fault of the bank, channel,
cluster or core it lies in (R379, R381, R382, R449, R458). -/
def Mach.codeError (m : Mach) (kind : DataKind) (g : Nat) (again : Bool) : Mach :=
  let info (k u : Nat) : FaultInfo :=
    { kind := k, unit := u, event := if again then (if kind = .working then 5 else 6) else 4,
      severity := if again then 0 else 2, rung := if again then 3 else 2, flags := if again then 0 else 1,
      address := 64 * g, station := m.self * 8192 + unitOf (64 * g) }
  match tierOf (64 * g) with
  | .slow die o =>
    let c := m.channelAt die o
    (m.modChan c.1 fun p => { p with errAddr := BitVec.ofNat 64 (c.2 / 64) }).fault (info 5 c.1)
  | .near die o =>
    let b := (m.bankAt die o).1
    (m.modNtm die fun p => { p with errAddr := BitVec.ofNat 64 (b * 2 ^ 58 + o / 64) }).fault (info 4 (64 * die + b))
  | .sram k _ => m.fault (info 1 k)
  | .store q _ => m.fault (info 2 q)
  | .none => m

/-- Check the detection codes of a range as a read does: an error is read once more; one that does not last has then cleared, and
any other makes the read fail (R379). A read counts CODE_ERROR once at each page that shows an error of it. -/
def Mach.codeCheck (m : Mach) (kind : DataKind) (a n : Nat) : Mach × Bool :=
  let es := m.faulty a n
  let bad := es.filter fun e => e.2.detected e.1
  let again := bad.filter fun e => e.2.lasting
  let m := bad.foldl (fun m e => m.codeError kind e.1 e.2.lasting) m
  let m := (m.pageEvents (bad.map (·.1)) 0).pageEvents (again.map (·.1)) 1
  let m := es.foldl (fun m e => if e.2.lasting then m else { m with granErr := Tab.put none m.granErr e.1 none }) m
  (m, !again.isEmpty)

/-- Read n bytes at an offset of this module for the work of a domain: the bytes, and whether a granule failed twice. -/
def Mach.readMem (m : Mach) (dom : Option Nat) (kind : DataKind) (a n : Nat) : List Byte × Bool × Mach :=
  let r := m.codeCheck kind a n
  (m.delivers a n, r.2, (r.1.countMem a n .read).thdBytes dom a n)

/-- Before a write to faulty granule g: a whole write replaces what it delivers; a write of part of it reads it first, and where that
read fails twice leaves it marked failed (R380). Answers whether that read failed. -/
def Mach.partialWrite (m : Mach) (kind : DataKind) (g : Nat) (e : GranErr) (whole : Bool) : Mach × Bool :=
  let clear (m : Mach) : Mach := { m with granErr := Tab.put none m.granErr g none }
  if whole then (clear m, false)
  else
    let r := m.codeCheck kind (64 * g) 64
    if r.2 then
      let m := { r.1 with granErr := Tab.put none r.1.granErr g (some { e with failed := true }) }
      (m.pageEvents [g] 2, true)
    else (clear (if e.detected g then r.1 else r.1.poke (64 * g) e.bytes), false)

/-- Ready the faulty granules that a write of n bytes touches; answers whether one it touches in part failed its read (R380). -/
def Mach.readyWrite (m : Mach) (kind : DataKind) (a n : Nat) : Bool × Mach :=
  (m.faulty a n).foldl (fun (acc : Bool × Mach) e =>
    let w := acc.2.partialWrite kind e.1 e.2 (decide (a ≤ 64 * e.1) && decide (64 * e.1 + 64 ≤ a + n))
    (acc.1 || w.2, w.1)) (false, m)

/-- Write bytes at an offset of this module: whether a partly written granule failed its read (R380). -/
def Mach.writeMem (m : Mach) (dom : Option Nat) (kind : DataKind) (a : Nat) (bs : List Byte) : Bool × Mach :=
  let n := bs.length
  if n = 0 then (false, m)
  else
    let r := m.readyWrite kind a n
    (r.1, ((r.2.poke a bs).countMem a n .write).thdBytes dom a n)

/-- A little-endian number of n bytes as memory holds it. -/
def Mach.peekNat (m : Mach) (a n : Nat) : Nat := leNat (m.peek a n)

/-- Apply one RED64 contribution at an 8-byte word, as one indivisible operation (R374); answers whether its granule failed its read
(R380). -/
def Mach.addWord (m : Mach) (kind : DataKind) (a v : Nat) : Bool × Mach :=
  let r := m.readyWrite kind a 8
  (r.1, (r.2.poke a (leBytes 8 ((r.2.peekNat a 8 + v) % 2 ^ 64))).countMem a 8 .add)

/-- Raise a saturating 32-bit tally that stands in memory, as one partial write; answers whether its granule failed its read. -/
def Mach.bumpTally (m : Mach) (kind : DataKind) (a n : Nat) : Bool × Mach :=
  let r := m.readyWrite kind a 4
  (r.1, (r.2.poke a (leBytes 4 (min 0xFFFFFFFF (r.2.peekNat a 4 + n)))).countMem a 4 .write)

/-- Zero a range, forming good codes (R417, R498). -/
def Mach.zeroMem (m : Mach) (a n : Nat) : Mach :=
  { m with mem := Tab.clearRange m.mem a n,
           granErr := if n = 0 then m.granErr else Tab.clearRange m.granErr (a / 64) (granules a n) }

/-! ## Trace (R515 to R517) -/

/-- The 32 bytes of a trace record (R516). -/
def traceBytes (ty attempt job wher time step detail : Nat) : List Byte :=
  leBytes 1 ty ++ leBytes 1 attempt ++ leBytes 2 job ++ leBytes 4 wher ++ leBytes 8 time ++ leBytes 8 step ++
    leBytes 8 detail

/-- Has the trace buffer of a domain room for one more record? -/
def ThdDom.room (t : ThdDom) : Bool :=
  let size := t.sizeMib.toNat * 2 ^ 20
  match t.mode with
  | 0 => false
  | 1 => decide (t.head.toNat + 32 ≤ size)
  | 2 => true
  | _ => decide (t.head.toNat + 32 ≤ t.acked + size)

/-- Write one record at HEAD (R516); in STREAM it leaves in a TRACE datagram (R438). -/
def Mach.tracePut (m : Mach) (d place : Nat) (bytes : List Byte) : Mach :=
  let t := m.getThdDom d
  let m := (m.writeMem none .working (place + t.head.toNat % max 1 (t.sizeMib.toNat * 2 ^ 20)) bytes).2
  let m := m.modThdDom d fun t => { t with head := t.head + 32 }
  if t.mode = 3 then m.sendGram d 11 0 t.head.toNat bytes 32 else m

/-- A trace record of domain d, or its loss (R515 to R517). -/
def Mach.trace (m : Mach) (d ty attempt job wher step detail : Nat) : Mach :=
  let t := m.getThdDom d
  if t.mode = 0 || !t.types.getLsbD (ty - 1) then m
  else
    match t.place with
    | none => m.modThdDom d fun t => { t with lost := t.lost + 1, lostRun := t.lostRun + 1 }
    | some p =>
      if !t.room then m.modThdDom d fun t => { t with lost := t.lost + 1, lostRun := t.lostRun + 1 }
      else
        let m := if t.lostRun = 0 then m
          else ((m.tracePut d p (traceBytes 9 0 0 (m.self * 8192) m.now 0 t.lostRun)).event tyThd 0 2).modThdDom d
            fun t => { t with lostRun := 0 }
        if (m.getThdDom d).room then m.tracePut d p (traceBytes ty attempt job wher m.now step detail)
        else m.modThdDom d fun t => { t with lost := t.lost + 1, lostRun := t.lostRun + 1 }

/-! ## Progress of a core (R174, R175, R183) -/

/-- Leave every loop body that ends at pc, or start its next iteration: innermost first. -/
def settle : List LoopLvl → Nat → List LoopLvl × Nat
  | [], pc => ([], pc)
  | l :: ls, pc =>
    if pc = l.start + l.len then
      if l.idx + 1 < l.count then ({ l with idx := l.idx + 1 } :: ls, l.start) else settle ls pc
    else (l :: ls, pc)

/-- Execution has passed the last instruction: the core issues nothing further, and does not stall at anything (R175, R196). -/
def CoreSt.pass (c : CoreSt) (now : Nat) : CoreSt := { c with passed := true, run := .running, since := now }

/-- Continue at pc, reached by falling through; execution may pass the last instruction, at a time (R175). -/
def CoreSt.fallTo (c : CoreSt) (pc now : Nat) : CoreSt :=
  let r := settle c.loops pc
  if c.ibuf.length ≤ r.2 then { c with loops := r.1 }.pass now
  else { c with loops := r.1, pc := BitVec.ofNat 11 r.2 }

/-- Continue at pc, reached by a branch: levels whose body lacks the target are popped (R183). -/
def CoreSt.branchTo (c : CoreSt) (pc now : Nat) : CoreSt :=
  let ls := c.loops.dropWhile fun l => !(decide (l.start ≤ pc) && decide (pc < l.start + l.len))
  if c.ibuf.length ≤ pc then { c with loops := ls }.pass now
  else { c with loops := ls, pc := BitVec.ofNat 11 pc }

/-- An instruction of core q has executed, or has been skipped (R196). -/
def Mach.retire (m : Mach) (q : Nat) : Mach :=
  (m.modCore q fun c => { c with retired := c.retired + 1 }).thd (q / 16) (some (q % 16)) 2 1

/-- A waiting core continues after its WAIT or DRAIN. -/
def Mach.wake (m : Mach) (q : Nat) : Mach :=
  (m.modCore q fun c =>
    { c with run := .running, waitCounter := 0, waitTarget := 0, draining := false }.fallTo (c.pc.toNat + 1) m.now).retire q

/-! ## Closure counters (R193, R195) -/

/-- The slot of the commit unit that holds job id on this module. -/
def Mach.slotOfJob (m : Mach) (id : Nat) : Option Nat :=
  (m.cmt.jobs.find? fun e => match e.2 with
    | some j => j.id == id
    | none => false).map (·.1)

/-- What the closure watchdog of a job watches for has happened: a counter of its clusters changed, a fetch returned data
or a packet was applied (R451). -/
def Mach.progress (m : Mach) (id : Nat) : Mach :=
  match m.slotOfJob id with
  | some slot => m.modJob slot fun j => { j with watchdogAt := m.now }
  | none => m

/-- Has a count reached a target (R195)? -/
def reached (count target : BitVec 32) : Bool := decide ((count - target).toNat < 2 ^ 31)

/-- Resume every core of cluster k that waits on counter n and whose target has been reached. -/
def Mach.wakeWaiters (m : Mach) (k n : Nat) : Mach :=
  (List.range 16).foldl (fun m i =>
    let q := 16 * k + i
    let c := m.getCore q
    if c.run = .waiting && !c.draining && c.waitCounter.toNat = n &&
        reached (Tab.get 0 (m.getClu k).counters n) c.waitTarget then m.wake q else m) m

/-- A traced closure counter has changed (R516, R517). -/
def Mach.traceClosure (m : Mach) (k n : Nat) : Mach :=
  let t := m.getThdClu k
  match m.domOfCluster k with
  | none => m
  | some d =>
    if (List.range 4).any fun j => let s := Tab.get 0 t.traced j; s.getLsbD 8 && s.toNat % 256 == n then
      let c := m.getClu k
      m.trace d 3 0 c.job.toNat (m.self * 8192 + k) 0 (n * 2 ^ 32 + (Tab.get 0 c.counters n).toNat)
    else m

/-- Add v to closure counter n of cluster k (R193): it wraps, is counted, and may end waits. -/
def Mach.closureAdd (m : Mach) (k n : Nat) (v : BitVec 32) : Mach :=
  let old := Tab.get 0 (m.getClu k).counters n
  let m := m.modClu k fun c =>
    { c with counters := Tab.put 0 c.counters n (old + v), closureAdds := c.closureAdds + 1 }
  let m := if (old + v).toNat < old.toNat then m.event tyClu k 0 else m
  (((m.progress (m.getClu k).job.toNat).thd k none 0x28 1).traceClosure k n).wakeWaiters k n

/-- Set closure counter n of cluster k to zero. -/
def Mach.closureZero (m : Mach) (k n : Nat) : Mach :=
  let m := m.modClu k fun c => { c with counters := Tab.put 0 c.counters n 0 }
  ((m.progress (m.getClu k).job.toNat).traceClosure k n).wakeWaiters k n

/-! ## Packets (R390, R391, R393, R396) -/

/-- The station of a local part of this module. -/
def Mach.station (m : Mach) (l : Nat) : Nat := m.self * 8192 + l

/-- Local part of the commit unit. -/
abbrev cmtUnit : Nat := 0x0910
/-- Local part of the planner. -/
abbrev plnUnit : Nat := 0x0920
/-- Local part of the management processor. -/
abbrev mgtUnit : Nat := 0x0930

/-- The tracts that a local part's unit lies on or borders, ascending (R13 to R15): a cluster and a near-tier die have one, an
update die two, the service die all four. -/
def tractsOf (l : Nat) : List Nat :=
  if l < 640 then [l / 160]
  else if l = 0x0800 then [0, 1]
  else if l = 0x0801 then [2, 3]
  else if 0x0A00 ≤ l ∧ l < 0x0A08 then [(l - 0x0A00) / 2]
  else if l = 0x0900 ∨ l = cmtUnit ∨ l = plnUnit ∨ l = mgtUnit then [0, 1, 2, 3]
  else []

/-- The output code by which a router delivers to a local part's unit: 14 to an update die, 15 to the service die, 16 to its own
tract (chapter 15, Routing). -/
def deliveryCode (l : Nat) : Nat := if l = 0x0800 ∨ l = 0x0801 then 14 else if 0x0900 ≤ l ∧ l < 0x0A00 then 15 else 16

/-- The tract whose router a unit injects a packet for a destination at, and the input code it comes by (R396). An update die and
the service die may inject at any tract they border: they take one that delivers to the destination, otherwise the first (DESIGN
CHOICE). -/
def Mach.entryFor (m : Mach) (l dst : Nat) : Nat × Nat :=
  let ts := tractsOf l
  let direct := ts.filter fun t => dst / 8192 == m.self && (tractsOf (dst % 8192)).contains t
  ((direct ++ ts).headD 0, deliveryCode l)

/-- A packet of a unit of this module takes its source and its flow's SEQ (R390). -/
def Mach.numbered (m : Mach) (l : Nat) (p : Packet) : Packet × Mach :=
  let src := m.station l
  let key := (src * 2 ^ 24 + p.dst) * 4 + p.tc
  ({ p with src := src, seq := Tab.get 0 m.flowSeq key }, { m with flowSeq := Tab.upd 0 m.flowSeq key (· + 1) })

/-- A numbered packet enters the fabric: it takes the router's injection epoch, DOWN clear, and the time (R390, R396). -/
def Mach.inject (m : Mach) (l : Nat) (p : Packet) : Mach :=
  let e := m.entryFor l p.dst
  let p := { p with epoch := (m.getRte e.1).inject, down := false, inject := fld m.now 4 24 }
  let m := m.modRte e.1 fun r => { r with held := r.held ++ [{ pkt := p, input := e.2 }] }
  if p.job = 0 then m else m.thdGlobal p.domain 7 1

/-- Put a packet into the fabric from a unit of this module (R390, R396). -/
def Mach.send (m : Mach) (l : Nat) (p : Packet) : Mach := let r := m.numbered l p; r.2.inject l r.1

/-- RED64 adds of cluster k that its router has not passed to the fabric: they hold posted slots (R375). -/
def Mach.postedHeld (m : Mach) (k : Nat) : Nat :=
  (m.getRte (k / 160)).held.countP fun h => h.input == 16 && h.pkt.src == m.station k && h.pkt.op == 0x21

/-- Send a RED64 add from cluster k; with all 512 posted slots of the cluster held, its issuer stalls with it (R375, R377). -/
def Mach.sendPosted (m : Mach) (k : Nat) (p : Packet) : Mach :=
  let r := m.numbered k p
  if (Tab.get [] m.posted k).isEmpty && decide (m.postedHeld k < 512) then r.2.inject k r.1
  else { r.2 with posted := Tab.upd [] r.2.posted k (· ++ [r.1]) }

/-- Stalled adds of cluster k enter the fabric while slots are free. -/
def Mach.freePosted (m : Mach) (k : Nat) : Mach :=
  let ps := Tab.get [] m.posted k
  let n := 512 - m.postedHeld k
  (ps.take n).foldl (fun m p => m.inject k p) { m with posted := Tab.put [] m.posted k (ps.drop n) }

/-- A fresh handle. -/
def Mach.handle (m : Mach) : Nat × Mach := (m.handles + 1, { m with handles := m.handles + 1 })

/-- Cut n bytes at an offset into pieces that lie within one 512-byte aligned block each (R391): offset and length. -/
def pieces (a n : Nat) : List (Nat × Nat) :=
  if n = 0 then []
  else (List.range ((a + n - 1) / 512 - a / 512 + 1)).map fun i =>
    let lo := max a ((a / 512 + i) * 512)
    (lo, min (a + n) ((a / 512 + i + 1) * 512) - lo)

/-- Who a packet is sent for: job id, domain, step tag. -/
structure Cause where
  job : Nat := 0
  domain : Nat := 0
  tag : BitVec 16 := 0
  deriving DecidableEq, Repr

/-- Send one COUNT (R391). -/
def Mach.sendCount (m : Mach) (l : Nat) (w : Cause) (station n : Nat) (v : BitVec 32) : Mach :=
  m.send l { dst := station, src := 0, tc := 2, op := 0x22, job := w.job, domain := w.domain, tag := w.tag, ctr := n,
             arg := v.toNat }

/-- Add v to the counter that a COUNTER field names (R189, R194): the issuing cluster's own at once, any other by a
COUNT packet. -/
def Mach.counterAdd (m : Mach) (k : Nat) (w : Cause) (counter v : BitVec 32) : Mach :=
  let st := counter.toNat % 2 ^ 24
  let n := counter.toNat / 2 ^ 24
  if st = 0xFFFFFF ∨ st = m.station k then m.closureAdd k n v else m.sendCount k w st n v

/-! ## Jobs and the step protocol (R307, R312, R314, R454) -/

/-- The step tag of attempt a of step s (R307); a is 3 for traverse work. -/
def stepTag (s a : Nat) : BitVec 16 := BitVec.ofNat 16 (s % 16384 * 4 + a)

/-- Whom the packets of a job's current attempt are sent for. -/
def Mach.causeOf (m : Mach) (slot : Nat) : Cause :=
  match m.job? slot with
  | some j => { job := j.id, domain := j.domain, tag := j.tag.getD (stepTag j.step.toNat j.attempt.toNat) }
  | none => {}

/-- The coordinator's module: the participant with the lowest station (R312). -/
def Job.coordModule (j : Job) : Nat := j.participants.foldl min (j.participants.headD 0)

/-- The payload of a commit message (R312). -/
def commitMsg (kind attempt job ready reason carried step sent applied : Nat) : List Byte :=
  leBytes 1 kind ++ leBytes 1 attempt ++ leBytes 2 job ++ leBytes 1 ready ++ leBytes 1 reason ++ leBytes 2 carried ++
    leBytes 8 step ++ leBytes 8 sent ++ leBytes 8 applied

/-- Send a commit message of a job to the commit unit of a module, and note the time (R317). -/
def Mach.sendCommit (m : Mach) (slot dest kind : Nat) (ready reason carried : Nat := 0) (sent applied : Nat := 0)
    (step attempt : Option Nat := none) : Mach :=
  match m.job? slot with
  | none => m
  | some j =>
    let m := m.send cmtUnit {
      dst := dest * 8192 + cmtUnit, src := 0, tc := 3, op := 0x30, job := j.id,
      domain := j.domain, len := 32,
      data := commitMsg kind (attempt.getD j.attempt.toNat) j.id ready reason carried (step.getD j.step.toNat) sent applied }
    m.modJob slot fun j =>
      let peers := j.coord.peers.map fun p => if p.module = dest then { p with told := m.now } else p
      { j with part := if dest = j.coordModule then { j.part with told := m.now } else j.part,
               coord := { j.coord with peers := peers } }

/-- Count a condition that names an attempt already aborted or a step already committed (R454). -/
def Mach.stale (m : Mach) : Mach := { m with flt := { m.flt with stale := m.flt.stale + 1 } }

/-- A participant finds an abort condition (reason, or 16 plus a halt code): before its ready vote it at once sends a VOTE
with READY 0 (R314); once the attempt is aborted or the step committed the condition is stale (R454). -/
def Mach.abortCond (m : Mach) (slot reason : Nat) : Mach :=
  match m.job? slot with
  | none => m
  | some j =>
    match j.state with
    | .running | .reducing | .updating | .pastPnr =>
      if j.part.voteSent then m
      else
        (m.modJob slot fun j =>
          { j with condition := reason, part := { j.part with voteSent := true } }).sendCommit
            slot j.coordModule 3 0 reason
    | .voted => m
    | _ => m.stale

/-- A second failed read of working data stops the step; of committed data it halts the job (R379). -/
def Mach.readFailed (m : Mach) (slot : Nat) (kind : DataKind) : Mach :=
  m.abortCond slot (match kind with
    | .working => 2
    | .committed => 16 + 5)

/-- When a read met a failure, act on it. -/
def Mach.onFail (m : Mach) (bad : Bool) (slot : Nat) (kind : DataKind) : Mach :=
  if bad then m.readFailed slot kind else m

/-- Add n to entry t of the drop tally array of a context, saturating (R434). -/
def Mach.dropTally (m : Mach) (ctx t n : Nat) : Mach :=
  match (m.getCtx ctx).desc, m.domOfCtx ctx with
  | some c, some dom =>
    if c.dropTally = 0 then m
    else
      let r := m.bumpTally .working ((m.getDom dom).hostAt + c.dropTally + 4 * t) n
      r.2.onFail r.1 ((m.getCtx ctx).job.getD 64) .working
  | _, _ => m

end Sys2Proof.Machine
end

