-- ==== Sys2Proof/Config.lean ====
section
/-!
DEFINITION. What an implementation fixes and the values the spec leaves open. Every constant here has no body: nothing in
Lean can evaluate it, so a statement that mentions one holds whatever its value is. The assumption log names each.
-/
namespace Sys2Proof.Config

/-- The bytes after the header that TST or SENC of a tile register with a reserved FORMAT writes: R57 gives such a
format no element width. -/
opaque reservedTileBytes : Nat → Nat

/-- The header of the tile register that RKEY writes, by the key drawn from: the rules give the elements only. -/
opaque rngTileHeader : BitVec 64 → BitVec 64

/-- The format in which RBERN writes its elements 1 and 0, by the key drawn from: the rules give the values only. -/
opaque bernFormat : BitVec 64 → BitVec 3

/-- The segment carry that VSEGRED leaves where the last segment has no active lane and nothing was carried in, by the instruction's
operation and its operands: nothing else may decide it (R253). -/
opaque segCarry : Nat → List Nat → BitVec 32

/-- CTR of every WRITE that a transfer or an engine sends: the rules give it no counter of its own. One counter for all of them, so
that a plat changes no other counter. -/
opaque writeCounter : BitVec 8

/-- Whether the planner's cores draw some plat in the background at a time: PLAT_DRAWN says only when one is finished (R344, R362). -/
opaque drawing : Nat → Bool

/-- Whether a range of another module, by domain, module, offset and bytes, is populated there and within the shares of the domain (R369). -/
opaque rangeElsewhere : Nat → Nat → Nat → Nat → Bool

/-- Bytes of homes that the slow tier of the other participants of a job can hold for it, by job id and step (R360). -/
opaque homesElsewhere : Nat → BitVec 64 → Nat

/-- What the part of a graph or a table that lies at an offset of another module names beside itself: module, offset, bytes (R107, R144).
This module reads it only as its engines do. -/
opaque rangesElsewhere : Nat → Nat → List (Nat × Nat × Nat)

/-- The content bytes of a control frame, by what it carries: the rules give no layout (R386). -/
opaque controlBytes : CtlFrame → List Byte

/-- The element of an edge-data array that EDGE_DATA asks for in a walk hop, by batch, seed, node and array: the listed edge
is no edge of the graph, so there is nothing to copy. -/
opaque walkEdgeData : BitVec 64 → Nat → Nat → Nat → Nat

/-- The integer that FINISH converts where a sum is marked GRAD_RANGE and so is not consumed, by the sum's address. -/
opaque markedSum : Nat → Int

/-- The largest pending amax code that the other modules of a job found for a group in a step, by job id, group and step: the
rules give no message that carries it (R288). -/
opaque groupAmaxElsewhere : Nat → Nat → BitVec 64 → BitVec 15

/-- Whether another module of a job updated an element of a group in a step, by job id, group and step (R286). -/
opaque groupUpdatedElsewhere : Nat → Nat → BitVec 64 → Bool

/-- What the other modules of a job add to the counters of a sketch on this module in a step: word of the sketch and number
of occurrences, by job id, step and table; the rules give no message that carries it (R154). -/
opaque sketchElsewhere : Nat → BitVec 64 → Nat → List (Nat × Nat)

/-- The rows of a shard of this module that only other modules looked up in a step, by job id, step, table and shard (R155). -/
opaque rowsLookedElsewhere : Nat → BitVec 64 → Nat → Nat → List Nat

/-- The estimate of a row whose sketch lies on another module, after the deltas of a step, by job id, step, table and row
(R155). -/
opaque sketchEstimate : Nat → BitVec 64 → Nat → Nat → Nat

/-- Whether another module has by a time applied a posted add of this module, by source and destination station, SEQ and time: the rules
send nothing back for a posted add (R242, R377). -/
opaque appliedBy : Nat → Nat → BitVec 32 → Nat → Bool

/-- What only other modules of a job found to raise in an aborted attempt, by job id, step, attempt and kind: 0 reduction
descriptors, 1 tables by GRAD_EXP, 2 tables by POOL_EXP; the rules give no message that names them (R322). -/
opaque raisedElsewhere : Nat → BitVec 64 → BitVec 2 → Nat → List Nat

/-- The clusters that a job of several modules can be given on its other participants, by job id and step (R347, R360). -/
opaque clustersElsewhere : Nat → BitVec 64 → Nat

/-- ACLK cycles that one droop stretches, by tract and time: R448 gives no number. -/
opaque droopCycles : Nat → Nat → Nat

/-- Whether a low pulse of this many nanoseconds, from 100 to 999, on a reset input is recognised, by input and length (R495). -/
opaque pulseSeen : Nat → Nat → Bool

/-- One less than the number of records that the flash log holds: R482 gives its bytes and no length of a record. -/
opaque flashLogRoom : Nat

/-- The digest of the OTP contents: key digests, revocation bits and anti-rollback count, in a layout R475 does not give. -/
opaque otpDigest : List (BitVec 512) → BitVec 4 → Nat → BitVec 512

/-- The digest of the record of a change to a domain or to the management CA, in a layout R475 does not give. -/
opaque changeDigest : Nat → DomChange → BitVec 512

/-- The signature of the module's identity key over the signed bytes of an attestation report (R476): the key never leaves
the module. -/
opaque identitySignature : BitVec 64 → List Byte → BitVec 4096

end Sys2Proof.Config
end

