-- ==== Sys2Proof/Machine/Rng.lean ====
section
/-!
DEFINITION. The random generators (chapter 04): one generator step, the output function, the mixing function H, the
polynomial table, keyed tile streams and free-running seeds.
-/
namespace Sys2Proof.Machine

/-- One generator step (R82): multiply by x modulo the polynomial whose low coefficients are c. -/
def rngAdvance (x c : BitVec 64) : BitVec 64 :=
  if x.getLsbD 63 then (x <<< 1) ^^^ c else x <<< 1

/-- The output word of a state (R85). -/
def rngOut (z : BitVec 64) : BitVec 64 :=
  let z := (z ^^^ (z >>> 30)) * 0xBF58476D1CE4E5B9#64
  let z := (z ^^^ (z >>> 27)) * 0x94D049BB133111EB#64
  z ^^^ (z >>> 31)

/-- mix64 of R86. -/
def mix64 (z : BitVec 64) : BitVec 64 :=
  let z := z ^^^ (z >>> 33)
  let z := z * 0xFF51AFD7ED558CCD#64
  let z := z ^^^ (z >>> 33)
  let z := z * 0xC4CEB9FE1A85EC53#64
  z ^^^ (z >>> 33)

/-- The word that replaces a state of zero (R84). -/
def rngNonzero (x : BitVec 64) : BitVec 64 := if x = 0 then 0x243F6A8885A308D3#64 else x

/-- The words of H from index i on. -/
def hashGo : Nat → BitVec 64 → List (BitVec 64) → BitVec 64
  | _, acc, [] => acc
  | i, acc, w :: ws => hashGo (i + 1) (mix64 ((acc ^^^ w) + BitVec.ofNat 64 (i + 1) * 0x9E3779B97F4A7C15#64)) ws

/-- The mixing function H (R86). -/
def hashH (seed : BitVec 64) (ws : List (BitVec 64)) : BitVec 64 :=
  mix64 (hashGo 0 (mix64 (seed ^^^ 0x243F6A8885A308D3#64)) ws ^^^ BitVec.ofNat 64 ws.length)

/-- Entries 0 to 63 of the polynomial table (R83), formed from its definition. -/
def polyPart0 : List Nat := [
  27, 29, 245, 373, 417, 479, 593, 715, 839, 969, 975, 1011, 1061, 1331, 1913, 1919,
  2055, 2277, 2361, 2451, 2577, 2775, 2809, 3211, 3249, 3591, 3619, 3849, 3945, 3987, 4075, 4227,
  4307, 4409, 4589, 4737, 4773, 4783, 4827, 5701, 5705, 5723, 5769, 5897, 5959, 5983, 6023, 6521,
  6687, 6705, 6735, 6883, 6997, 7099, 7261, 7353, 7429, 7535, 7559, 7669, 8067, 8135, 8247, 8279]

/-- Entries 64 to 127 of the polynomial table (R83), formed from its definition. -/
def polyPart1 : List Nat := [
  8301, 8597, 8673, 8857, 8893, 8959, 9131, 9163, 9327, 9329, 9405, 9663, 9801, 9835, 10027, 10273,
  10363, 10489, 10627, 10737, 10937, 11119, 11171, 11313, 11815, 12079, 12125, 12465, 12497, 12785, 12903, 12917,
  13017, 13079, 13139, 13253, 13323, 13405, 13679, 13889, 13899, 14033, 14285, 14467, 14619, 14727, 14863, 14893,
  14943, 15037, 15375, 15431, 15465, 15595, 15797, 15897, 15953, 16297, 16397, 16765, 16871, 16883, 17055, 17199]

/-- Entries 128 to 191 of the polynomial table (R83), formed from its definition. -/
def polyPart2 : List Nat := [
  17243, 17307, 17585, 17629, 17675, 17711, 17845, 18013, 18125, 18147, 18173, 18239, 18533, 18675, 18963, 18981,
  19053, 19195, 19349, 19387, 19543, 19559, 19623, 19847, 19901, 19919, 19995, 20007, 20073, 20131, 20163, 20279,
  20297, 20391, 20437, 20447, 20557, 20677, 20705, 20773, 20843, 20845, 21039, 21113, 21277, 21479, 21545, 21707,
  21855, 22151, 22193, 22417, 22453, 22499, 22513, 22837, 22895, 22925, 23003, 23005, 23083, 23097, 23103, 23605]

/-- Entries 192 to 255 of the polynomial table (R83), formed from its definition. -/
def polyPart3 : List Nat := [
  23657, 23699, 23845, 23929, 23959, 23969, 23975, 24047, 24119, 24201, 24317, 24349, 24383, 24469, 24879, 24959,
  25005, 25013, 25341, 25455, 25563, 25611, 25829, 26313, 26355, 26485, 26529, 26559, 26597, 26655, 26705, 26805,
  26925, 26993, 27057, 27077, 27313, 27319, 27385, 27571, 27657, 27711, 27731, 27747, 27777, 27789, 27893, 27951,
  27991, 28741, 28815, 28843, 28973, 29261, 29393, 29557, 29571, 29687, 29701, 29739, 29903, 29959, 30031, 30069]

/-- Entries 256 to 319 of the polynomial table (R83), formed from its definition. -/
def polyPart4 : List Nat := [
  30089, 30175, 30203, 30287, 30341, 30885, 30941, 31007, 31073, 31143, 31389, 31459, 31647, 31683, 31811, 31949,
  32043, 32147, 32723, 32947, 33067, 33279, 33673, 34041, 34135, 34495, 34531, 34551, 34665, 34729, 34737, 34859,
  34893, 34979, 34993, 35035, 35037, 35311, 35339, 35377, 36123, 36285, 36577, 36601, 36609, 36717, 36903, 37083,
  37189, 37227, 37411, 37901, 37955, 38033, 38149, 38195, 38207, 38243, 38677, 38817, 38883, 39015, 39393, 39405]

/-- Entries 320 to 383 of the polynomial table (R83), formed from its definition. -/
def polyPart5 : List Nat := [
  39477, 39699, 39761, 40179, 40309, 40455, 40591, 40675, 40681, 40689, 40707, 40743, 40767, 40781, 40887, 41071,
  41079, 41169, 41247, 41275, 41539, 41675, 41755, 41863, 41923, 42101, 42279, 42291, 42339, 42839, 42873, 42931,
  43049, 43081, 43189, 43247, 43427, 43471, 43529, 43729, 43979, 44307, 44391, 44421, 44455, 44505, 44665, 44695,
  44773, 44817, 44843, 44965, 44995, 45125, 45227, 45273, 45453, 45763, 45825, 45921, 46023, 46143, 46507, 46759]

/-- Entries 384 to 447 of the polynomial table (R83), formed from its definition. -/
def polyPart6 : List Nat := [
  46853, 47035, 47109, 47209, 47245, 47263, 47319, 47587, 47675, 47725, 47839, 47877, 47899, 47905, 48301, 48683,
  48763, 48817, 48883, 48903, 48907, 49275, 49677, 49743, 49761, 49923, 49947, 50073, 50129, 50175, 50285, 50389,
  50427, 50477, 50595, 50621, 50783, 50957, 51005, 51059, 51111, 51157, 51373, 51433, 51453, 51485, 51545, 51653,
  51691, 51955, 51989, 52139, 52229, 52313, 52343, 52413, 52469, 52685, 52693, 52707, 52791, 52839, 52975, 53169]

/-- Entries 448 to 511 of the polynomial table (R83), formed from its definition. -/
def polyPart7 : List Nat := [
  53213, 53461, 53615, 53759, 53799, 53813, 53871, 53889, 53947, 53967, 53975, 54015, 54089, 54125, 54281, 54295,
  54367, 54745, 55057, 55511, 55577, 55685, 56031, 56103, 56227, 56299, 56451, 56493, 56581, 56605, 56627, 56797,
  56937, 56951, 57067, 57465, 57609, 57645, 57729, 57777, 57835, 58031, 58105, 58229, 58285, 58353, 58371, 58479,
  58545, 58661, 58775, 58941, 59091, 59093, 59109, 59153, 59249, 59261, 59355, 59763, 59901, 60047, 60097, 60143]

/-- Entries 512 to 575 of the polynomial table (R83), formed from its definition. -/
def polyPart8 : List Nat := [
  60217, 60385, 60463, 60807, 60927, 60931, 61117, 61485, 61505, 61511, 61615, 61647, 61793, 61799, 61827, 61851,
  62169, 62343, 62417, 62463, 62477, 62499, 63087, 63089, 63251, 63387, 63479, 63525, 63547, 63789, 64075, 65313,
  65679, 65783, 65869, 65887, 65927, 66087, 66123, 66159, 66279, 66679, 66685, 66779, 66937, 66995, 67107, 67127,
  67245, 67253, 67295, 67319, 67491, 67529, 67583, 67833, 67899, 67913, 67943, 68137, 68203, 68211, 68329, 68369]

/-- Entries 576 to 639 of the polynomial table (R83), formed from its definition. -/
def polyPart9 : List Nat := [
  68501, 68657, 68711, 68849, 68939, 69107, 69153, 69219, 69513, 69781, 70139, 70299, 70465, 71075, 71131, 71239,
  71315, 71455, 71491, 71493, 71541, 71813, 72113, 72143, 72387, 72473, 72521, 72707, 73087, 73141, 73165, 73177,
  73207, 73223, 73333, 73445, 73517, 73661, 73667, 73737, 73839, 73897, 73915, 74163, 74231, 74377, 74553, 74673,
  74963, 75023, 75035, 75131, 75579, 75651, 75723, 75761, 75873, 75947, 75949, 75961, 75975, 76023, 76263, 76317]

/-- Entries 640 to 703 of the polynomial table (R83), formed from its definition. -/
def polyPart10 : List Nat := [
  76327, 76331, 76399, 76429, 76677, 76975, 77159, 77213, 77333, 77439, 77585, 77601, 77715, 77751, 78095, 78109,
  78317, 78425, 78545, 78573, 78685, 78819, 78833, 78995, 79037, 79049, 79141, 79255, 79679, 79769, 79961, 80079,
  80093, 80107, 80431, 80453, 80683, 80855, 80865, 81041, 81123, 81161, 81215, 81665, 81867, 81935, 82069, 82117,
  82145, 82163, 82213, 82307, 82375, 82379, 82463, 82469, 82553, 82637, 82649, 83059, 83155, 83431, 83437, 83499]

/-- Entries 704 to 767 of the polynomial table (R83), formed from its definition. -/
def polyPart11 : List Nat := [
  83693, 83979, 84009, 84035, 84221, 84359, 84687, 85189, 85327, 85577, 85635, 85743, 85811, 86051, 86053, 86249,
  86455, 86493, 86591, 86663, 86763, 86773, 86893, 87209, 87283, 87289, 87427, 87501, 87547, 87631, 87779, 87799,
  87811, 88005, 88141, 88165, 88375, 88389, 88427, 88525, 88589, 88663, 88679, 88691, 88793, 88927, 88933, 88995,
  89095, 89293, 89349, 89469, 89603, 89657, 89719, 89747, 89787, 89809, 89977, 90029, 90049, 90291, 90479, 90493]

/-- Entries 768 to 831 of the polynomial table (R83), formed from its definition. -/
def polyPart12 : List Nat := [
  90533, 90563, 90611, 90641, 90873, 91271, 91473, 91523, 91833, 91913, 92081, 92111, 92123, 92141, 92629, 92833,
  93195, 93491, 93517, 93579, 93685, 93779, 94067, 94079, 94137, 94175, 94211, 94483, 94585, 94751, 94949, 95465,
  95759, 95965, 96117, 96155, 96193, 96291, 96625, 96843, 96915, 96999, 97013, 97253, 97271, 97313, 97399, 97403,
  97443, 97669, 97769, 97883, 98143, 98327, 98331, 98467, 99339, 99445, 99533, 99551, 99969, 100275, 100343, 100393]

/-- Entries 832 to 895 of the polynomial table (R83), formed from its definition. -/
def polyPart13 : List Nat := [
  100443, 100519, 100683, 100839, 100873, 100987, 101005, 101073, 101331, 101583, 101669, 101699, 101937, 101969, 101995, 102173,
  102227, 102255, 102333, 102473, 102581, 102671, 102761, 102939, 103075, 103131, 103189, 103619, 103667, 103741, 103801, 104169,
  104195, 104207, 104643, 104741, 104831, 105075, 105139, 105249, 105355, 105541, 105559, 105589, 105719, 105923, 106185, 106277,
  106349, 106371, 106699, 106725, 106785, 106939, 106989, 107047, 107263, 107299, 107385, 107543, 107573, 107603, 107667, 107937]

/-- Entries 896 to 959 of the polynomial table (R83), formed from its definition. -/
def polyPart14 : List Nat := [
  108073, 108271, 108321, 108849, 109087, 109159, 109423, 109477, 109537, 109713, 109753, 109887, 110219, 110355, 110589, 110637,
  110915, 111265, 111283, 111343, 111957, 111995, 112133, 112137, 112155, 112323, 112329, 112359, 112755, 112899, 112971, 113155,
  113181, 113287, 113389, 113541, 113581, 113669, 113749, 113839, 114379, 114471, 114483, 114537, 114597, 114839, 114849, 115033,
  115069, 115175, 115199, 115475, 115537, 115783, 115927, 116023, 116147, 116231, 116235, 116245, 116265, 116483, 116537, 116717]

/-- Entries 960 to 1023 of the polynomial table (R83), formed from its definition. -/
def polyPart15 : List Nat := [
  116741, 116763, 117135, 117215, 117231, 117339, 117643, 117753, 117841, 117891, 117939, 117999, 118045, 118329, 118361, 118527,
  118807, 118811, 118827, 118971, 119071, 119107, 119243, 119297, 119463, 119547, 119635, 119691, 119761, 119923, 119981, 120093,
  120253, 120289, 120301, 120307, 120337, 120787, 120845, 120913, 121005, 121241, 121251, 121367, 121539, 121813, 121839, 121909,
  122369, 122387, 122447, 122579, 123095, 123209, 123291, 123353, 123423, 123453, 123529, 123543, 123643, 123665, 123807, 124011]

/-- The polynomial table (R83): the coefficient words of the first 1,024 primitive polynomials of degree 64. -/
def polyTable : List Nat :=
  polyPart0 ++ polyPart1 ++ polyPart2 ++ polyPart3 ++ polyPart4 ++ polyPart5 ++ polyPart6 ++ polyPart7 ++
  polyPart8 ++ polyPart9 ++ polyPart10 ++ polyPart11 ++ polyPart12 ++ polyPart13 ++ polyPart14 ++ polyPart15

/-- poly[i]. -/
def poly (i : Nat) : BitVec 64 := BitVec.ofNat 64 (polyTable.getD i 0)

/-- A generator: its state and its coefficient word. -/
structure Gen where
  x : BitVec 64
  c : BitVec 64
  deriving DecidableEq, Repr

/-- Step a generator once. -/
def Gen.step (g : Gen) : Gen := { g with x := rngAdvance g.x g.c }

/-- The generator stationed at key K (R88). -/
def Gen.station (k : BitVec 64) : Gen := { x := rngNonzero k, c := poly (k >>> 54).toNat }

/-- The first n output words of a generator, each after one more step. -/
def Gen.words : Nat → Gen → List (BitVec 64)
  | 0, _ => []
  | n + 1, g => let g' := g.step; rngOut g'.x :: Gen.words n g'

/-- The key of a tile (R88): seed, stream, step, tile row and column joined in one word, draw index. -/
def tileKey (seed stream step coords d : BitVec 64) : BitVec 64 := hashH seed [1, stream, step, coords, d]

/-- The 1,024 16-bit fields of a keyed tile (R88, R89), element order. -/
def keyedFields (key : BitVec 64) : List (BitVec 16) :=
  ((Gen.station key).words 256).flatMap fun w =>
    [w.extractLsb' 0 16, w.extractLsb' 16 16, w.extractLsb' 32 16, w.extractLsb' 48 16]

/-- The state a free-running generator is seeded with (R92). -/
def freeSeed (seed context : BitVec 64) (g : Nat) : BitVec 64 :=
  rngNonzero (hashH seed [2, context, BitVec.ofNat 64 g])

/-- The free-running generator g in state x (R92): its own polynomial. -/
def freeGen (g : Nat) (x : BitVec 64) : Gen := { x := x, c := poly (g % 1024) }

/-- The 16-bit field of an output word in free-running mode (R92): bits [63:48]. -/
def freeField (w : BitVec 64) : BitVec 16 := w.extractLsb' 48 16

/-- The generator number of vector lane l of core q (R81). -/
def laneGen (q l : Nat) : Nat := 64 * q + l
/-- The generator number of tile-array row a of core q (R81). -/
def rowGen (q a : Nat) : Nat := 655360 + 16 * q + a

end Sys2Proof.Machine
end

