-- ==== Sys2Proof/Machine/Tiles.lean ====
section
/-!
DEFINITION. Tile registers as matrices of elements: reading and writing them, the dense and the sparse layout in memory,
transposition, and conversion of 1,024 exact values into a tile (R55 to R58, R63 to R72, R197, R198, R213, R214, R222
to R227, R246).
-/
namespace Sys2Proof.Machine

/-- A tile as an operation reads it: its header, the format its elements have, 1,024 element patterns, and whether R58 or
R224 makes every element read as zero (then the patterns are zero). -/
structure TView where
  hdr : TileHdr
  fmt : Fmt
  elems : Array Nat
  bad : Bool

/-- Element e of the tile, as its pattern. -/
def TView.bits (t : TView) (e : Nat) : Nat := t.elems.getD e 0

/-- The exact value of element e (R58, R60, R71) and the tally of reading it. -/
def TView.read (t : TView) (e : Nat) : Val × Tal :=
  if t.bad then ({}, { hdr := 1 }) else t.fmt.read (t.bits e) t.hdr.s

/-- The exact values of all 1,024 elements. -/
def TView.vals (t : TView) : Array Val := (List.range 1024).toArray.map fun e => (t.read e).1

/-- The tallies of reading all 1,024 elements once. -/
def TView.tal (t : TView) : Tal :=
  if t.bad then { hdr := 1024 } else { special := (t.elems.toList.countP fun x =>
    match t.fmt.ieee? with
    | some i => (i.read x).nan || (i.read x).inf
    | none => false) }

/-- The slots of a tile register as numbers. -/
def Tile.slotNats (t : Tile) : List Nat := (Tab.toListN 0 t.slots 1024).map (·.toNat)

/-- A tile register from a header word and slot values. -/
def Tile.mk' (hdr : Nat) (slots : List Nat) : Tile :=
  { hdr := BitVec.ofNat 64 hdr, slots := Tab.ofList 0 (slots.map (BitVec.ofNat 32)) }

/-- Tile register r of a core. -/
def CoreSt.tile (c : CoreSt) (r : Nat) : Tile := Tab.get {} c.t r

/-- Set tile register r of a core. -/
def CoreSt.setTile (c : CoreSt) (r : Nat) (t : Tile) : CoreSt := { c with t := Tab.put {} c.t r t }

/-- The header of tile register r. -/
def CoreSt.tileHdr (c : CoreSt) (r : Nat) : TileHdr := TileHdr.ofWord (c.tile r).hdr.toNat

/-- Row by row, columns 0 to 15 from the even register and 16 to 31 from the odd one, two slots an element, low word
first (R197; the order of the two slots is read from "64 bits per element", row-major). -/
def pairElems (lo hi : List Nat) : List Nat :=
  let lo := lo.toArray
  let hi := hi.toArray
  (List.range 1024).map fun e =>
    let r := e / 32
    let c := e % 32
    let a := if c < 16 then lo else hi
    let i := 2 * (16 * r + c % 16)
    a.getD i 0 + 2 ^ 32 * a.getD (i + 1) 0

/-- The slots of one register of a pair: half 0 holds columns 0 to 15, half 1 columns 16 to 31. -/
def pairSlots (elems : Array Nat) (half : Nat) : List Nat :=
  (List.range 1024).map fun i =>
    let x := elems.getD (32 * (i / 32) + 16 * half + (i / 2) % 16) 0
    if i % 2 = 0 then x % 2 ^ 32 else x / 2 ^ 32

/-- Read tile register r, or the pair that holds it (R58, R197): an invalid header and a broken binary64 pair read as zero; any
other register has its elements in its slots, whatever its DENSE bit says. -/
def CoreSt.view (c : CoreSt) (r : Nat) : TView :=
  let t := c.tile r
  let h := TileHdr.ofWord t.hdr.toNat
  let zero : Array Nat := (List.replicate 1024 0).toArray
  match h.fmt? with
  | none => { hdr := h, fmt := .l8, elems := zero, bad := true }
  | some .f64 =>
    let lo := c.tile (r - r % 2)
    let hi := c.tile (r - r % 2 + 1)
    if h.invalid || lo.hdr != hi.hdr then { hdr := h, fmt := .f64, elems := zero, bad := true }
    else { hdr := h, fmt := .f64, elems := (pairElems lo.slotNats hi.slotNats).toArray, bad := false }
  | some f =>
    if h.invalid then { hdr := h, fmt := f, elems := zero, bad := true }
    else { hdr := h, fmt := f, elems := (t.slotNats.map (· % 2 ^ f.bits)).toArray, bad := false }

/-- Write a tile of 1,024 element patterns with header h into register r, or into the pair named by r with bit 0
cleared when the format is binary64 (R197). -/
def CoreSt.putTile (c : CoreSt) (r : Nat) (h : Nat) (f : Fmt) (elems : Array Nat) : CoreSt :=
  match f with
  | .f64 =>
    (c.setTile (r - r % 2) (Tile.mk' h (pairSlots elems 0))).setTile (r - r % 2 + 1) (Tile.mk' h (pairSlots elems 1))
  | _ => c.setTile r (Tile.mk' h ((List.range 1024).map fun e => elems.getD e 0))

/-! ## Layouts in memory -/

/-- Bytes of 1,024 elements in dense layout (R57). -/
def Fmt.tileBytes (f : Fmt) : Nat := 128 * f.bits

/-- The stride of a tile slot: the dense form, header included (R225). -/
def Fmt.stride (f : Fmt) : Nat := 8 + f.tileBytes

/-- Split a byte list into little-endian numbers of w bytes. -/
def splitLe (w : Nat) : Nat → List Byte → List Nat
  | 0, _ => []
  | n + 1, bs => leNat (bs.take w) :: splitLe w n (bs.drop w)

/-- The two elements of a byte of an L4 tile: the even column low (R57). -/
def l4Pair (b : Byte) : List Nat := [b.toNat % 16, b.toNat / 16]

/-- The elements of a dense tile body (R57). -/
def denseElems (f : Fmt) (bs : List Byte) : List Nat :=
  match f with
  | .l4 => (bs.take 512).flatMap l4Pair
  | _ => splitLe (f.bits / 8) 1024 bs

/-- Join element patterns into a dense tile body (R57). -/
def denseBody (f : Fmt) (elems : List Nat) : List Byte :=
  match f with
  | .l4 =>
    let a := elems.toArray
    (List.range 512).map fun i => BitVec.ofNat 8 (a.getD (2 * i) 0 % 16 + 16 * (a.getD (2 * i + 1) 0 % 16))
  | _ => elems.flatMap (leBytes (f.bits / 8))

/-- The bits of a sparse tile's bitmap, in element order (R222). -/
def bitmapBits (bs : List Byte) : List Bool :=
  (bs.take 128).flatMap fun b => (List.range 8).map fun i => b.toNat.testBit i

/-- Put packed values where the bitmap has bits (R222, R223). -/
def unpackSparse : List Bool → List Nat → List Nat
  | [], _ => []
  | false :: bs, xs => 0 :: unpackSparse bs xs
  | true :: bs, x :: xs => x :: unpackSparse bs xs
  | true :: bs, [] => 0 :: unpackSparse bs []

/-- The most set bits a sparse tile may have (R224): 896 for L8, 960 for L16. -/
def sparseMax (f : Fmt) : Nat := if f = .l16 then 960 else 896

/-- The elements of a tile with header h whose body is read by `rd offset length`, or none where R58 or R224 makes every
element zero. No byte beyond the tile's form is read. -/
def tileElems (h : TileHdr) (rd : Nat → Nat → List Byte) : Option (Fmt × List Nat) :=
  match h.fmt? with
  | none => none
  | some f =>
    if h.invalid then none
    else if h.dense then some (f, denseElems f (rd 8 f.tileBytes))
    else
      let bits := bitmapBits (rd 8 128)
      let n := bits.countP id
      if sparseMax f < n then none
      else some (f, unpackSparse bits (splitLe (f.bits / 8) n (rd 136 (n * (f.bits / 8)))))

/-- How many bytes of a tile are read beyond its header, given the header and the reader (for reads from memory). -/
def tileExtent (h : TileHdr) (rd : Nat → Nat → List Byte) : Nat :=
  match h.fmt? with
  | none => 8
  | some f =>
    if h.invalid then 8
    else if h.dense then f.stride
    else
      let n := (bitmapBits (rd 8 128)).countP id
      if sparseMax f < n then 136 else 136 + n * (f.bits / 8)

/-- What TLD or SDEC puts into a register: header word, format of the register, elements, tallies (R198, R227).
`recount` is SDEC's: NNZ is recounted for a dense tile too. -/
structure Loaded where
  hdr : Nat
  fmt : Fmt
  elems : List Nat
  tal : Tal

/-- Load a tile through a reader (R198, R227). -/
def loadTile (recount : Bool) (rd : Nat → Nat → List Byte) : Loaded :=
  let w := leNat (rd 0 8)
  let h := TileHdr.ofWord w
  match tileElems h rd with
  | none => { hdr := w, fmt := (h.fmt?.getD .l8), elems := List.replicate 1024 0, tal := { hdr := 1024 } }
  | some (f, xs) =>
    let nnz := xs.countP f.nonzero
    let h' := { h with nnz := if h.dense && !recount then h.nnz else nnz, dense := true }
    match f with
    | .l4 => { hdr := { h' with format := Fmt.toCode .l8 }.toWord, fmt := .l8, elems := xs.map expandL4, tal := {} }
    | _ => { hdr := h'.toWord, fmt := f, elems := xs, tal := {} }

/-- The dense bytes of register r: header unchanged (or replaced by `hdr`), then the elements (R198). -/
def CoreSt.tileBytes (c : CoreSt) (r : Nat) (hdr : Nat) : List Byte :=
  let t := c.view r
  let f := t.hdr.fmt?
  leBytes 8 hdr ++
    (match f with
     | none => List.replicate (min 8192 (Config.reservedTileBytes t.hdr.format)) 0
     | some f => denseBody f t.elems.toList)

/-- Transposed element patterns. -/
def transposeElems (a : Array Nat) : Array Nat :=
  ((List.range 1024).map fun e => a.getD (32 * (e % 32) + e / 32) 0).toArray

/-! ## SENC and the mask check -/

/-- Pack one row of the bitmap. -/
def bitmapRow (xs : List Bool) : Nat := xs.reverse.foldl (fun a b => 2 * a + b2n b) 0

/-- The sparse form of an L8 or L16 tile (R222, R226). -/
def sparseBody (f : Fmt) (elems : List Nat) : List Byte :=
  let present := elems.map f.nonzero
  let rows := (List.range 32).map fun r => bitmapRow ((present.drop (32 * r)).take 32)
  rows.flatMap (leBytes 4) ++ (elems.filter f.nonzero).flatMap (leBytes (f.bits / 8))

/-- Is the tile a transposable mask (R246)? -/
def transposable (nz : Nat → Nat → Bool) : Bool :=
  (List.range 4).all fun u => (List.range 4).all fun v =>
    (List.range 8).all fun i =>
      decide (((List.range 8).countP fun j => nz (8 * u + i) (8 * v + j)) ≤ 4) &&
      decide (((List.range 8).countP fun j => nz (8 * u + j) (8 * v + i)) ≤ 4)

/-! ## Conversion of a whole tile (R182, R213, R214) -/

/-- One input of a conversion: an exact value, and whether it stands for an infinity (R72). -/
structure ConvIn where
  val : Val
  inf : Bool := false

/-- The largest magnitude of a format with a sign: what an infinity becomes (R72). -/
def Fmt.largest (f : Fmt) (neg : Bool) : Nat :=
  match f with
  | .l8 => (if neg then 128 else 0) + 127
  | .l16 => (if neg then 32768 else 0) + 32767
  | .l4 => (if neg then 8 else 0) + 7
  | .f16 => Ieee.b16.maxBits neg
  | .f32 => Ieee.b32.maxBits neg
  | .f64 => Ieee.b64.maxBits neg

/-- Convert one input (R63 to R66, R70, R72). -/
def convOne (f : Fmt) (s : Int) (mode : LogMode) (x : ConvIn) : Rounded :=
  if x.inf then { bits := f.largest x.val.neg } else f.write x.val s mode

/-- The amax code of one input (R67). -/
def ConvIn.amax (x : ConvIn) : Nat := if x.inf then 32767 else amaxCode x.val

/-- An element read as the input of a conversion: an infinity stays one (R67, R72). -/
def Fmt.readConv (f : Fmt) (x : Nat) (s : Int) : ConvIn × Tal :=
  match f.ieee? with
  | some i => let r := i.read x; ({ val := r.val, inf := r.inf }, r.tal)
  | none => ({ val := (f.read x s).1 }, {})

/-- The inputs of CVT: all elements of a tile. -/
def TView.convIns (t : TView) : List ConvIn :=
  (List.range 1024).map fun e => if t.bad then { val := {} } else (t.fmt.readConv (t.bits e) t.hdr.s).1

/-- The random bits of a conversion: for each element the top k bits of its 16-bit field (R89), or nearest. -/
def convModes (stoch : Option (BitVec 64)) (k3 : Bool) : List LogMode :=
  match stoch with
  | none => List.replicate 1024 .nearest
  | some key => (keyedFields key).map fun f => if k3 then .stoch 3 (f.toNat / 8192) else .stoch 4 (f.toNat / 4096)

/-- A converted tile: its header word, format and elements, its AMAX, and the tallies of the conversion. -/
structure Converted where
  hdr : Nat
  fmt : Fmt
  elems : Array Nat
  amax : Nat
  tal : Tal

/-- Convert 1,024 inputs into format f at scale s and form the header (R213, R214). -/
def convertTile (f : Fmt) (s : Int) (ovf : Bool) (modes : List LogMode) (ins : List ConvIn) : Converted :=
  let outs := List.zipWith (convOne f s) modes ins
  let amax := ins.foldl (fun a x => max a x.amax) 0
  let nnz := outs.countP fun o => f.nonzero o.bits
  let h : TileHdr := { format := f.toCode, dense := true, ovf := ovf, scale := if f.isLog then s else 0, nnz := nnz,
                       whint := 0x80, amax := amax }
  { hdr := h.toWord, fmt := f, elems := (outs.map (·.bits)).toArray, amax := amax,
    tal := { sat := outs.countP (·.sat), unf := outs.countP (·.unf) } }

end Sys2Proof.Machine
end

