-- ==== Sys2Proof/Machine/TileMul.lean ====
section
/-!
DEFINITION. The multiplies of the tile engine and of the sparse engine's routed form (R199 to R212, R228 to R231, R246 to
R248): products into the 20-bit window, promotion, repeats, the binary32 and binary64 products, the checksum check, and
accumulator images.
-/
namespace Sys2Proof.Machine

/-! ## Accumulators (R199, R200) -/

/-- The 1,024 values of an accumulator as numbers. -/
def Acc.nats (a : Acc) : List Nat := (Tab.toListN 0 a.vals 1024).map (·.toNat)

/-- Element values of an accumulator from numbers. -/
def accVals (xs : List Nat) : Tab (BitVec 64) := Tab.ofList 0 (xs.map (BitVec.ofNat 64))

/-- The accumulator named by an A field bit. -/
def CoreSt.acc (c : CoreSt) (i : Nat) : Acc := if i % 2 = 0 then c.a0 else c.a1

/-- Set an accumulator. -/
def CoreSt.setAcc (c : CoreSt) (i : Nat) (a : Acc) : CoreSt := if i % 2 = 0 then { c with a0 := a } else { c with a1 := a }

/-- Is the accumulator one half of an F64 pair (R199)? -/
def Acc.isPair (a : Acc) : Bool := a.mode == .f64

/-- The accumulator whose values the named one stands for: an F64 pair's values are held in a0. -/
def CoreSt.accSrc (c : CoreSt) (i : Nat) : Acc := if (c.acc i).isPair then c.a0 else c.acc i

/-- The exact value of element pattern x of accumulator a (R199). -/
def Acc.elem (a : Acc) (x : Nat) : Val :=
  match a.mode with
  | .empty => {}
  | .log => Val.ofInt (sgn 64 x) a.wa
  | .f32 => (Ieee.b32.read (x % 2 ^ 32)).val
  | .f64 => (Ieee.b64.read x).val

/-- All exact values. -/
def Acc.values (a : Acc) : List Val := a.nats.map a.elem

/-- Write accumulator i of a core after a multiply; an F64 pair that loses one half to another mode leaves the other
EMPTY (R200). -/
def CoreSt.putAcc (c : CoreSt) (i : Nat) (a : Acc) : CoreSt :=
  let c := if (c.acc i).isPair then c.setAcc (i + 1) {} else c
  c.setAcc i a

/-- TZERO (R199): EMPTY, OVF clear; both members of an F64 pair. -/
def CoreSt.tzero (c : CoreSt) (i : Nat) : CoreSt :=
  if (c.acc i).isPair then { c with a0 := {}, a1 := {} } else c.setAcc i {}

/-- The bound of a LOG element: ±(2^47 - 1). -/
def clamp47 (n : Int) : Int × Bool :=
  if (2 ^ 47 - 1 : Int) < n then (2 ^ 47 - 1, true) else if n < -(2 ^ 47 - 1 : Int) then (-(2 ^ 47 - 1), true) else (n, false)

/-- The integer N with N × 2^w nearest to a value, ties to even (R200, R206). -/
def intAt (x : Val) (w : Int) : Int := red64Int x w

/-- The LOG elements an attempt at exponent w starts from, its accumulator exponent, and whether a value saturated in
the conversion (R200). -/
def logStart (a : Acc) (w : Int) : List Int × Int × Bool :=
  match a.mode with
  | .empty => (List.replicate 1024 0, w, false)
  | .log => (a.nats.map (sgn 64), a.wa, false)
  | .f32 | .f64 =>
    let xs := a.values.map fun v => clamp47 (intAt v w)
    (xs.map (·.1), w, xs.any (·.2))

/-! ## Products into the window (R203 to R206) -/

/-- An operand of a log multiply: for each element the sign and the position q of a non-zero code, in the n of the
product's format; its scale and hint. -/
structure LogOp where
  fmt : LogFmt
  scale : Int
  whint : Nat
  q : Array (Option (Bool × Int))

/-- The format a TMMA operand counts as on its own: none where it is an IEEE format or reserved (R202). -/
def TView.opFmt (t : TView) : Option LogFmt :=
  match t.hdr.fmt? with
  | some .l8 => some .l8
  | some .l4 => some .l8
  | some .l16 => some .l16
  | _ => none

/-- Read a tile as the operand of a log multiply: an IEEE format counts as SCALE 0 and WHINT 0x80, a reserved one keeps its header's
(R202, R203); its q times 32 where an L8 element meets an L16 operand (R54, R62). -/
def TView.logOp (t : TView) (own prod : LogFmt) : LogOp :=
  let ieee := t.hdr.fmt?.isSome && t.opFmt.isNone
  { fmt := own, scale := if ieee then 0 else t.hdr.scale, whint := if ieee then 0x80 else t.hdr.whint,
    q := t.elems.map fun x =>
      let x := if t.fmt = .l4 then expandL4 x else x
      let c := own.code x
      if t.opFmt.isNone || t.bad || c = 0 then none
      else some (own.neg x, ((c : Int) - (own.b : Int)) * ((prod.n / own.n : Nat) : Int)) }

/-- The tally of reading both operands of a TMMA: HEADER_INVALID once per element of an IEEE or invalid tile (R58,
R202). -/
def tmmaReadTal (b c : TView) : Tal :=
  { hdr := (if b.bad || b.opFmt.isNone then 1024 else 0) + (if c.bad || c.opFmt.isNone then 1024 else 0) }

/-- The default hint (R203). -/
def defaultHint (fa fb : LogFmt) : Int :=
  if fa.n = 8 ∧ fb.n = 8 then 1 else if fa.n = 256 ∧ fb.n = 256 then 113 else 57

/-- The window exponent of the first attempt (R203). -/
def firstW (b c : LogOp) : Int :=
  b.scale + c.scale +
    (if b.whint != 0x80 then sgn 8 b.whint else if c.whint != 0x80 then sgn 8 c.whint else defaultHint b.fmt c.fmt)

/-- One product brought to the window (R204): the signed integer and whether it overflows, in which case the integer is
±32,767. -/
def toWindow (v : Val) (w : Int) (k r : Nat) : Int × Bool :=
  let sg (y : Nat) : Int := if v.neg then -(y : Int) else y
  let sh := w - v.e
  if sh ≤ 0 then (sg 32767, true)
  else
    let sh := sh.toNat
    let y := v.mag >>> sh
    let rem := v.mag - (y <<< sh)
    let pr := (rem <<< k) >>> sh
    let y := if r < pr then y + 1 else y
    if 32767 < y then (sg 32767, true) else (sg y, false)

/-- The random bits of the products of one instruction: the 16-bit fields of the eight keys of R205, in order of
p div 4. -/
def tmmaFields (seed step s29 s30 s31 : BitVec 64) : Array (Array (BitVec 16)) :=
  ((List.range 8).map fun j =>
    (keyedFields (tileKey seed (BitVec.ofNat 64 (s30.toNat % 2 ^ 32)) step s31 (8 * s29 + BitVec.ofNat 64 j))).toArray).toArray

/-- The k random bits of product (e, p): nibble p mod 4 of the element's field, its top 3 bits when k is 3 (R205). -/
def productBits (fields : Array (Array (BitVec 16))) (k3 : Bool) (e p : Nat) : Nat :=
  let n := fld ((fields.getD (p / 4) #[]).getD e 0).toNat (4 * (p % 4)) 4
  if k3 then n / 2 else n

/-- A log multiply: its two operands as functions of output row, column and p, the common format, the positions it
forms, and its random bits; `masked` says that the engine takes the positions in their order (SMGRAD). -/
structure LogMul where
  fmt : LogFmt
  left : Nat → Nat → Option (Bool × Int)
  right : Nat → Nat → Option (Bool × Int)
  pos : Nat → Nat → Bool
  scale : Int
  k3 : Bool
  fields : Array (Array (BitVec 16))
  masked : Bool := false

/-- The window sum of element (r, c) over p in a list, and whether a product overflowed (R204, R206, R230). -/
def LogMul.window (x : LogMul) (w : Int) (r c : Nat) (ps : List Nat) : Int × Bool :=
  ps.foldl (fun acc p =>
    match x.left r p, x.right p c with
    | some a, some b =>
      let y := toWindow (x.fmt.ofQ (a.1 != b.1) (a.2 + b.2) x.scale) w (if x.k3 then 3 else 4)
        (productBits x.fields x.k3 (32 * r + c) p)
      (acc.1 + y.1, acc.2 || y.2)
    | _, _ => acc) (0, false)

/-- One attempt: the two window values of each element (positions 0 to 15, then 16 to 31) and whether any product
overflowed. -/
def LogMul.attempt (x : LogMul) (w : Int) : Array (Int × Int) × Bool :=
  let lo := List.range 16
  let hi := (List.range 16).map (· + 16)
  let es := (List.range 1024).map fun e =>
    let r := e / 32
    let c := e % 32
    if x.pos r c then
      let a := x.window w r c lo
      let b := x.window w r c hi
      ((a.1, b.1), a.2 || b.2)
    else ((0, 0), false)
  ((es.map (·.1)).toArray, es.any (·.2))

/-- Promotion of a window value into a LOG element (R206). -/
def promote (v w wa n : Int) : Int × Bool :=
  clamp47 (n + intAt (Val.ofInt v w) wa)

/-- What a log multiply ends with: accumulator, number of repeats, window saturated, final w, the contributions of the
final attempt per element. -/
structure LogRes where
  acc : Acc
  repeats : Nat
  satTile : Bool
  w : Int
  delta : Array Int
  /-- matched products formed, repeats included -/
  matched : Nat

/-- The attempts of a multiply (R207, R209): each overflow raises w by 4, at most `n` times more; the last runs to the
end. Answers the window values, repeats, saturated, w. -/
def LogMul.attempts (x : LogMul) : Nat → Nat → Int → Array (Int × Int) × Nat × Bool × Int
  | 0, reps, w => let a := x.attempt w; (a.1, reps, a.2, w)
  | n + 1, reps, w =>
    let a := x.attempt w
    if a.2 then x.attempts n (reps + 1) (w + 4) else (a.1, reps, false, w)

/-- A matched product (r, c, p), and the cycle of its chunk in which the engine forms it. -/
structure Matched where
  row : Nat
  col : Nat
  p : Nat
  cycle : Nat

/-- Cut a list into pieces of n, the last one shorter. -/
def cut {α : Type} (n : Nat) (xs : List α) : List (List α) :=
  (List.range ((xs.length + n - 1) / n)).map fun i => (xs.drop (n * i)).take n

/-- The matched products by chunks (R229): tC's non-zeros 256 at a time in order of e; tB's stream past them 64 per cycle, and up to
256 products are formed per cycle. A product is formed as soon as both rates have reached it (DEDUCED: so the last one comes in cycle
max(ceil(nnz_B / 64), ceil(M_j / 256)), as R234 has it). SMGRAD forms its positions' products in their order in one chunk, 256 pairs
(position, p) per cycle (R247). -/
def LogMul.chunks (x : LogMul) : List (List Matched) :=
  let es := List.range 1024
  if x.masked then
    [(es.filter fun e => x.pos (e / 32) (e % 32)).zipIdx.flatMap fun e =>
      ((List.range 32).filter fun p => (x.left (e.1 / 32) p).isSome && (x.right p (e.1 % 32)).isSome).map fun p =>
        { row := e.1 / 32, col := e.1 % 32, p := p, cycle := (32 * e.2 + p) / 256 }]
  else
    let bs := es.filter fun e => (x.left (e / 32) (e % 32)).isSome
    (cut 256 (es.filter fun e => (x.right (e / 32) (e % 32)).isSome)).map fun ch =>
      (bs.zipIdx.flatMap fun b => (ch.filter fun e => e / 32 == b.1 % 32).map fun e => (b, e)).zipIdx.map fun h =>
        { row := h.1.1.1 / 32, col := h.1.2 % 32, p := h.1.2 / 32, cycle := max (h.1.1.2 / 64) (h.2 / 256) }

/-- Does a matched product overflow the window (R204)? -/
def LogMul.overflows (x : LogMul) (w : Int) (t : Matched) : Bool := (x.window w t.row t.col [t.p]).2

/-- The matched products formed over all attempts, at most n of them repeats (R207, R234): an overflow in a cycle ends the attempt
after that cycle, and the repeat begins with the chunk it came in. -/
def LogMul.formed (x : LogMul) : Nat → Int → List (List Matched) → Nat
  | 0, _, chs => (chs.map (·.length)).foldl (· + ·) 0
  | n + 1, w, chs =>
    let full := chs.takeWhile fun ch => !ch.any (x.overflows w)
    let done := (full.map (·.length)).foldl (· + ·) 0
    match chs.drop full.length with
    | [] => done
    | ch :: rest =>
      let last := ((ch.filter (x.overflows w)).map (·.cycle)).foldl min 1024
      done + ch.countP (fun t => decide (t.cycle ≤ last)) + x.formed n (w + 4) (ch :: rest)

/-- A log multiply into an accumulator (R200, R206 to R209). `flt` adds a fault of the array to the upper half's window
value of an element, in units of 2^w (R449). -/
def LogMul.run (x : LogMul) (x2 : Bool) (w0 : Int) (a : Acc) (flt : List (Nat × Int)) : LogRes :=
  let (win, reps, sat, w) := x.attempts (if x2 then 0 else 3) 0 w0
  let win := flt.foldl (fun (win : Array (Int × Int)) (f : Nat × Int) =>
    win.setIfInBounds f.1 ((win.getD f.1 (0, 0)).1, (win.getD f.1 (0, 0)).2 + f.2)) win
  let (start, wa, convSat) := logStart a w
  let outs := List.zipWith (fun n (v : Int × Int) =>
    let p := promote v.1 w wa n
    let q := promote v.2 w wa p.1
    (q.1, p.2 || q.2)) start win.toList
  { acc := { mode := .log, ovf := a.ovf || convSat || sat || outs.any (·.2), wa := wa,
             vals := accVals (outs.map fun o => wrapN 64 o.1) },
    repeats := reps, satTile := sat, w := w, delta := win.map fun v => v.1 + v.2,
    matched := x.formed (if x2 then 0 else 3) w0 x.chunks }

/-- The multiply of a TMMA of tiles b and c (R202, R203): an operand that is no log tile takes the other's format, both
such count as L8. -/
def tmmaMul (b c : TView) (k3 : Bool) (fields : Array (Array (BitVec 16))) : LogMul × LogOp × LogOp :=
  let fb := b.opFmt.getD (c.opFmt.getD .l8)
  let fc := c.opFmt.getD (b.opFmt.getD .l8)
  let f := if fb.n = 8 ∧ fc.n = 8 then LogFmt.l8 else .l16
  let ob := b.logOp fb f
  let oc := c.logOp fc f
  ({ fmt := f, left := fun r p => ob.q.getD (32 * r + p) none, right := fun p c => oc.q.getD (32 * p + c) none,
     pos := fun _ _ => true, scale := ob.scale + oc.scale, k3 := k3, fields := fields }, ob, oc)

/-! ## The checksum check (R218) -/

/-- A value of the binary32 side path, or none once a value has saturated. -/
abbrev Side := Option Val

/-- Round to binary32 on the side path. -/
def side32 (x : Val) : Side :=
  let r := Ieee.b32.round x.exact
  if r.sat then none else some (Ieee.b32.read r.bits).val

/-- A rounded sum of a list, in ascending order. -/
def sideSum (xs : List Side) : Side :=
  xs.foldl (fun a x => a.bind fun a => x.bind fun x => side32 (a.add x)) (some {})

/-- A rounded product. -/
def sideMul (x y : Side) : Side := x.bind fun x => y.bind fun y => side32 (x.mul y)

/-- Does one line pass: |pred - actual| ≤ τ? None where a side-path value saturated. -/
def linePasses (pred m : Side) (actual : Val) (tau : Val → Val) : Option Bool := do
  let p ← pred
  let m ← m
  let a ← side32 actual
  return !((tau m).lt (p.add a.opp).abs)

/-- The check of R218 over all rows and columns: true when it passes or is skipped. `b` and `c` are the operands'
exact values, `d` the exact contributions, `tau` the tolerance from M. -/
def checkPasses (b c : Nat → Nat → Val) (d : Nat → Nat → Val) (tau : Val → Val) : Bool :=
  let ix := List.range 32
  let cs := (ix.map fun p => sideSum (ix.map fun j => some (c p j))).toArray
  let csA := (ix.map fun p => sideSum (ix.map fun j => some (c p j).abs)).toArray
  let bs := (ix.map fun p => sideSum (ix.map fun r => some (b r p))).toArray
  let bsA := (ix.map fun p => sideSum (ix.map fun r => some (b r p).abs)).toArray
  let rows := ix.map fun r =>
    linePasses (sideSum (ix.map fun p => sideMul (some (b r p)) (cs.getD p none)))
      (sideSum (ix.map fun p => sideMul (some (b r p).abs) (csA.getD p none)))
      (ix.foldl (fun a j => a.add (d r j)) {}) tau
  let cols := ix.map fun j =>
    linePasses (sideSum (ix.map fun p => sideMul (bs.getD p none) (some (c p j))))
      (sideSum (ix.map fun p => sideMul (bsA.getD p none) (some (c p j).abs)))
      (ix.foldl (fun a r => a.add (d r j)) {}) tau
  let all := rows ++ cols
  all.any (·.isNone) || all.all (· == some true)

/-- The tolerance of TMMA: 2^(w + 10) + 2^-12 × M. -/
def tauLog (w : Int) (m : Val) : Val := Val.add ⟨false, 1, w + 10⟩ { m with e := m.e - 12 }

/-- The tolerance of TMMA32 and TMMA64. -/
def tauIeee (m : Val) : Val := { m with e := m.e - 12 }

/-! ## What one multiply instruction computes -/

/-- The outcome of one execution of a multiply: the core with its new accumulator, tallies, repeats, window saturated,
and whether its check would pass. -/
structure MulRes where
  core : CoreSt
  tal : Tal
  repeats : Nat
  satTile : Bool
  passes : Bool
  matched : Nat := 0

/-- TMMA a[i] += b × c (R202 to R209), with faults `flt`. -/
def CoreSt.tmma (core : CoreSt) (i : Nat) (b c : TView) (fields : Array (Array (BitVec 16))) (flt : List (Nat × Int))
    (check : Bool) : MulRes :=
  let (mul, ob, oc) := tmmaMul b c core.bind.k3 fields
  let res := mul.run core.bind.x2 (firstW ob oc) (core.accSrc i) flt
  let passes :=
    !check || res.satTile ||
      (let zero : Val := {}
       let bv := if b.opFmt.isNone then (List.replicate 1024 zero).toArray else b.vals
       let cv := if c.opFmt.isNone then (List.replicate 1024 zero).toArray else c.vals
       checkPasses (fun r p => bv.getD (32 * r + p) zero) (fun p j => cv.getD (32 * p + j) zero)
         (fun r j => Val.ofInt (res.delta.getD (32 * r + j) 0) res.w) (tauLog res.w))
  { core := core.putAcc i res.acc, tal := tmmaReadTal b c, repeats := res.repeats, satTile := res.satTile,
    passes := passes, matched := res.matched }

/-- The values a TMMA32 starts from, rounded into F32 (R200). -/
def f32Start (a : Acc) : List Rounded :=
  match a.mode with
  | .f32 => a.nats.map fun x => { bits := x % 2 ^ 32 }
  | _ => a.values.map fun v => Ieee.b32.round v.exact

/-- The values a TMMA64 starts from, as binary64 (R200). -/
def f64Start (a : Acc) : List Rounded :=
  match a.mode with
  | .f64 => a.nats.map fun x => { bits := x }
  | _ => a.values.map fun v => Ieee.b64.round v.exact

/-- The tallies of a list of roundings. -/
def roundedTal (xs : List Rounded) : Tal := { sat := xs.countP (·.sat), unf := xs.countP (·.unf) }

/-- An operand of TMMA32 (R202): exact values, or zero with HEADER_INVALID for an invalid or binary64 tile. -/
def TView.op32 (t : TView) : Array Val × Tal :=
  if t.bad || t.fmt = .f64 then ((List.replicate 1024 {}).toArray, { hdr := 1024 }) else (t.vals, t.tal)

/-- The exact contraction of element (r, c). -/
def contract (b c : Array Val) (r j : Nat) : Val :=
  (List.range 32).foldl (fun a p => a.add ((b.getD (32 * r + p) {}).mul (c.getD (32 * p + j) {}))) {}

/-- TMMA32 (R211): one rounding of the exact sum. A fault adds units of 2^-149. -/
def CoreSt.tmma32 (core : CoreSt) (i : Nat) (b c : TView) (flt : List (Nat × Int)) (check : Bool) : MulRes :=
  let a := core.accSrc i
  let st := f32Start a
  let (bv, bt) := b.op32
  let (cv, ct) := c.op32
  let fault (e : Nat) : Val := Val.ofInt ((flt.filter (·.1 == e)).foldl (fun x f => x + f.2) 0) (-149)
  let d := ((List.range 1024).map fun e => (contract bv cv (e / 32) (e % 32)).add (fault e)).toArray
  let outs := (List.range 1024).zipWith (fun e (x : Rounded) =>
    Ieee.b32.round ((Ieee.b32.read x.bits).val.add (d.getD e {})).exact) st
  let acc : Acc := { mode := .f32, ovf := a.ovf || st.any (·.sat) || outs.any (·.sat), wa := 0,
                     vals := accVals (outs.map (·.bits)) }
  { core := core.putAcc i acc,
    tal := ((bt.plus ct).plus (if a.mode = .f32 then {} else roundedTal st)).plus (roundedTal outs),
    repeats := 0, satTile := false,
    passes := !check || checkPasses (fun r p => bv.getD (32 * r + p) {}) (fun p j => cv.getD (32 * p + j) {})
      (fun r j => d.getD (32 * r + j) {}) tauIeee }

/-- TMMA64 (R212): 32 fused multiply-adds in ascending p, each rounded. -/
def CoreSt.tmma64 (core : CoreSt) (b c : TView) (flt : List (Nat × Int)) (check : Bool) : MulRes :=
  let a := core.accSrc 0
  let st := f64Start a
  let bv := b.vals
  let cv := c.vals
  let fault (e : Nat) : Val := Val.ofInt ((flt.filter (·.1 == e)).foldl (fun x f => x + f.2) 0) (-149)
  let outs := (List.range 1024).zipWith (fun e (x : Rounded) =>
    let r := (List.range 32).foldl (fun (acc : Rounded × Tal) p =>
      let y := Ieee.b64.round (((Ieee.b64.read acc.1.bits).val.add
        ((bv.getD (32 * (e / 32) + p) {}).mul (cv.getD (32 * p + e % 32) {}))).exact)
      (y, acc.2.plus y.tal)) (x, {})
    let f := fault e
    if f.isZero then r else
      let y := Ieee.b64.round ((Ieee.b64.read r.1.bits).val.add f).exact
      (y, r.2)) st
  let tal := outs.foldl (fun t o => t.plus o.2) {}
  let d := ((List.range 1024).map fun e => (contract bv cv (e / 32) (e % 32)).add (fault e)).toArray
  let acc : Acc := { mode := .f64, ovf := a.ovf || st.any (·.sat) || decide (0 < tal.sat), wa := 0,
                     vals := accVals (outs.map (·.1.bits)) }
  { core := { core with a0 := acc, a1 := { mode := .f64, ovf := acc.ovf } },
    tal := (((b.tal).plus c.tal).plus (if a.mode = .f64 then {} else roundedTal st)).plus tal,
    repeats := 0, satTile := false,
    passes := !check || checkPasses (fun r p => bv.getD (32 * r + p) {}) (fun p j => cv.getD (32 * p + j) {})
      (fun r j => d.getD (32 * r + j) {}) tauIeee }

/-- SMGRAD (R247): adds Σ_p b[p][r] × c[p][c] at the positions; other elements keep their values, or become N = 0 of an
EMPTY accumulator. -/
def CoreSt.smgrad (core : CoreSt) (i : Nat) (b c : TView) (pos : Nat → Nat → Bool) (fields : Array (Array (BitVec 16))) :
    MulRes :=
  let (mul, ob, oc) := tmmaMul b c core.bind.k3 fields
  let mul := { mul with left := fun r p => ob.q.getD (32 * p + r) none, pos := pos, masked := true }
  let res := mul.run core.bind.x2 (firstW ob oc) (core.accSrc i) []
  { core := core.putAcc i res.acc, tal := tmmaReadTal b c, repeats := res.repeats, satTile := res.satTile, passes := true,
    matched := res.matched }

/-! ## TOUT and accumulator images -/

/-- The exact values TOUT forms (R213): a[i], fused with tile c when FLAGS is 1 or 2, and the tally of reading it. -/
def CoreSt.toutVals (core : CoreSt) (i flags cReg : Nat) : List ConvIn × Tal :=
  let vs := (core.accSrc i).values
  if flags = 0 then (vs.map fun v => { val := v }, {})
  else
    let t := core.view cReg
    let xs := t.vals.toList
    (List.zipWith (fun (v x : Val) => { val := if flags = 1 then v.add x else v.mul x }) vs xs, t.tal)

/-- The MODE code of an accumulator image (R215). -/
def AccMode.code : AccMode → Nat
  | .empty => 0 | .log => 1 | .f32 => 2 | .f64 => 3

/-- The accumulator image of TACC_ST (R215): 16 bytes of header, 1,024 elements of 8 bytes. -/
def CoreSt.accImage (core : CoreSt) (i : Nat) : List Byte :=
  let a := core.accSrc i
  leBytes 1 a.mode.code ++ leBytes 1 (b2n (core.acc i).ovf) ++
    leBytes 2 (if a.mode = .log then wrapN 16 a.wa else 0) ++ List.replicate 12 0 ++ a.nats.flatMap (leBytes 8)

/-- TACC_LD of an image (R215). Elements are read under R71, with its tallies. -/
def CoreSt.accLoad (core : CoreSt) (i : Nat) (bs : List Byte) : CoreSt × Tal :=
  let mode := leNat (bs.take 1)
  let ovf := bitAt (leNat ((bs.drop 1).take 1)) 0
  let wa := sgn 16 (leNat ((bs.drop 2).take 2))
  let els := splitLe 8 1024 (bs.drop 16)
  match mode with
  | 1 =>
    let xs := els.map fun x => clamp47 (sgn 64 x)
    (core.putAcc i { mode := .log, ovf := ovf || xs.any (·.2), wa := wa, vals := accVals (xs.map fun x => wrapN 64 x.1) }, {})
  | 2 =>
    let xs := els.map fun x => (Ieee.b32.read (x % 2 ^ 32), (x % 2 ^ 32))
    (core.putAcc i { mode := .f32, ovf := ovf, vals := accVals (xs.map fun x =>
        if x.1.nan then 0 else if x.1.inf then Ieee.b32.maxBits x.1.val.neg else x.2) },
      { special := xs.countP fun x => x.1.nan || x.1.inf })
  | 3 =>
    let xs := els.map fun x => (Ieee.b64.read x, x)
    ({ core with
        a0 := { mode := .f64, ovf := ovf, vals := accVals (xs.map fun x =>
          if x.1.nan then 0 else if x.1.inf then Ieee.b64.maxBits x.1.val.neg else x.2) },
        a1 := { mode := .f64, ovf := ovf } },
      { special := xs.countP fun x => x.1.nan || x.1.inf })
  | _ => (core.putAcc i { ovf := ovf }, {})

end Sys2Proof.Machine
end

