-- ==== Sys2Proof/Machine/Operands.lean ====
section
/-!
DEFINITION. Operand forms of core instructions: scalar registers, predicates, the local store (R174, R180, R198), and how
an instruction issues (R176 to R178, R196, R233); and how an access translates (R368 to R371).
-/
namespace Sys2Proof.Machine

/-! ## Scalar registers and predicates (R174) -/

/-- Scalar register i; s0 reads as zero. -/
def CoreSt.sreg (c : CoreSt) (i : Nat) : BitVec 64 := if i % 32 = 0 then 0 else Tab.get 0 c.s (i % 32)

/-- Write scalar register i; a write to s0 has no effect. -/
def CoreSt.setS (c : CoreSt) (i : Nat) (x : BitVec 64) : CoreSt :=
  if i % 32 = 0 then c else { c with s := Tab.put 0 c.s (i % 32) x }

/-- Predicate i; p0 reads as 1. -/
def CoreSt.pred (c : CoreSt) (i : Nat) : Bool := if i % 8 = 0 then true else c.p.getLsbD (i % 8)

/-- Write predicate i; a write to p0 has no effect. -/
def CoreSt.setP (c : CoreSt) (i : Nat) (b : Bool) : CoreSt :=
  if i % 8 = 0 then c
  else if b then { c with p := c.p ||| BitVec.ofNat 8 (2 ^ (i % 8)) }
  else { c with p := c.p &&& ~~~ BitVec.ofNat 8 (2 ^ (i % 8)) }

/-- IMM sign-extended to 64 bits. -/
def simm (f : CoreFields) : BitVec 64 := (BitVec.ofNat 32 f.imm).signExtend 64

/-! ## The local store (R180, R198) -/

/-- Bytes of the local store of core q from an offset on, wrapping modulo 32 KiB. -/
def Mach.lsBytes (m : Mach) (q off n : Nat) : List Byte :=
  let o := off % 2 ^ 15
  let k := min n (2 ^ 15 - o)
  m.peek (storeBase q + o) k ++ m.peek (storeBase q) (n - k)

/-- Read bytes of the local store; a granule that fails twice is a failed read of working data (R379). -/
def Mach.lsRead (m : Mach) (q off n : Nat) : List Byte × Mach :=
  let o := off % 2 ^ 15
  let k := min n (2 ^ 15 - o)
  let r := m.codeCheck .working (storeBase q + o) k
  let r' := r.1.codeCheck .working (storeBase q) (n - k)
  (m.delivers (storeBase q + o) k ++ m.delivers (storeBase q) (n - k), r'.1.onFail (r.2 || r'.2) (m.getCore q).bind.slot .working)

/-- Write bytes of the local store, wrapping modulo 32 KiB. -/
def Mach.lsWrite (m : Mach) (q off : Nat) (bs : List Byte) : Mach :=
  let o := off % 2 ^ 15
  let k := min bs.length (2 ^ 15 - o)
  let r := m.writeMem none .working (storeBase q + o) (bs.take k)
  let r' := r.2.writeMem none .working (storeBase q) (bs.drop k)
  r'.2.onFail (r.1 || r'.1) (m.getCore q).bind.slot .working

/-- Local-store offset of a u64: bits [14:3] of x (R180). -/
def off8 (x : BitVec 64) : Nat := x.toNat % 2 ^ 15 / 8 * 8

/-- Local-store offset of a vector: bits [1:0] ignored (R254). -/
def off4 (x : BitVec 64) : Nat := x.toNat % 2 ^ 15 / 4 * 4

/-! ## Issue (R176 to R178, R233) -/

/-- What an instruction uses that a routed TMMA may still hold: accumulators it reads or writes, tile registers it
writes. -/
structure Uses where
  accs : List Nat := []
  tiles : List Nat := []

/-- Does a routed TMMA of the core stall an instruction: it has not written an accumulator used, or it has not read a tile
register written (R233)? The halves of an F64 pair go together. -/
def Mach.hazard (m : Mach) (q : Nat) (u : Uses) : Bool :=
  let c := m.getCore q
  (m.getSpr (q / 16)).routed.any fun r =>
    r.core == q &&
      (u.accs.any (fun a => a % 2 == r.accIx || (c.acc a).isPair || (c.acc r.accIx).isPair) ||
        (!r.started && u.tiles.any fun t => t / 2 == r.tb / 2 || t / 2 == r.tc / 2))

/-- The core stalls at its instruction. -/
def Mach.stall (m : Mach) (q : Nat) : Mach :=
  m.modCore q fun c => { c with run := .stalled, since := if c.run = .stalled then c.since else m.now }

/-- The instruction has executed: execution goes on behind it. -/
def Mach.advance (m : Mach) (q : Nat) : Mach :=
  (m.modCore q fun c => { c with run := .running }.fallTo (c.pc.toNat + 1) m.now).retire q

/-- The instruction has executed: execution goes on at an instruction it names. -/
def Mach.jump (m : Mach) (q : Nat) (target : Int) : Mach :=
  (m.modCore q fun c => { c with run := .running }.branchTo target.toNat m.now).retire q

/-- The instruction has executed and the core waits in it. -/
def Mach.await (m : Mach) (q : Nat) (counter : BitVec 8) (target : BitVec 32) (drain : Bool) : Mach :=
  m.modCore q fun c =>
    { c with run := .waiting, waitCounter := counter, waitTarget := target, draining := drain, since := m.now }

/-- Is a context held: it is stopped, or it stops for a save and has come to its stop point, which is at once for class L and the next
phase boundary for class S (R440)? -/
def Mach.ctxHeld (m : Mach) (c : Nat) : Bool :=
  let x := m.getCtx c
  let begun := match x.job.bind m.job? with
    | some j => j.phaseBegun
    | none => false
  x.state == .stopped || (x.state == .stopping && ((x.desc.map (·.classL)).getD false || !begun))

/-- Does core q stand at this instruction, running or stalled at it? -/
def Mach.standsAt (m : Mach) (q : Nat) (w : Word) : Bool :=
  let c := m.getCore q
  m.aclkOn && m.clusterPresent (q / 16) && (c.run == .running || c.run == .stalled) && !c.passed && !m.ctxHeld c.bind.ctx &&
    c.ibuf[c.pc.toNat]? == some w

/-- Issue of an instruction word by core q (R176 to R178): only where the core stands at it; skipped when its predicate is
not met; stalled while a routed TMMA holds what it uses; otherwise its effect, which also says where execution goes on. -/
def Mach.issue (m : Mach) (q : Nat) (f : CoreFields) (cls op : Nat) (u : Uses) (eff : Mach → Mach) : Mach :=
  if !m.standsAt q (f.word cls op) then m
  else
    if (m.getCore q).pred f.pred == f.pneg then m.advance q
    else if m.hazard q u then m.stall q
    else eff m

/-- An instruction that changes only its core, and goes on behind it. -/
def Mach.simple (m : Mach) (q : Nat) (g : CoreSt → CoreSt) : Mach := (m.modCore q g).advance q

/-! ## Translation (R368 to R371) -/

/-- The kinds of access a region grants. -/
inductive Perm where
  | read | write | add
  deriving DecidableEq, Repr

/-- Does a region grant a kind of access? -/
def grants (r : Region) (p : Perm) : Bool :=
  match p with
  | .read => r.read
  | .write => r.write
  | .add => r.add

/-- Does an access change memory that is mapped read-only into the context (R107, R144, R328)? Then it does not translate (R371). -/
def Ctx.guarded (x : Ctx) (p : Perm) (n : Nat) (t : Nat × Nat) : Bool :=
  p != .read && x.guards.any fun g => g.1 == t.1 && decide (g.2.1 < t.2 + n) && decide (t.2 < g.2.1 + g.2.2)

/-- An access of n bytes at context address a: the module and the offset it lands on (R370). An access of no byte has
nothing to translate. -/
def Mach.xlate (m : Mach) (ctx : Nat) (p : Perm) (a n : Nat) : Option (Nat × Nat) :=
  if n = 0 then some (m.self, 0)
  else (((m.getCtx ctx).regions.find? fun r =>
    grants r p && decide (r.base ≤ a) && decide (a + n ≤ r.base + r.size)).map fun r =>
      (r.station / 8192, r.target + (a - r.base))).filter fun t => !(m.getCtx ctx).guarded p n t

/-- An access of n bytes at an offset of a station (R370). -/
def Mach.xlateGlobal (m : Mach) (ctx : Nat) (p : Perm) (station o n : Nat) : Option (Nat × Nat) :=
  if n = 0 then some (station / 8192, o)
  else (((m.getCtx ctx).regions.find? fun r =>
    grants r p && r.station == station && decide (r.target ≤ o) && decide (o + n ≤ r.target + r.size)).map fun r =>
      (r.station / 8192, o)).filter fun t => !(m.getCtx ctx).guarded p n t

end Sys2Proof.Machine
end

