-- ==== Sys2Proof/Machine/Remote.lean ====
section
/-!
DEFINITION. Memory of other modules: READ, WRITE and ADD_ACKED requests with their handles (R391), reads whose data an
engine gathers before it computes, and writes whose acknowledgements it counts.
-/
namespace Sys2Proof.Machine

/-! ## Requests -/

/-- The local part that an owner of reads sends from. -/
def Owner.unit : Owner → Nat
  | .core q _ => q / 16
  | .trv k _ => k
  | .gth k _ => k
  | .spr k _ => k
  | .gthStart k => k
  | .trvStart k => k
  | .sprStart k => k
  | .sprFwd k => k
  | .prefetch k => k
  | .upd die => 0x0800 + die
  | .planner _ => plnUnit
  | .cmt _ => cmtUnit

/-- Station that a request for an offset of a module is sent to (R393). -/
def stationOf (mod a : Nat) : Nat := mod * 8192 + unitOf a

/-- Send a READ (R391). -/
def Mach.sendRead (m : Mach) (l : Nat) (w : Cause) (mod a n h : Nat) : Mach :=
  m.send l { dst := stationOf mod a, src := 0, tc := 0, op := 0x01, job := w.job, domain := w.domain, tag := w.tag,
             addr := a, len := n, arg := h }

/-- The key of a write whose acknowledgement is awaited: a WRITE's handle, or the flow and SEQ of an ADD_ACKED, which
carries no handle. -/
def addKey (dst : Nat) (seq : BitVec 32) : Nat := 2 ^ 64 + dst * 2 ^ 32 + seq.toNat

/-- Send a WRITE of one piece; answers its key. -/
def Mach.sendWrite (m : Mach) (l : Nat) (w : Cause) (mod a : Nat) (bs : List Byte) : Nat × Mach :=
  let (h, m) := m.handle
  (h, m.send l { dst := stationOf mod a, src := 0, tc := 0, op := 0x02, job := w.job, domain := w.domain, tag := w.tag,
                 addr := a, ctr := Config.writeCounter.toNat, len := bs.length, arg := h, data := bs })

/-- Send an ADD_ACKED of one piece; answers its key. -/
def Mach.sendAdd (m : Mach) (l : Nat) (w : Cause) (mod a : Nat) (bs : List Byte) : Nat × Mach :=
  let dst := stationOf mod a
  let seq := Tab.get 0 m.flowSeq ((m.station l * 2 ^ 24 + dst) * 4)
  (addKey dst seq, m.send l { dst := dst, src := 0, tc := 0, op := 0x03, job := w.job, domain := w.domain, tag := w.tag,
                              addr := a, len := bs.length, arg := bs.length / 8, data := bs })

/-- Does an offset lie in a cluster's memory: its SRAM or a local store of it? -/
def inCluster (a : Nat) : Bool :=
  match tierOf a with
  | .sram _ _ => true
  | .store _ _ => true
  | _ => false

/-- A WRITE of n bytes from unit l to memory of this module has been applied: a cluster that it is remote from counts each of its packets
(R391). -/
def Mach.countWrites (m : Mach) (l a n : Nat) : Mach :=
  let k := unitOf a
  if n != 0 && inCluster a && m.clusterPresent k && k != l then
    m.closureAdd k Config.writeCounter.toNat (BitVec.ofNat 32 (pieces a n).length)
  else m

/-- Write bytes wherever they lie: on another module by WRITE packets; on this one the packets are sent, applied and acknowledged within the
step (DESIGN CHOICE: nothing between two units of a module is seen of them but what they do). Answers the keys still to be acknowledged. -/
def Mach.putBytes (m : Mach) (l : Nat) (w : Cause) (slot mod a : Nat) (bs : List Byte) : List Nat × Mach :=
  if mod = m.self then
    let r := m.writeMem (some w.domain) .working a bs
    ([], (r.2.onFail r.1 slot .working).countWrites l a bs.length)
  else
    (pieces a bs.length).foldl (fun (acc : List Nat × Mach) p =>
      let r := acc.2.sendWrite l w mod p.1 ((bs.drop (p.1 - a)).take p.2)
      (acc.1 ++ [r.1], r.2)) ([], m)

/-- The 8-byte words of a byte list. -/
def words8 (bs : List Byte) : List Nat := splitLe 8 (bs.length / 8) bs

/-- Apply RED64 contributions at consecutive words of this module's memory, and count them where the words are placed
reduction sums of a job (R76, R79, R374). -/
def Mach.addWords (m : Mach) (slot a : Nat) (ns : List Nat) : Mach :=
  let r := (List.range ns.length).foldl (fun (acc : Bool × Mach) i =>
    let x := acc.2.addWord .working (a + 8 * i) (ns.getD i 0)
    (acc.1 || x.1, x.2)) (false, m)
  let m := r.2.onFail r.1 slot .working
  match m.job? slot with
  | none => m
  | some j =>
    match j.placed.find? fun p => p.kind == 1 && decide (p.addrs.headD 0 ≤ a) &&
        decide (a + 8 * ns.length ≤ p.addrs.headD 0 + 8 * p.count) with
    | none => m
    | some p =>
      let w0 := p.first + (a - p.addrs.headD 0) / 8
      let count := (List.range ns.length).foldl (fun t i => Tab.upd 0 t (p.id * 2 ^ 41 + w0 + i) (· + 1)) j.denseCount
      let past := (List.range ns.length).any fun i => decide (65536 < Tab.get 0 count (p.id * 2 ^ 41 + w0 + i))
      let new := past && !j.rangeReduce.contains p.id
      let m := m.modJob slot fun j =>
        { j with denseCount := count, rangeReduce := if new then j.rangeReduce ++ [p.id] else j.rangeReduce }
      if new then m.abortCond slot 3 else m

/-- Apply contributions wherever they lie: at once on this module, by ADD_ACKED packets on another. -/
def Mach.putAdds (m : Mach) (l : Nat) (w : Cause) (slot mod a : Nat) (bs : List Byte) : List Nat × Mach :=
  if mod = m.self then ([], m.addWords slot a (words8 bs))
  else
    (pieces a bs.length).foldl (fun (acc : List Nat × Mach) p =>
      let r := acc.2.sendAdd l w mod p.1 ((bs.drop (p.1 - a)).take p.2)
      (acc.1 ++ [r.1], r.2)) ([], m)

/-! ## Reads that a computation gathers -/

/-- What a computation over memory carries: the module, for whom it reads, and the first access it found whose data has
not come. -/
structure RdSt where
  m : Mach
  owner : Owner
  dom : Option Nat
  miss : Option (Nat × Nat × Nat) := none

/-- A computation over memory of any module. -/
abbrev Rd (α : Type) := StateM RdSt α

/-- The pieces of an access for which an owner's data has come, in order; none where some piece has not. -/
def Mach.fetched (m : Mach) (o : Owner) (mod a n : Nat) : Option (List Byte × Bool) :=
  (pieces a n).foldl (fun acc p =>
    match acc with
    | none => none
    | some (bs, bad) =>
      match m.fetches.find? fun f => decide (f.owner = o) && f.module == mod && f.addr == p.1 && f.len == p.2 with
      | some f => match f.data with
        | some d => some (bs ++ d, bad || f.failed)
        | none => none
      | none => none) (some ([], false))

/-- Read n bytes of a module: the bytes, and whether a granule failed twice. Where the data of another module has not
come, the access is noted, and what follows is not used. -/
def rdBytes (mod a n : Nat) (kind : DataKind := .working) : Rd (List Byte × Bool) := fun s =>
  if s.miss.isSome || n = 0 then ((List.replicate n 0, false), s)
  else if mod = s.m.self then
    let r := s.m.readMem s.dom kind a n
    ((r.1, r.2.1), ({ s with m := r.2.2 } : RdSt))
  else
    match s.m.fetched s.owner mod a n with
    | some r => (r, s)
    | none => ((List.replicate n 0, false), ({ s with miss := some (mod, a, n) } : RdSt))

/-- Is every access so far answered? -/
def rdLive : Rd Bool := fun s => (s.miss.isNone, s)

/-- Change the module in the course of a computation. -/
def rdMod (g : Mach → Mach) : Rd Unit := fun s => ((), ({ s with m := g s.m } : RdSt))

/-- The module in the course of a computation. -/
def rdMach : Rd Mach := fun s => (s.m, s)

/-- The cluster whose row fetches an owner's reads hold, and its part of them: 0 traverse, 1 lookups, prefetches and scatter, 2
segment reads (R375). -/
def Owner.fetcher : Owner → Option (Nat × Nat)
  | .trv k _ => some (k, 0)
  | .trvStart k => some (k, 0)
  | .gth k _ => some (k, 1)
  | .gthStart k => some (k, 1)
  | .prefetch k => some (k, 1)
  | .spr k _ => some (k, 2)
  | .sprStart k => some (k, 2)
  | .sprFwd k => some (k, 2)
  | _ => none

/-- Row fetches of cluster k out for one part. -/
def Mach.fetchesOut (m : Mach) (k part : Nat) : Nat := m.fetches.countP fun f => f.owner.fetcher == some (k, part) && f.data.isNone

/-- Has the owner's cluster a free row fetch: the traverse engine holds at most 512, the rest share 512, of which segment reads
hold at most 256 (R101, R375)? -/
def Mach.mayFetch (m : Mach) (o : Owner) : Bool :=
  match o.fetcher with
  | none => true
  | some (k, 0) => decide (m.fetchesOut k 0 < 512)
  | some (k, part) =>
    decide (m.fetchesOut k 1 + m.fetchesOut k 2 < 512) && (part != 2 || decide (m.fetchesOut k 2 < 256))

/-- Send the READs of an access, one a piece, that are not out yet; at its bound the issuer stalls, and the rest goes out when it is
tried again (R375). -/
def Mach.startFetch (m : Mach) (o : Owner) (w : Cause) (mod a n : Nat) : Mach :=
  (pieces a n).foldl (fun m p =>
    if !m.mayFetch o || m.fetches.any fun f => decide (f.owner = o) && f.module == mod && f.addr == p.1 && f.len == p.2 then m
    else
      let (h, m) := m.handle
      let x : Fetch := { owner := o, handle := h, module := mod, addr := p.1, len := p.2 }
      { m with fetches := m.fetches ++ [x] }.sendRead o.unit w mod p.1 p.2 h) m

/-- Run a computation: its result and the module it leaves, the owner's gathered data used up; or, where data is missing,
the module with the READs sent and otherwise as it was. -/
def Mach.runRd {α : Type} (m : Mach) (o : Owner) (dom : Option Nat) (w : Cause) (x : Rd α) : Option α × Mach :=
  let r := x.run { m := m, owner := o, dom := dom }
  match r.2.miss with
  | none => (some r.1, { r.2.m with fetches := r.2.m.fetches.filter fun f => !decide (f.owner = o) })
  | some (mod, a, n) => (none, m.startFetch o w mod a n)

end Sys2Proof.Machine
end

