-- ==== Sys2Proof/Machine/Jobs.lean ====
section
/-!
DEFINITION. What the units read of a job: the module's own copy of its image (R339), the job a context or a cluster serves,
and what the plat places of it on this module (R337).
-/
namespace Sys2Proof.Machine

/-- Reader of a job's image copy. -/
def Mach.jobRd (m : Mach) (j : Job) : RdN := fun o n => m.peekNat (j.imageAt + o) n

/-- Header of a job's image. -/
def Mach.jobHdr (m : Mach) (j : Job) : ImgHdr := ImgHdr.ofRd (m.jobRd j)

/-- Job seed of a slot (R88). -/
def Mach.jobSeed (m : Mach) (slot : Nat) : BitVec 64 :=
  match m.job? slot with
  | some j => (m.jobHdr j).seed
  | none => 0

/-- The slot of the job that holds cluster k. -/
def Mach.slotOfCluster (m : Mach) (k : Nat) : Option Nat :=
  if (m.getClu k).assigned then m.slotOfJob (m.getClu k).job.toNat else none

/-- Reduction descriptor i of a job, with its exponent as raised so far (R327). -/
def Mach.reduceDesc (m : Mach) (j : Job) (i : Nat) : ReduceDesc :=
  ReduceDesc.ofRd (fun o n => m.peekNat (j.reduceBase.toNat + o) n) (32 * i)

/-- Does a block take up new work: it is present, enabled and not quiescing (R36), and no context of its cluster is held (R440)? -/
def Mach.takesWork (m : Mach) (ty inst : Nat) : Bool :=
  let h := m.getHdr (hdrKey ty inst)
  let held := match (clusterOfPage ty inst).bind m.slotOfCluster |>.bind m.job? with
    | some j => m.ctxHeld j.ctx
    | none => false
  (m.aclkOn || ty == tyUpd) && !m.instFenced ty inst && h.enable && !h.quiesce && !held

/-- Whom an engine's packets are sent for: the job and domain of the submitter and a step tag. -/
def Mach.causeTag (m : Mach) (slot : Nat) (tag : BitVec 16) : Cause := { m.causeOf slot with tag := tag }

/-- Domain of a job slot. -/
def Mach.domOfSlot (m : Mach) (slot : Nat) : Option Nat := (m.job? slot).map (·.domain)

/-- Bytes of a write that crosses the fabric or is made at once; the keys still to be acknowledged come first. -/
def putAll (m : Mach) (l : Nat) (w : Cause) (slot : Nat) (parts : List (Nat × Nat × List Byte)) : List Nat × Mach :=
  parts.foldl (fun (acc : List Nat × Mach) p =>
    let r := acc.2.putBytes l w slot p.1 p.2.1 p.2.2
    (acc.1 ++ r.1, r.2)) ([], m)

/-- Who submitted a descriptor on core q. -/
def Mach.originOf (m : Mach) (q : Nat) (tag : BitVec 16) : Origin :=
  let c := m.getCore q
  { core := q, ctx := c.bind.ctx, slot := c.bind.slot, tag := tag }

end Sys2Proof.Machine
end

