-- ==== Sys2Proof/Machine/Tables.lean ====
section
/-!
DEFINITION. Embedding tables (R137 to R141, R153): descriptors, shards, directory entries, the working value of a row and
the popularity sketch.
-/
namespace Sys2Proof.Machine

/-! ## Descriptors (R137) -/

/-- The fields of a table descriptor (R137). `zeros` holds when every reserved bit is zero. -/
structure TableDesc where
  id : Nat
  version : Nat
  width : Nat
  shardShift : Nat
  frozen : Bool
  rows : Nat
  shardMap : Nat
  shardStation : Nat
  shardCount : Nat
  sketch : Nat
  sketchStation : Nat
  sketchLog : Nat
  hot : Nat
  warm : Nat
  stakeInterval : Nat
  sketchHalve : Nat
  poolExp : Int
  gradExp : Int
  defaultClass : Nat
  siteShift : Nat
  zeros : Bool
  deriving DecidableEq, Repr

/-- The table descriptor that 64 bytes spell. -/
def TableDesc.ofBytes (bs : List Byte) : TableDesc :=
  let n (o k : Nat) : Nat := leNat ((bs.drop o).take k)
  { id := n 0 2 % 4096, version := n 2 2, width := n 4 2 % 8192, shardShift := n 6 1, frozen := bitAt (n 7 1) 0,
    rows := n 8 8 % 2 ^ 41, shardMap := n 0x10 8 % 2 ^ 48, shardStation := n 0x18 4 % 2 ^ 24, shardCount := n 0x1C 4,
    sketch := n 0x20 8 % 2 ^ 48, sketchStation := n 0x28 4 % 2 ^ 24, sketchLog := n 0x28 4 / 2 ^ 24, hot := n 0x2C 4,
    warm := n 0x30 4, stakeInterval := n 0x34 2, sketchHalve := n 0x36 2, poolExp := sgn 16 (n 0x38 2),
    gradExp := sgn 16 (n 0x3A 2), defaultClass := n 0x3C 1 % 4, siteShift := n 0x3D 1,
    zeros := n 0 2 / 4096 == 0 && n 4 2 / 8192 == 0 && n 7 1 / 2 == 0 && n 8 8 / 2 ^ 41 == 0 && n 0x10 8 / 2 ^ 48 == 0 &&
      n 0x18 4 / 2 ^ 24 == 0 && n 0x20 8 / 2 ^ 48 == 0 && n 0x3C 1 / 4 == 0 && n 0x3E 2 == 0 }

/-- Is WIDTH in its range? -/
def TableDesc.widthOk (d : TableDesc) : Bool := d.width != 0 && decide (d.width ≤ 4096)

/-- Does the descriptor of table t break reason 2 of R171? -/
def TableDesc.bad (d : TableDesc) (t : Nat) : Bool :=
  !d.zeros || d.id != t || d.rows == 0 || decide (2 ^ 40 < d.rows) || !d.widthOk || decide (d.shardShift < 12) ||
    decide (32 < d.shardShift) || decide (d.sketchLog < 10) || decide (24 < d.sketchLog) || decide (d.siteShift < 8) ||
    decide (d.shardShift < d.siteShift) || d.shardCount != ceilDiv d.rows (2 ^ d.shardShift)

/-- Bytes between master rows (R139). -/
def TableDesc.pitch (d : TableDesc) : Nat := 64 * ceilDiv (4 * d.width) 64

/-- The selected slot of a table id (R142). -/
def Job.selected (j : Job) (t : Nat) : Nat := Tab.get 0 j.selects t

/-- Context address of slot k of table t (R137). -/
def slotAddr (base t k : Nat) : Nat := base + 128 * t + 64 * k

/-! ## Shards and rows (R139, R140) -/

/-- An entry of a shard map (R139). -/
structure Shard where
  module : Nat
  master : Nat
  state : Nat
  directory : Nat
  gradpool : Nat
  deriving DecidableEq, Repr

/-- The shard map entry that 32 bytes spell. -/
def Shard.ofBytes (bs : List Byte) : Shard :=
  let w := leNat bs
  { module := fld w 232 24 / 8192, master := fld w 160 48, state := fld w 112 48, directory := fld w 64 48,
    gradpool := fld w 0 48 }

/-- Address of the shard map entry of row x. -/
def TableDesc.shardAt (d : TableDesc) (x : Nat) : Nat × Nat :=
  (d.shardStation / 8192, d.shardMap + 32 * (x / 2 ^ d.shardShift))

/-- Index of row x within its shard. -/
def TableDesc.inShard (d : TableDesc) (x : Nat) : Nat := x % 2 ^ d.shardShift

/-- Master row x of a shard. -/
def TableDesc.masterAt (d : TableDesc) (s : Shard) (x : Nat) : Nat := s.master + d.inShard x * d.pitch

/-- Directory entry of row x of a shard. -/
def TableDesc.dirAt (d : TableDesc) (s : Shard) (x : Nat) : Nat := s.directory + 8 * d.inShard x

/-- A directory entry (R140). -/
structure DirEntry where
  tomb : Bool
  cls : Nat
  resident : Bool
  staked : Bool
  near : Nat
  deriving DecidableEq, Repr

/-- The directory entry that a word spells. -/
def DirEntry.ofNat (w : Nat) : DirEntry :=
  { tomb := bitAt w 63, cls := fld w 61 2, resident := bitAt w 60, staked := bitAt w 59, near := fld w 0 48 }

/-- The word of a directory entry. -/
def DirEntry.toNat (e : DirEntry) : Nat :=
  b2n e.tomb * 2 ^ 63 + e.cls % 4 * 2 ^ 61 + b2n e.resident * 2 ^ 60 + b2n e.staked * 2 ^ 59 + e.near % 2 ^ 48

/-! ## Working values (R141) -/

/-- The element format of a class. -/
def classFmt (cls : Nat) : Fmt := if cls = 0 then .l16 else if cls = 1 then .l8 else .l4

/-- Bytes of a working copy of a class (R141). -/
def copyBytes (cls width : Nat) : Nat := 64 * ceilDiv (8 + ceilDiv (width * (classFmt cls).bits) 8) 64

/-- A row in working form: format, scale, amax code and element patterns, and the tallies of its conversion. -/
structure WorkRow where
  fmt : Fmt
  scale : Int
  amax : Nat
  elems : List Nat
  tal : Tal
  deriving DecidableEq, Repr

/-- The working form of a master row (R141). -/
def workRow (cls : Nat) (master : List Nat) : WorkRow :=
  let f := classFmt cls
  let ins := master.map fun x => Fmt.readConv .f32 x 0
  let amax := ins.foldl (fun a x => max a x.1.amax) 0
  let s := match f.log? with
    | some l => scaleFromAmax l amax 0
    | none => 0
  let outs := ins.map fun x => convOne f s .nearest x.1
  let tal := ins.foldl (fun (a : Tal) x => a.plus x.2) {}
  { fmt := f, scale := s, amax := amax, elems := outs.map (·.bits),
    tal := tal.plus { sat := outs.countP (·.sat), unf := outs.countP (·.unf) } }

/-- Pack element patterns as a tile row packs them (R57). -/
def packElems (f : Fmt) (xs : List Nat) : List Byte :=
  match f with
  | .l4 =>
    let a := xs.toArray
    (List.range (ceilDiv xs.length 2)).map fun i => BitVec.ofNat 8 (a.getD (2 * i) 0 % 16 + 16 * (a.getD (2 * i + 1) 0 % 16))
  | _ => xs.flatMap (leBytes (f.bits / 8))

/-- Unpack n element patterns. -/
def unpackElems (f : Fmt) (n : Nat) (bs : List Byte) : List Nat :=
  match f with
  | .l4 => ((bs.take (ceilDiv n 2)).flatMap l4Pair).take n
  | _ => splitLe (f.bits / 8) n bs

/-- The bytes of a working copy (R141). -/
def WorkRow.bytes (r : WorkRow) (cls : Nat) : List Byte :=
  let hdr := r.fmt.toCode * 2 ^ 60 + wrapN 8 r.scale * 2 ^ 48 + r.amax
  let body := leBytes 8 hdr ++ packElems r.fmt r.elems
  body ++ List.replicate (copyBytes cls r.elems.length - body.length) 0

/-- The decoded values of a row in working form (R60, R147). -/
def WorkRow.vals (r : WorkRow) : List Val := r.elems.map fun x => (r.fmt.read x r.scale).1

/-- The working form that a copy of a class holds, or none when its header's FORMAT does not match the class (R152). -/
def copyRow (cls width : Nat) (bs : List Byte) : Option WorkRow :=
  let h := TileHdr.ofWord (leNat (bs.take 8))
  let f := classFmt cls
  if h.format = f.toCode then
    some { fmt := f, scale := h.scale, amax := h.amax, elems := unpackElems f width (bs.drop 8), tal := {} }
  else none

/-! ## The popularity sketch (R153) -/

/-- The bucket of row x in sketch row j (R153). -/
def sketchBucket (x j log : Nat) : Nat :=
  (mix64 (BitVec.ofNat 64 x ^^^ BitVec.ofNat 64 ((j + 1) * 0x9E3779B97F4A7C15))).toNat / 2 ^ (64 - log)

/-- Offsets of the four counters of row x within the sketch. -/
def sketchOffsets (x log : Nat) : List Nat := (List.range 4).map fun j => 4 * (j * 2 ^ log + sketchBucket x j log)

/-! ## Reading tables -/

/-- What reading a selected descriptor gives: the descriptor where it is sound, its WIDTH where that is readable and in
range, the reason otherwise, and whether the read failed twice. -/
structure TableRead where
  desc : Option TableDesc := none
  width : Option Nat := none
  reason : Nat := 0
  failed : Bool := false

/-- Read the selected descriptor of the table that a TABLE_ID field names (R142, R171). -/
def readTable (j : Job) (slots ctx field : Nat) : Rd TableRead := do
  let m := (← get).m
  if 4096 ≤ field then return { reason := 2 }
  else
    match m.xlate ctx .read (slotAddr slots field (j.selected field)) 64 with
    | none => return { reason := 1 }
    | some p =>
      let r ← rdBytes p.1 p.2 64 .committed
      let d := TableDesc.ofBytes r.1
      if r.2 then return { reason := 2, failed := true }
      else if d.bad field then return { reason := 2, width := if d.widthOk then some d.width else none }
      else return { desc := some d, width := some d.width }

end Sys2Proof.Machine
end

