-- ==== Sys2Proof/Machine/Guards.lean ====
section
/-!
DEFINITION. Graphs as their descriptors give them (R102 to R104), and the memory that is mapped read-only into a job's context: its
graphs (R107), its selected table slots (R144) and its reduction descriptors (R328).
-/
namespace Sys2Proof.Machine

/-! ## Graphs (R102 to R104) -/

/-- A graph descriptor (R102). -/
structure Graph where
  flags : Nat
  shift : Nat
  nodes : Nat
  pmapAt : Nat
  pmapStation : Nat
  parcels : Nat
  deriving DecidableEq, Repr

/-- The graph descriptor that 64 bytes spell. Of its reserved bytes only the reserved FLAGS are looked at: R109 names no refusal for the
others (DESIGN CHOICE). -/
def Graph.ofBytes (bs : List Byte) : Graph :=
  let n (o k : Nat) : Nat := leNat ((bs.drop o).take k)
  { flags := n 2 2, shift := n 4 1, nodes := n 8 8, pmapAt := n 0x18 8 % 2 ^ 48, pmapStation := n 0x20 4 % 2 ^ 24,
    parcels := n 0x24 4 }

/-- ID48 -/ def Graph.id48 (g : Graph) : Bool := bitAt g.flags 0
/-- WEIGHT -/ def Graph.weight (g : Graph) : Bool := bitAt g.flags 1
/-- WEIGHT_F32 -/ def Graph.f32 (g : Graph) : Bool := bitAt g.flags 2
/-- ALIAS -/ def Graph.aliasT (g : Graph) : Bool := bitAt g.flags 3
/-- PREFIX -/ def Graph.prefixT (g : Graph) : Bool := bitAt g.flags 4
/-- TIMESTAMP -/ def Graph.timestamp (g : Graph) : Bool := bitAt g.flags 5
/-- ETYPE -/ def Graph.etype (g : Graph) : Bool := bitAt g.flags 6
/-- SORTED_ID -/ def Graph.sortedId (g : Graph) : Bool := bitAt g.flags 7
/-- SORTED_TS -/ def Graph.sortedTs (g : Graph) : Bool := bitAt g.flags 8
/-- SORTED_WEIGHT -/ def Graph.sortedWeight (g : Graph) : Bool := bitAt g.flags 9

/-- Bytes of a weight. -/
def Graph.weightBytes (g : Graph) : Nat := if g.f32 then 4 else 2
/-- Bytes of a neighbour id. -/
def Graph.idBytes (g : Graph) : Nat := if g.id48 then 8 else 4

/-- The next multiple of 64. -/
def align64 (n : Nat) : Nat := (n + 63) / 64 * 64

/-- A parcel: the station of its arrays, its first row offset and its edge arrays (R103), and how many row offsets it has (R104). -/
structure Parcel where
  station : Nat
  offsets : Nat
  edges : Nat
  rows : Nat

/-- The parcel that entry w of the map gives for parcel p of a graph. -/
def Graph.parcelOf (g : Graph) (p w : Nat) : Parcel :=
  let first := p * 2 ^ g.shift
  { station := fld w 104 24, offsets := fld w 48 48, edges := fld w 0 48,
    rows := min (first + 2 ^ g.shift - 1) (g.nodes - 1) - first + 2 }

/-- The present arrays of a parcel of m edges, in their order: first byte and bytes of an element (R104). -/
def Graph.arrays (g : Graph) (at' m : Nat) : List (Nat × Nat) :=
  let next (acc : List (Nat × Nat) × Nat) (x : Bool × Nat) : List (Nat × Nat) × Nat :=
    if x.1 then (acc.1 ++ [(align64 acc.2, x.2)], align64 acc.2 + m * x.2) else (acc.1 ++ [(acc.2, 0)], acc.2)
  ([(g.weight, g.weightBytes), (g.aliasT, 8), (g.prefixT, 8), (g.timestamp, 8), (g.etype, 1)].foldl next
    ([(at', g.idBytes)], at' + m * g.idBytes)).1

/-! ## What is mapped read-only -/

/-- Memory of one module: module, offset, bytes. -/
abbrev Range := Nat × Nat × Nat

/-- The ranges of one parcel. What its row offsets on another module say of its arrays' length is left open. -/
def Mach.parcelRanges (m : Mach) (g : Graph) (p : Parcel) : List Range :=
  let mod := p.station / 8192
  (mod, p.offsets, 8 * p.rows) ::
    (if mod = m.self then
      let edges := (m.peekNat (p.offsets + 8 * (p.rows - 1)) 8 + 2 ^ 64 - m.peekNat p.offsets 8) % 2 ^ 64
      (g.arrays p.edges edges).map fun a => (mod, a.1, edges * a.2)
    else Config.rangesElsewhere mod p.offsets)

/-- The ranges of the graph whose descriptor lies at an offset of a module: descriptor, parcel map, parcel arrays (R107). What a
descriptor or a map of another module names is left open. -/
def Mach.graphRanges (m : Mach) (x : Nat × Nat) : List Range :=
  (x.1, x.2, 64) ::
    (if x.1 = m.self then
      let g := Graph.ofBytes (m.peek x.2 64)
      let mod := g.pmapStation / 8192
      (mod, g.pmapAt, 16 * g.parcels) ::
        (if mod = m.self then
          (List.range g.parcels).flatMap fun p => m.parcelRanges g (g.parcelOf p (m.peekNat (g.pmapAt + 16 * p) 16))
        else Config.rangesElsewhere mod g.pmapAt)
    else Config.rangesElsewhere x.1 x.2)

/-- The TABLE_SLOTS address of a job (R339). -/
def Mach.tableSlots (m : Mach) (j : Job) : Nat := (m.jobHdr j).tableSlots

/-- The ranges of a table whose selected slot is sound: descriptor, shard map, directories, sketch (R144). -/
def Mach.tableRanges (m : Mach) (t mod a : Nat) : List Range :=
  (mod, a, 64) ::
    (if mod = m.self then
      let d := TableDesc.ofBytes (m.peek a 64)
      if d.bad t then []
      else
        let sm := d.shardStation / 8192
        [(sm, d.shardMap, 32 * d.shardCount), (d.sketchStation / 8192, d.sketch, 16 * 2 ^ d.sketchLog)] ++
          (if sm = m.self then
            (List.range d.shardCount).map fun i =>
              let s := Shard.ofBytes (m.peek (d.shardMap + 32 * i) 32)
              (s.module, s.directory, 8 * min (2 ^ d.shardShift) (d.rows - i * 2 ^ d.shardShift))
          else Config.rangesElsewhere sm d.shardMap)
    else Config.rangesElsewhere mod a)

/-- Copies of moved parcels that batches of a job on this module still read (R106). -/
def Mach.copiesInUse (m : Mach) (slot : Nat) : List Range :=
  m.trv.flatMap fun e => (e.2.work.filter fun w => w.desc.org.slot == slot).flatMap (·.oldCopies)

/-- All that a job's context may not write, whatever its regions grant (R106, R107, R144, R328). -/
def Mach.guardsOf (m : Mach) (slot : Nat) (j : Job) : List Range :=
  let slots := m.tableSlots j
  m.copiesInUse slot ++ (m.self, j.reduceBase.toNat, 32 * j.reduceCount.toNat) ::
    ((if slots = 0 then []
      else (List.range 4096).flatMap fun t =>
        match m.xlate j.ctx .read (slotAddr slots t (j.selected t)) 64 with
        | some p => m.tableRanges t p.1 p.2
        | none => []) ++ j.graphs.flatMap m.graphRanges)

/-- Map them read-only into the context of the job in a slot. -/
def Mach.setGuards (m : Mach) (slot : Nat) : Mach :=
  match m.job? slot with
  | some j => m.modCtx j.ctx fun x => { x with guards := m.guardsOf slot j }
  | none => m

end Sys2Proof.Machine
end

