-- ==== Sys2Proof/Machine/Traverse.lean ====
section
/-!
DEFINITION. The traverse engine (R101 to R136): batch descriptors, the graph as its parcels hold it, the sampling modes,
the numbering of nodes and the block. TRV_SUBMIT, BATCH_START and BATCH_COMPLETE are the commands. A batch is sampled
whole when it completes (DESIGN CHOICE: R111 makes the block independent of when its reads are made).
-/
namespace Sys2Proof.Machine

/-! ## Descriptors (R102, R108) -/

/-- The hop spec that 16 bytes spell (R108). -/
def HopSpec.ofBytes (bs : List Byte) : HopSpec :=
  let n (o k : Nat) : Nat := leNat ((bs.drop o).take k)
  { fanout := n 0 2, mode := n 2 1, edgeData := n 3 1, restartP := n 4 2, walkLen := n 6 2, returnW := n 8 2,
    inoutW := n 10 2, topk := n 12 2, reserved := n 14 2 }

/-- The batch descriptor that 128 bytes spell (R108); hop specs at or beyond HOPS are ignored. -/
def BatchDesc.ofBytes (org : Origin) (bs : List Byte) : BatchDesc :=
  let n (o k : Nat) : Nat := leNat ((bs.drop o).take k)
  let counts := n 0x3C 4
  let hops := fld counts 17 3
  let specs := (List.range (min hops 4)).map fun h => HopSpec.ofBytes ((bs.drop (0x40 + 16 * h)).take 16)
  { org := org, graph := n 0 8 % 2 ^ 48, batch := BitVec.ofNat 64 (n 8 8), step := BitVec.ofNat 64 (n 0x10 8),
    seeds := n 0x18 8 % 2 ^ 48, block := n 0x20 8 % 2 ^ 48, pages := n 0x20 8 / 2 ^ 48, queryTime := n 0x28 8,
    window := n 0x30 8, stream := BitVec.ofNat 32 (n 0x38 4), closure := fld counts 20 8, hops := hops,
    seedCount := fld counts 0 17, specs := specs,
    bad := n 0 8 / 2 ^ 48 != 0 || n 0x18 8 / 2 ^ 48 != 0 || counts / 2 ^ 28 != 0 ||
      specs.any fun s => s.edgeData / 8 != 0 || s.reserved != 0 }

/-! ## The check of a batch (R109, R127) -/

/-- Reason 2: the graph descriptor breaks R102. -/
def Graph.bad (g : Graph) : Bool :=
  let parcels := ceilDiv g.nodes (2 ^ g.shift)
  g.flags / 2 ^ 10 != 0 || decide (g.shift < 16) || decide (32 < g.shift) || g.nodes == 0 ||
    decide ((if g.id48 then 2 ^ 48 else 2 ^ 32) < g.nodes) || decide (0xFFFFFFFF < parcels) || g.parcels != parcels

/-- Is a mode a walk (R120, R121)? -/
def isWalk (mode : Nat) : Bool := mode == 6 || mode == 7

/-- Reason 3: HOPS, SEED_COUNT or FANOUT out of range, or a reserved bit set. -/
def BatchDesc.shapeBad (d : BatchDesc) : Bool :=
  d.hops == 0 || decide (4 < d.hops) || d.seedCount == 0 || decide (65536 < d.seedCount) || d.bad ||
    d.specs.any fun s => s.fanout == 0 || decide (1024 < s.fanout)

/-- Reason 4: a reserved mode, a walk elsewhere than in a single hop 0, WALK_LEN or TOPK out of range, or too long a walk
(R122). -/
def BatchDesc.modeBad (d : BatchDesc) : Bool :=
  d.specs.any fun s => decide (7 < s.mode) ||
    (isWalk s.mode && (d.hops != 1 || s.walkLen == 0 || decide (64 < s.walkLen) || s.topk == 0 || decide (1024 < s.topk) ||
      decide (65536 < s.fanout * s.walkLen)))

/-- Reason 5: the mode or EDGE_DATA needs an array or order the graph lacks (R112). -/
def BatchDesc.requiresBad (d : BatchDesc) (g : Graph) : Bool :=
  d.specs.any fun s =>
    (match s.mode with
     | 2 => !(g.weight || g.aliasT || g.prefixT)
     | 3 => !g.weight
     | 4 => !(g.timestamp && g.sortedTs)
     | 5 => !(g.timestamp && g.sortedTs)
     | 7 => !g.sortedId
     | _ => false) ||
    (bitAt s.edgeData 0 && !g.weight) || (bitAt s.edgeData 1 && !g.etype) || (bitAt s.edgeData 2 && !g.timestamp)

/-- Sizes of the arrays of a hop of N_h nodes, E edges and N_{h+1} nodes (R128). -/
def hopSizes (g : Graph) (s : HopSpec) (n e n' : Nat) : List Nat :=
  [4 * (n + 1), 4 * e] ++ (if bitAt s.edgeData 0 then [g.weightBytes * e] else []) ++
    (if bitAt s.edgeData 1 then [e] else []) ++ (if bitAt s.edgeData 2 then [8 * e] else []) ++
    (if isWalk s.mode then [4 * e] else []) ++ [4 * (n' + 1), 8 * e]

/-- End of arrays laid one after another, each at the next multiple of 64 (R128). -/
def blockEnd (sizes : List Nat) : Nat := sizes.foldl (fun at' n => align64 at' + n) 64

/-- The worst-case lists and edges of R127: W_0 to W_HOPS and the edge bounds. -/
def worstCase (d : BatchDesc) : List Nat × List Nat :=
  d.specs.foldl (fun (acc : List Nat × List Nat) s =>
    let w := acc.1.getLastD 0
    let e := w * (if isWalk s.mode then s.topk else s.fanout)
    (acc.1 ++ [w + e], acc.2 ++ [e])) ([d.seedCount], [])

/-- Reason 6: an edge bound above 2^24, or a block larger than BLOCK_PAGES. -/
def BatchDesc.sizeBad (d : BatchDesc) (g : Graph) : Bool :=
  let (ws, es) := worstCase d
  let hopArrays := (List.range d.specs.length).flatMap fun h =>
    match d.specs[h]? with
    | some s => hopSizes g s (ws.getD h 0) (es.getD h 0) (ws.getD (h + 1) 0)
    | none => []
  let exceptions := 16 * (4 * (ws.take d.specs.length).foldl (· + ·) 0)
  es.any (fun e => decide (2 ^ 24 < e)) ||
    decide (d.pages * 4096 < blockEnd ([4 * d.seedCount, 8 * ws.getLastD 0] ++ hopArrays ++ [exceptions]))

/-! ## Sampling: what it carries -/

/-- An exception so far: hop, local id of the node sampled from, reason, and the node; its count. -/
structure TrvExc where
  hop : Nat
  local' : Nat
  reason : Nat
  node : Nat
  count : Nat
  deriving DecidableEq, Repr

/-- A parcel with the global indices of its first edge and of the edge behind its last. -/
structure ParcelHead where
  parcel : Parcel
  off0 : Nat
  offEnd : Nat

/-- A batch in the making: draw words, row fetches, a read that failed twice, an array that does not translate, exceptions, the parcels
whose heads have been read (DEDUCED from R124: once a batch, as a node's cost has room for its own reads alone), and whether the last
element that a search of a row turned left at was the one sought. -/
structure TrSt where
  draws : Nat := 0
  reads : Nat := 0
  failed : Bool := false
  blocked : Bool := false
  exc : List TrvExc := []
  heads : List (Nat × ParcelHead) := []
  hit : Bool := false

/-- A computation of the traverse engine. -/
abbrev Tr (α : Type) := StateT TrSt Rd α

/-- What the draws of a batch are keyed by and the graph they are made from. -/
structure TrEnv where
  g : Graph
  d : BatchDesc
  seed : BitVec 64
  pmapModule : Nat
  oldMap : List (Nat × Nat × Nat) := []

/-- Count n row fetches. -/
def trReads (n : Nat) : Tr Unit := modify fun s => { s with reads := s.reads + n }

/-- Read bytes of the graph; a second failed read marks the batch (R131). -/
def trBytes (mod a n : Nat) : Tr (List Byte) := do
  let r ← (rdBytes mod (a % 2 ^ 48) n : Rd (List Byte × Bool))
  modify fun s => { s with failed := s.failed || r.2 }
  return r.1

/-- Read a number of the graph. -/
def trNum (mod a w : Nat) : Tr Nat := do return leNat (← trBytes mod a w)

/-- The draw word W(hop, node, slot, t) (R110). -/
def TrEnv.draw (e : TrEnv) (hop node slot t : Nat) : Tr Nat := do
  modify fun s => { s with draws := s.draws + 1 }
  return (hashH e.seed [3, e.d.stream.setWidth 64, e.d.batch, BitVec.ofNat 64 hop, BitVec.ofNat 64 node,
    BitVec.ofNat 64 slot, BitVec.ofNat 64 t]).toNat

/-- mulhi(u, n) (R110). -/
def mulhi (u n : Nat) : Nat := u * n / 2 ^ 64

/-- Record n slots, walks or attempts affected, at one entry for each hop, node and reason (R129). -/
def trExc (hop local' reason node n : Nat) : Tr Unit := modify fun s =>
  if n = 0 then s
  else if s.exc.any fun x => x.hop == hop && x.local' == local' && x.reason == reason then
    { s with exc := s.exc.map fun x =>
        if x.hop = hop ∧ x.local' = local' ∧ x.reason = reason then { x with count := x.count + n } else x }
  else { s with exc := s.exc ++ [{ hop := hop, local' := local', reason := reason, node := node, count := n }] }

/-! ## Rows of the graph (R103 to R105) -/

/-- An array of a parcel: station, first byte, bytes. -/
structure GArr where
  station : Nat
  base : Nat
  len : Nat

/-- Bytes of an array of the graph. The unit of access is the whole array: where it does not translate nothing of it is read, and the batch
is refused with ADDRESS (R370, R371; DEDUCED: R109 names the reason, and an engine comes to a parcel only as it samples). -/
def TrEnv.arrBytes (e : TrEnv) (x : GArr) (o n : Nat) : Tr (List Byte) := do
  let m ← (rdMach : Rd Mach)
  match m.xlateGlobal e.d.org.ctx .read x.station x.base x.len with
  | some _ => trBytes (x.station / 8192) (x.base + o) n
  | none =>
    modify fun s => { s with blocked := true }
    return List.replicate n 0

/-- A number of an array of the graph. -/
def TrEnv.arrNum (e : TrEnv) (x : GArr) (o w : Nat) : Tr Nat := do return leNat (← e.arrBytes x o w)

/-- The row offsets of a parcel. -/
def Parcel.offsetArr (p : Parcel) : GArr := { station := p.station, base := p.offsets, len := 8 * p.rows }

/-- Parcel p, through the map that was in force when the batch started (R103, R106). -/
def TrEnv.head (e : TrEnv) (p : Nat) : Tr ParcelHead := do
  match (← get).heads.find? fun x => x.1 == p with
  | some x => return x.2
  | none =>
    let at' := e.g.pmapAt + 16 * p
    let w ← match e.oldMap.find? fun x => x.1 == e.pmapModule && x.2.1 == at' with
      | some x => pure x.2.2
      | none => trNum e.pmapModule at' 16
    let c := e.g.parcelOf p w
    let off0 ← e.arrNum c.offsetArr 0 8
    let offEnd ← e.arrNum c.offsetArr (8 * (c.rows - 1)) 8
    let h : ParcelHead := { parcel := c, off0 := off0, offEnd := offEnd }
    modify fun s => { s with heads := s.heads ++ [(p, h)] }
    return h

/-- A node's row: the arrays of its parcel, its first position in them, its degree; `bad` when its offsets are invalid. -/
structure Row where
  ids : GArr
  weights : GArr
  aliasT : GArr
  prefixT : GArr
  times : GArr
  types : GArr
  first : Nat
  d : Nat
  bad : Bool

/-- The row of node v, below NODE_COUNT: one offset read for the two offsets (R104, R105, R124). -/
def TrEnv.row (e : TrEnv) (v : Nat) : Tr Row := do
  let g := e.g
  let h ← e.head (v / 2 ^ g.shift)
  let c := h.parcel
  let w ← e.arrNum c.offsetArr (8 * (v % 2 ^ g.shift)) 16
  trReads 1
  let a := w % 2 ^ 64
  let b := w / 2 ^ 64
  let edges := (h.offEnd + 2 ^ 64 - h.off0) % 2 ^ 64
  let bad := decide (b < a) || decide (2 ^ 32 ≤ b - a)
  let xs := g.arrays c.edges edges
  let arr (i : Nat) : GArr :=
    let x := xs.getD i (c.edges, 0)
    { station := c.station, base := x.1, len := edges * x.2 }
  return { ids := arr 0, weights := arr 1, aliasT := arr 2, prefixT := arr 3, times := arr 4, types := arr 5,
           first := (a + 2 ^ 64 - h.off0) % 2 ^ 64, d := if bad then 0 else b - a, bad := bad }

/-- Element at position x of a row in one of its arrays, of w bytes. -/
def TrEnv.elem (e : TrEnv) (r : Row) (a : GArr) (x w : Nat) : Tr Nat := do
  trReads 1
  e.arrNum a ((r.first + x) * w) w

/-- Neighbour id at a position of a row. -/
def TrEnv.idAt (e : TrEnv) (r : Row) (x : Nat) : Tr Nat := do return (← e.elem r r.ids x e.g.idBytes) % 2 ^ 48

/-- A weight as R117 reads it: a zero, negative or NaN weight is zero, an infinity the largest finite value. -/
def TrEnv.weightOf (e : TrEnv) (raw : Nat) : Val :=
  let v := if e.g.f32 then (Ieee.read .b32 raw).val else LogFmt.l16.decode raw 0
  if v.neg then { neg := false, mag := 0, e := 0 } else v

/-- The weights of a row of at most 4,096 positions, 64 bytes a read (R124). -/
def TrEnv.rowWeights (e : TrEnv) (r : Row) : Tr (List Val) := do
  let wb := e.g.weightBytes
  let n := r.d * wb
  trReads (ceilDiv n 64)
  let bs ← (List.range (ceilDiv n 64)).mapM fun i => e.arrBytes r.weights (r.first * wb + 64 * i) (min 64 (n - 64 * i))
  return (splitLe wb r.d bs.flatten).map e.weightOf

/-- floor(w × 2^k) of a non-negative value. -/
def floorAt (w : Val) (k : Int) : Nat :=
  let s := w.e + k
  if 0 ≤ s then w.mag * 2 ^ s.toNat else w.mag / 2 ^ (-s).toNat

/-- The running sums that the engine builds from the weights of a row (R117). -/
def builtSums (ws : List Val) : List Nat :=
  let used := ws.filter fun w => !w.isZero
  match used with
  | [] => ws.map fun _ => 0
  | w :: r =>
    let emax := r.foldl (fun (a : Int) x => max a x.exponent) w.exponent
    (ws.foldl (fun (acc : List Nat × Nat) x =>
      let t := acc.2 + (if x.isZero then 0 else floorAt x (31 - emax))
      (acc.1 ++ [t], t)) ([], 0)).1

/-! ## Searches (R116, R119) -/

/-- The search of R116 between lo and hi, with the test of an element; `fuel` bounds its steps. -/
def trSearch (test : Nat → Tr Bool) : Nat → Nat → Nat → Tr Nat
  | 0, lo, _ => pure lo
  | fuel + 1, lo, hi =>
    if lo < hi then do
      let mid := (lo + hi) / 2
      if ← test mid then trSearch test fuel lo mid else trSearch test fuel (mid + 1) hi
    else pure lo

/-- The prefix search of a row of sums (R116): the k positions, or none with ZERO_WEIGHT. -/
def TrEnv.prefixTake (e : TrEnv) (hop local' v k d : Nat) (sum : Nat → Tr Nat) : Tr (List Nat) := do
  let total ← sum (d - 1)
  if total = 0 then
    trExc hop local' 3 v k
    return []
  else
    (List.range k).mapM fun i => do
      let w ← e.draw hop v i 0
      let x := mulhi w total
      trSearch (fun mid => do let p ← sum mid; return decide (x < p)) 64 0 (d - 1)

/-! ## Positions drawn at a node (R113 to R119) -/

/-- Floyd's method (R113): positions of a range of d, all of them when k ≥ d. -/
def TrEnv.floyd (e : TrEnv) (hop v k d : Nat) : Tr (List Nat) :=
  if d ≤ k then pure (List.range d)
  else (List.range k).foldlM (fun chosen i => do
    let j := d - k + i
    let w ← e.draw hop v i 0
    let x := mulhi w (j + 1)
    return chosen ++ [if chosen.contains x then j else x]) []

/-- Uniform with replacement (R114). -/
def TrEnv.replace (e : TrEnv) (hop v k d : Nat) : Tr (List Nat) :=
  if d = 0 then pure []
  else (List.range k).mapM fun i => do let w ← e.draw hop v i 0; return mulhi w d

/-- Weighted sampling (R115 to R117). DESIGN CHOICE: a node of degree 0, which has no P[d - 1], takes nothing and records nothing. -/
def TrEnv.weighted (e : TrEnv) (hop local' v k : Nat) (r : Row) : Tr (List Nat) := do
  if r.d = 0 then return []
  else if e.g.aliasT then
    (List.range k).mapM fun i => do
      let w ← e.draw hop v i 0
      let x := mulhi w r.d
      let u ← e.draw hop v i 1
      let entry ← e.elem r r.aliasT x 8
      let other := fld entry 32 32
      return if u % 2 ^ 32 < fld entry 0 32 then x else if r.d ≤ other then x else other
  else if e.g.prefixT then
    e.prefixTake hop local' v k r.d fun i => do
      if i + 1 < r.d then e.elem r r.prefixT i 8 else e.arrNum r.prefixT ((r.first + i) * 8) 8
  else if r.d ≤ 4096 then
    let sums := (builtSums (← e.rowWeights r)).toArray
    e.prefixTake hop local' v k r.d fun i => pure (sums.getD i 0)
  else
    trExc hop local' 1 v k
    e.replace hop v k r.d

/-- Put position x behind every listed position of a weight at least as high. -/
def insertTop (ws : Array Val) (x : Nat) : List Nat → List Nat
  | [] => [x]
  | y :: r => if (ws.getD y {neg := false, mag := 0, e := 0}).lt (ws.getD x {neg := false, mag := 0, e := 0})
    then x :: y :: r else y :: insertTop ws x r

/-- Top-k by weight (R118). -/
def TrEnv.topWeight (e : TrEnv) (hop local' v k : Nat) (r : Row) : Tr (List Nat) := do
  if r.d ≤ 4096 then
    let ws := (← e.rowWeights r).toArray
    return ((List.range r.d).foldl (fun l x => insertTop ws x l) []).take k
  else if e.g.sortedWeight then return List.range (min k r.d)
  else
    trExc hop local' 1 v k
    e.floyd hop v k r.d

/-- First position of a row whose timestamp is at least a, d where none is (R119). -/
def TrEnv.firstAtLeast (e : TrEnv) (r : Row) (a : Nat) : Tr Nat :=
  trSearch (fun mid => do return decide (a ≤ (← e.elem r r.times mid 8))) 64 0 r.d

/-- The temporal modes (R119). -/
def TrEnv.temporal (e : TrEnv) (hop v k : Nat) (recent : Bool) (r : Row) : Tr (List Nat) := do
  let lo ← e.firstAtLeast r (e.d.queryTime - e.d.window)
  let hi ← e.firstAtLeast r e.d.queryTime
  let w := hi - lo
  if recent then return (List.range (min k w)).map fun i => hi - 1 - i
  else return (← e.floyd hop v k w).map (lo + ·)

/-- Positions sampled at a node that is not a walk's seed, in slot order. -/
def TrEnv.positions (e : TrEnv) (hop local' v : Nat) (s : HopSpec) (r : Row) : Tr (List Nat) :=
  match s.mode with
  | 0 => e.floyd hop v s.fanout r.d
  | 1 => e.replace hop v s.fanout r.d
  | 2 => e.weighted hop local' v s.fanout r
  | 3 => e.topWeight hop local' v s.fanout r
  | 4 => e.temporal hop v s.fanout true r
  | _ => e.temporal hop v s.fanout false r

/-- An edge of a hop: local id of its row, its neighbour, its edge data and its visits. -/
structure TrvEdge where
  row : Nat
  node : Nat
  weight : Nat := 0
  etype : Nat := 0
  time : Nat := 0
  visits : Nat := 0

/-- Edge data that EDGE_DATA asks for (R128). -/
def TrEnv.edgeData (e : TrEnv) (s : HopSpec) (r : Row) (x : Nat) : Tr (Nat × Nat × Nat) := do
  let get (bit : Nat) (a : GArr) (w : Nat) : Tr Nat := if bitAt s.edgeData bit then e.elem r a x w else pure 0
  return (← get 0 r.weights e.g.weightBytes, ← get 1 r.types 1, ← get 2 r.times 8)

/-- The edges of one node of a hop that is not a walk (R113 to R119, R123). DESIGN CHOICE: an invalid node, or one with invalid offsets,
affects all FANOUT of its slots. -/
def TrEnv.sample (e : TrEnv) (hop local' v : Nat) (s : HopSpec) : Tr (List TrvEdge) := do
  if e.g.nodes ≤ v then
    trExc hop local' 2 v s.fanout
    return []
  else
    let r ← e.row v
    if r.bad then trExc hop local' 2 v s.fanout
    let xs ← e.positions hop local' v s r
    let es ← xs.mapM fun x => do
      let n ← e.idAt r x
      if e.g.nodes ≤ n then
        trExc hop local' 2 v 1
        return none
      else
        let (w, t, ts) ← e.edgeData s r x
        return some { row := local', node := n, weight := w, etype := t, time := ts : TrvEdge }
    return es.filterMap id

/-! ## Walks (R120 to R122) -/

/-- Where a walk stands: its node with that node's row, the node before with its row, whether an invalid id has been met,
and the visits counted. -/
structure Walk where
  at' : Nat
  row : Row
  prev : Nat
  prevRow : Row
  invalid : Bool
  visits : List (Nat × Nat)

/-- One more visit to a node. -/
def visit (vs : List (Nat × Nat)) (n : Nat) : List (Nat × Nat) :=
  if vs.any fun x => x.1 == n then vs.map fun x => if x.1 = n then (n, x.2 + 1) else x else vs ++ [(n, 1)]

/-- A walk lands on node n, or is returned to its seed v when n is invalid (R120, R123). DESIGN CHOICE: a node with invalid offsets that a
walk meets is recorded, like an invalid id, for the seed that the walk samples from (R129). -/
def TrEnv.land (e : TrEnv) (v : Nat) (home : Row) (w : Walk) (n : Nat) : Tr Walk := do
  if e.g.nodes ≤ n then return { w with at' := v, row := home, prev := w.at', prevRow := w.row, invalid := true }
  else if n = v then return { w with at' := v, row := home, prev := w.at', prevRow := w.row }
  else
    let r ← e.row n
    return { at' := n, row := r, prev := w.at', prevRow := w.row, invalid := w.invalid || r.bad, visits := visit w.visits n }

/-- One step of a walk with restart (R120). -/
def TrEnv.restartStep (e : TrEnv) (v : Nat) (home : Row) (s : HopSpec) (n : Nat) (w : Walk) (j : Nat) : Tr Walk := do
  let u ← e.draw 0 v n (2 * j)
  let x ← e.draw 0 v n (2 * j + 1)
  if u / 2 ^ 48 < s.restartP || w.row.d = 0 then
    return { w with at' := v, row := home, prev := w.at', prevRow := w.row }
  else e.land v home w (← e.idAt w.row (mulhi x w.row.d))

/-- Is x an id of a row: a lower-bound search of it (R121)? The position found is the last that the search turned left at. -/
def TrEnv.inRow (e : TrEnv) (r : Row) (x : Nat) : Tr Bool := do
  modify fun s => { s with hit := false }
  let _ ← trSearch (fun mid => do
    let y ← e.idAt r mid
    modify fun s => { s with hit := if x ≤ y then y == x else s.hit }
    return decide (x ≤ y)) 64 0 r.d
  return (← get).hit

/-- The attempts of a biased step from attempt a on (R121): the node accepted, and whether by attempt 15, whose weight nobody asks for. -/
def TrEnv.propose (e : TrEnv) (v n : Nat) (s : HopSpec) (w : Walk) (j : Nat) : Nat → Nat → Tr (Nat × Bool)
  | 0, _ => pure (w.at', false)
  | fuel + 1, a => do
    let p ← e.draw 0 v n (32 * j + 2 * a)
    let q ← e.draw 0 v n (32 * j + 2 * a + 1)
    let x ← e.idAt w.row (mulhi p w.row.d)
    if a = 15 then return (x, true)
    let alpha ← (do
      if j = 0 then return 256
      else if x = w.prev then return s.returnW
      else if ← e.inRow w.prevRow x then return 256
      else return s.inoutW : Tr Nat)
    let top := max s.returnW (max 256 s.inoutW)
    if q / 2 ^ 48 * top < alpha * 65536 then return (x, false)
    else e.propose v n s w j fuel (a + 1)

/-- One step of a biased walk (R121). -/
def TrEnv.biasedStep (e : TrEnv) (v local' : Nat) (home : Row) (s : HopSpec) (n : Nat) (w : Walk) (j : Nat) : Tr Walk := do
  if w.row.d = 0 then return { w with prev := w.at', prevRow := w.row }
  else
    let (x, limit) ← e.propose v n s w j 16 0
    if limit then trExc 0 local' 4 v 1
    e.land v home w x

/-- Put a visited node behind those that come before it: more visits first, then lower ids (R122). -/
def insertVisit (x : Nat × Nat) : List (Nat × Nat) → List (Nat × Nat)
  | [] => [x]
  | y :: r => if y.2 < x.2 ∨ (y.2 = x.2 ∧ x.1 < y.1) then x :: y :: r else y :: insertVisit x r

/-- The edges of one seed of a walk hop, and its distinct landings (R120 to R122, R126). -/
def TrEnv.walks (e : TrEnv) (local' v : Nat) (s : HopSpec) : Tr (List TrvEdge × Nat) := do
  if e.g.nodes ≤ v then
    trExc 0 local' 2 v s.fanout
    return ([], 0)
  else
    let home ← e.row v
    let start (vs : List (Nat × Nat)) : Walk :=
      { at' := v, row := home, prev := v, prevRow := home, invalid := home.bad, visits := vs }
    let vs ← (List.range s.fanout).foldlM (fun vs n => do
      let w ← (List.range s.walkLen).foldlM (fun w j =>
        if s.mode = 6 then e.restartStep v home s n w j else e.biasedStep v local' home s n w j) (start vs)
      if w.invalid then trExc 0 local' 2 v 1
      return w.visits) []
    let top := (vs.foldl (fun l x => insertVisit x l) []).take s.topk
    return (top.map fun x =>
      { row := local', node := x.1, visits := x.2,
        weight := Config.walkEdgeData e.d.batch v x.1 0, etype := Config.walkEdgeData e.d.batch v x.1 1,
        time := Config.walkEdgeData e.d.batch v x.1 2 }, vs.length)

/-! ## Hops and numbering (R125) -/

/-- Append what is not yet present. -/
def addNew (l : List Nat) (n : Nat) : List Nat := if l.contains n then l else l ++ [n]

/-- The largest of a list. -/
def listMax (xs : List Nat) : Nat := xs.foldl max 0

/-- A hop: its edges in scan order, the next list, and the most landings of a seed that the hash unit held (R126). -/
structure HopOut where
  edges : List TrvEdge
  list : List Nat
  landings : Nat

/-- Sample every node of a list (R125). -/
def TrEnv.hop (e : TrEnv) (h : Nat) (s : HopSpec) (l : List Nat) : Tr HopOut := do
  let es ← (List.range l.length).mapM fun i =>
    if isWalk s.mode then e.walks i (l.getD i 0) s else do return (← e.sample h i (l.getD i 0) s, 0)
  let edges := (es.map (·.1)).flatten
  return { edges := edges, list := edges.foldl (fun l x => addNew l x.node) l, landings := listMax (es.map (·.2)) }

/-- What a batch samples: the list of seeds, the hops and the seed list as given. -/
structure Sampled where
  seedList : List Nat
  list0 : List Nat
  hops : List HopOut

/-- Sample a batch (R125). -/
def TrEnv.run (e : TrEnv) (seedModule seedAt : Nat) : Tr Sampled := do
  let seeds ← (List.range e.d.seedCount).mapM fun i => trNum seedModule (seedAt + 8 * i) 8
  let l0 := seeds.foldl addNew []
  let hops ← e.d.specs.foldlM (fun (acc : List HopOut × List Nat) s => do
    let o ← e.hop acc.1.length s acc.2
    return (acc.1 ++ [o], o.list)) ([], l0)
  return { seedList := seeds, list0 := l0, hops := hops.1 }

/-! ## The block (R128, R129) -/

/-- Position of a node in a list. -/
def localId (l : List Nat) (n : Nat) : Nat := l.findIdx fun x => x == n

/-- The arrays of one hop (R128). -/
def hopArrays (g : Graph) (s : HopSpec) (n : Nat) (o : HopOut) : List (List Byte) :=
  let es := o.edges
  let cols := es.map fun x => localId o.list x.node
  let offsets := (List.range (n + 1)).map fun i => (es.filter fun x => decide (x.row < i)).length
  let cscOffsets := (List.range (o.list.length + 1)).map fun i => (cols.filter fun c => decide (c < i)).length
  let entries := (List.range o.list.length).flatMap fun c =>
    (List.range es.length).filterMap fun j =>
      if cols.getD j 0 = c then (es[j]?).map fun x => j * 2 ^ 32 + x.row else none
  let words (w : Nat) (xs : List Nat) : List Byte := xs.flatMap (leBytes w)
  [words 4 offsets, words 4 cols] ++ (if bitAt s.edgeData 0 then [words g.weightBytes (es.map (·.weight))] else []) ++
    (if bitAt s.edgeData 1 then [words 1 (es.map (·.etype))] else []) ++
    (if bitAt s.edgeData 2 then [words 8 (es.map (·.time))] else []) ++
    (if isWalk s.mode then [words 4 (es.map (·.visits))] else []) ++ [words 4 cscOffsets, words 8 entries]

/-- The header of a block (R128). -/
def blockHeader (d : BatchDesc) (status exceptions : Nat) (ns es : List Nat) : List Byte :=
  leBytes 4 status ++ leBytes 4 exceptions ++ (List.range 5).flatMap (fun i => leBytes 4 (ns.getD i 0)) ++
    (List.range 4).flatMap (fun i => leBytes 4 (es.getD i 0)) ++ leBytes 4 0 ++ leBytes 8 d.batch.toNat ++
    leBytes 8 d.step.toNat

/-- An exception entry (R129). -/
def TrvExc.bytes (x : TrvExc) : List Byte :=
  leBytes 4 x.count ++ leBytes 2 0 ++ leBytes 1 x.reason ++ leBytes 1 x.hop ++ leBytes 8 x.node

/-- Put an exception at its place: by hop, then local id, then reason (R129). -/
def insertExc (x : TrvExc) : List TrvExc → List TrvExc
  | [] => [x]
  | y :: r =>
    if x.hop < y.hop ∨ (x.hop = y.hop ∧ (x.local' < y.local' ∨ (x.local' = y.local' ∧ x.reason < y.reason)))
    then x :: y :: r else y :: insertExc x r

/-- The arrays of a block with the offsets they stand at (R128). -/
def blockParts (g : Graph) (d : BatchDesc) (s : Sampled) (exc : List TrvExc) (status : Nat) : List (Nat × List Byte) :=
  let lists := s.list0 :: s.hops.map (·.list)
  let last := lists.getLastD []
  let arrays := [s.seedList.flatMap fun x => leBytes 4 (localId s.list0 x), last.flatMap (leBytes 8)] ++
    (List.range s.hops.length).flatMap (fun h =>
      match d.specs[h]?, s.hops[h]? with
      | some sp, some o => hopArrays g sp (lists.getD h []).length o
      | _, _ => []) ++ [exc.flatMap TrvExc.bytes]
  let header := blockHeader d status exc.length (lists.map (·.length)) (s.hops.map fun o => o.edges.length)
  (0, header) :: (arrays.foldl (fun (acc : List (Nat × List Byte) × Nat) bs =>
    let at' := align64 acc.2
    (acc.1 ++ [(at', bs)], at' + bs.length)) ([], 64)).1

/-! ## TRV_SUBMIT -/

/-- Queue a batch descriptor, or stall while 64 are queued (R108). -/
def Mach.trvSubmit (m : Mach) (q : Nat) (f : CoreFields) : Mach :=
  let k := q / 16
  if 64 ≤ (m.getTrv k).queue.length then m.stall q
  else
    let r := m.lsRead q (off8 ((m.getCore q).sreg f.a)) 128
    let m := r.2
    let step := leNat ((r.1.drop 0x10).take 8)
    let d := BatchDesc.ofBytes (m.originOf q (stepTag step 3)) r.1
    (m.modTrv k fun t => { t with queue := t.queue ++ [d] }).advance q

/-- TRV_SUBMIT (R108). -/
def execTrvSubmit (q : Nat) (f : CoreFields) (s : State) : Host.Outcome State Fault Refusal :=
  .next (s.onMach fun m => m.issue q f 1 0x01 {} fun m => m.trvSubmit q f)

/-! ## BATCH_START (R109, R132, R323) -/

/-- Where the graph descriptor, the seeds, the block and the parcel map of a batch lie. -/
structure TrvPlaces where
  graph : Nat × Nat
  seeds : Nat × Nat
  g : Graph
  pmap : Nat × Nat

/-- Where BLOCK lies, for n bytes. -/
def Mach.blockAt (m : Mach) (d : BatchDesc) (n : Nat) : Option (Nat × Nat) := m.xlate d.org.ctx .write d.block n

/-- Translate what a batch names and read its graph descriptor; none when something does not translate (R109 reason 1).
The flag says that the descriptor could not be read. -/
def BatchDesc.open' (d : BatchDesc) : Rd (Option TrvPlaces × Bool) := do
  let m := (← get).m
  match m.xlate d.org.ctx .read d.graph 64, m.xlate d.org.ctx .read d.seeds (8 * min d.seedCount 65536),
      m.blockAt d (d.pages * 4096) with
  | some gp, some sp, some _ =>
    let r ← rdBytes gp.1 gp.2 64
    let g := Graph.ofBytes r.1
    match m.xlateGlobal d.org.ctx .read g.pmapStation g.pmapAt (16 * g.parcels) with
    | some pp => return (some { graph := gp, seeds := sp, g := g, pmap := pp }, r.2)
    | none => return (none, r.2)
  | _, _, _ => return (none, false)

/-- The reason a batch is refused for, 0 where it is not (R109), and whether the graph descriptor could not be read. -/
def BatchDesc.check (d : BatchDesc) : Rd (Nat × Bool) := do
  let r ← d.open'
  match r.1 with
  | none => return (1, r.2)
  | some p =>
    return (if p.g.bad then 2 else if d.shapeBad then 3 else if d.modeBad then 4 else if d.requiresBad p.g then 5
      else if d.sizeBad p.g then 6 else 0, r.2)

/-- A block of a STATUS is complete: counter, closure, and the record of the last batch (R130, R135). -/
def Mach.batchEnd (m : Mach) (k : Nat) (d : BatchDesc) : Mach :=
  ((m.modTrv k fun t => { t with batches := t.batches + 1, lastBatch := d.batch }).thd k none 0x12 1).closureAdd k d.closure 1

/-- The step that a STATUS 2 block names cannot commit (R131): at once where it is the job's step, otherwise when it
comes. -/
def Mach.blockFailed (m : Mach) (d : BatchDesc) : Mach :=
  match m.job? d.org.slot with
  | none => m
  | some j =>
    if j.step = d.step then m.readFailed d.org.slot .working
    else m.modJob d.org.slot fun j => { j with badBlocks := j.badBlocks ++ [d.step.toNat] }

/-- Write a bare header with a status and all counts zero, where BLOCK translates. -/
def Mach.bareBlock (m : Mach) (k : Nat) (d : BatchDesc) (status : Nat) : List Nat × Mach :=
  match m.blockAt d (max 64 (d.pages * 4096)) with
  | some p => m.putBytes k (m.causeTag d.org.slot d.org.tag) d.org.slot p.1 p.2 (blockHeader d status 0 [] [])
  | none => ([], m)

/-- May the engine start a descriptor: its STEP is within the lookahead of the step the job executes (R132)? -/
def Mach.lookaheadAllows (m : Mach) (k : Nat) (d : BatchDesc) : Bool :=
  match m.job? d.org.slot with
  | some j => decide (d.step.toNat ≤ j.step.toNat + (m.getTrv k).lookahead.toNat + 1)
  | none => false

/-- Walkers in use: one for each seed of the batches being sampled, up to all 32 (R101; DESIGN CHOICE: a batch is sampled whole when it
completes, so that until then it has its seeds to serve). -/
def Mach.walkersBusy (m : Mach) (k : Nat) : Nat :=
  min 32 ((((m.getTrv k).work.filter fun w => !w.written).map fun w => w.desc.seedCount).foldl (· + ·) 0)

/-- The job names the graph of a batch that starts, which is read-only to it from then on (R107; DESIGN CHOICE: it counts as named once a
batch on it starts). -/
def Mach.nameGraph (m : Mach) (d : BatchDesc) : Mach :=
  match m.xlate d.org.ctx .read d.graph 64 with
  | some x => (m.modJob d.org.slot fun j => { j with graphs := if j.graphs.contains x then j.graphs else j.graphs ++ [x] }).setGuards d.org.slot
  | none => m

/-- Take a started descriptor into the batches in progress. -/
def Mach.batchTake (m : Mach) (k : Nat) (d : BatchDesc) (written : Bool) (writes : List Nat) (status : Nat) : Mach :=
  m.modTrv k fun t =>
    { t with nextId := t.nextId + 1,
             work := t.work ++ [{ id := t.nextId, desc := d, written := written, writes := writes, status := status,
                                  since := m.now }] }

/-- Start the first queued descriptor (R109, R132, R323). It waits while 32 batches are being sampled, one for each walker (R101), and its
counter rises only when the header of a refusal has been written (R130). -/
def Mach.batchStart (m : Mach) (k : Nat) : Mach :=
  match (m.getTrv k).queue with
  | [] => m
  | d :: rest =>
    if !m.takesWork tyTrv k || !m.lookaheadAllows k d || decide (32 ≤ (m.getTrv k).work.countP fun w => !w.written) then m
    else
      let pop (m : Mach) : Mach := m.modTrv k fun t => { t with queue := rest }
      match m.job? d.org.slot with
      | none => m
      | some j =>
        if j.attempt ≠ 0 && j.blocks.any (fun b => b.desc.step == d.step && b.desc.batch == d.batch && b.desc.block == d.block) then (pop m).batchEnd k d
        else
          let w := m.causeTag d.org.slot d.org.tag
          match m.runRd (.trvStart k) (some w.domain) w d.check with
          | (none, m) => m
          | (some (why, failed), m) =>
            let m := pop m
            if failed then
              let r := m.bareBlock k d 2
              ((r.2.event tyTrv k 6).blockFailed d).batchTake k d true r.1 2
            else if why ≠ 0 then
              let r := m.bareBlock k d (why * 256 + 1)
              let m := r.2.modTrv k fun t => { t with refuseReason := BitVec.ofNat 8 why, refuseBatch := d.batch }
              let m := m.event tyTrv k 4
              if r.1.isEmpty then m.batchEnd k d else m.batchTake k d true r.1 (why * 256 + 1)
            else (m.nameGraph d).batchTake k d false [] 0

/-- BATCH_START (R132). -/
def execBatchStart (k : Nat) (s : State) : Host.Outcome State Fault Refusal :=
  .next (s.onTract fun m => m.batchStart k)

/-! ## BATCH_COMPLETE (R130, R131, R133) -/

/-- Sample a batch whole: what it holds and its tallies; none where it does not translate any more. -/
def BatchDesc.sampleAll (d : BatchDesc) (seed : BitVec 64) (oldMap : List (Nat × Nat × Nat)) : Rd (Option (Graph × Sampled × TrSt)) := do
  let r ← d.open'
  match r.1 with
  | none => return none
  | some p =>
    let e : TrEnv := { g := p.g, d := d, seed := seed, pmapModule := p.pmap.1, oldMap := oldMap }
    let (s, t) ← (e.run p.seeds.1 p.seeds.2).run { failed := r.2 }
    return some (p.g, s, t)

/-- Post the ID_LIST of a block as prefetch hints to the gather engines that the plat names (R133, R160). -/
def Mach.postHints (m : Mach) (k slot : Nat) (step : BitVec 64) (ids : List Nat) : Mach :=
  match (m.job? slot).bind (·.plat) with
  | none => m
  | some p =>
    match p.hints.find? fun h => h.1 == k with
    | none => m
    | some h => h.2.foldl (fun m t =>
        m.modGth t.1 fun g => { g with inHints := g.inHints ++ ids.map fun row =>
          { cluster := k, slot := slot, step := step, tables := t.2, row := row } }) m

/-- A batch that meets an array it may not read is refused with ADDRESS: it samples nothing (R109, R371). -/
def Mach.batchBlocked (m : Mach) (k : Nat) (w : TrvWork) : Mach :=
  let r := m.bareBlock k w.desc 0x101
  (r.2.modTrv k fun t =>
    { t with refuseReason := 1, refuseBatch := w.desc.batch,
             work := t.work.map fun x => if x.id = w.id then { x with written := true, writes := r.1, status := 0x101 } else x }).event
    tyTrv k 4

/-- Write the block of a batch in progress: its parts, tallies and counters (R128, R129, R131). -/
def Mach.blockWrite (m : Mach) (k : Nat) (w : TrvWork) (g : Graph) (s : Sampled) (t : TrSt) : Mach :=
  let d := w.desc
  let status := if t.failed then 2 else 0
  let exc := t.exc.foldl (fun l x => insertExc x l) []
  let parts := match m.blockAt d (d.pages * 4096) with
    | some p => (blockParts g d s exc status).map fun x => (p.1, p.2 + x.1, x.2)
    | none => []
  let r := putAll m k (m.causeTag d.org.slot d.org.tag) d.org.slot parts
  let spills := (s.hops.filter fun o => decide (65536 < o.list.length)).length
  let peak := s.hops.foldl (fun n o => max n (min 65536 (max o.list.length o.landings))) 0
  let ids := ((s.list0 :: s.hops.map (·.list)).getLastD [])
  let m := r.2.modTrv k fun v =>
    { v with draws := v.draws + BitVec.ofNat 48 t.draws, reads := v.reads + BitVec.ofNat 48 t.reads,
             hashPeak := BitVec.ofNat 17 (max v.hashPeak.toNat peak),
             work := v.work.map fun x =>
               if x.id = w.id then { x with written := true, writes := r.1, status := status, ids := ids, flags := g.flags }
               else x }
  let m := (m.thd k none 0x10 t.draws).thd k none 0x11 t.reads
  let m := exc.foldl (fun m x => m.event tyTrv k (x.reason - 1)) m
  let m := m.event tyTrv k 5 spills
  if t.failed then (m.event tyTrv k 6).blockFailed d else m

/-- Finish a batch whose block is whole (R130, R133): the closure counter, the hints, and what a replay needs (R323). -/
def Mach.batchFinish (m : Mach) (k : Nat) (w : TrvWork) : Mach :=
  let d := w.desc
  let m := m.modTrv k fun t => { t with work := t.work.filter fun x => x.id != w.id }
  let m := if w.status = 0 then
      (m.modJob d.org.slot fun j => { j with blocks := j.blocks ++ [{ desc := d, flags := w.flags }] }).postHints k
        d.org.slot d.step w.ids
    else m
  m.batchEnd k d

/-- Complete batch `id` of cluster k's engine: write its block, and finish it once every write is complete. -/
def Mach.batchComplete (m : Mach) (k id : Nat) : Mach :=
  match (m.getTrv k).work.find? fun w => w.id == id with
  | none => m
  | some w =>
    let c := m.causeTag w.desc.org.slot w.desc.org.tag
    let m := if w.written then m
      else
        match m.runRd (.trv k id) (some c.domain) c (w.desc.sampleAll (m.jobSeed w.desc.org.slot) w.oldMap) with
        | (none, m) => m
        | (some none, m) => m.batchBlocked k w
        | (some (some (g, s, t)), m) => if t.blocked then m.batchBlocked k w else m.blockWrite k w g s t
    match (m.getTrv k).work.find? fun w => w.id == id with
    | none => m
    | some w => if w.written && w.writes.isEmpty then m.batchFinish k w else m

/-- BATCH_COMPLETE (R130). -/
def execBatchComplete (k id : Nat) (s : State) : Host.Outcome State Fault Refusal :=
  .next (s.onTract fun m => m.batchComplete k id)

end Sys2Proof.Machine
end

