-- ==== Sys2Proof/Machine/Gather.lean ====
section
/-!
DEFINITION. The gather engine (R145 to R172): lookups with pooling, scatter with the coalescing buffer, prefetch hints and
rows. GTH_LOOKUP, GTH_SCATTER, LOOKUP_START, LOOKUP_COMPLETE, SCATTER_START, SCATTER_COMPLETE, PREFETCH_HINT and
PREFETCH_FETCH are the commands. A lookup is computed whole when it completes.
-/
namespace Sys2Proof.Machine

/-! ## Descriptors (R145, R165) -/

/-- The lookup or scatter descriptor that 64 bytes spell. Addresses keep their upper bits, which R171 checks. -/
def GthDesc.ofBytes (org : Origin) (scatter : Bool) (bs : List Byte) : GthDesc :=
  let n (o k : Nat) : Nat := leNat ((bs.drop o).take k)
  { org := org, scatter := scatter, tableId := n 0 2, pool := if scatter then n 3 1 else n 2 1, byte3 := n 3 1,
    kind := if scatter then n 2 1 else 0, shape := n 4 4, step := BitVec.ofNat 64 (n 8 8), indices := n 0x10 8,
    bagOffsets := n 0x18 8, weights := n 0x20 8, data := n 0x28 8, argmax := n 0x30 8, closure := n 0x38 1,
    outScale := sgn 8 (n 0x39 1), reserved := if scatter then n 0x39 7 else n 0x3A 6 }

/-- A CSC scatter. -/
def GthDesc.csc (d : GthDesc) : Bool := d.scatter && d.kind == 1

/-- BAGS as far as it counts for the extents of arrays. -/
def GthDesc.bags (d : GthDesc) : Nat := min (d.shape % 2 ^ 17) 65536

/-- Is BAGS in its range (R145)? -/
def GthDesc.bagsOk (d : GthDesc) : Bool := d.shape != 0 && decide (d.shape ≤ 65536)

/-- The format of a lookup's output, where OUT_FORMAT is one of the four it may be. -/
def GthDesc.outFmt? (d : GthDesc) : Option Fmt :=
  match d.byte3 with
  | 0 => some .l8
  | 1 => some .l16
  | 3 => some .f16
  | 4 => some .f32
  | _ => none

/-- Reason 4 of R171. -/
def GthDesc.formatBad (d : GthDesc) : Bool :=
  decide (4 < d.pool) || decide (1 < d.kind) || (!d.scatter && d.outFmt?.isNone) || d.reserved != 0 ||
    (d.csc && d.pool != 0) || (!d.csc && d.pool == 4 && d.weights == 0) || (!d.csc && d.pool == 3 && d.argmax == 0)

/-- Tiles of a tensor of r rows and w columns (R151). -/
def tileCount (r w : Nat) : Nat := ceilDiv r 32 * ceilDiv w 32

/-! ## What a descriptor names -/

/-- What the check of a descriptor finds and the work then uses: the reason, where arrays lie, their contents. -/
structure GthPlan where
  /-- the selected descriptor -/
  table : TableRead := {}
  reason : Nat := 0
  /-- a read of working data failed twice -/
  failed : Bool := false
  offs : List Nat := []
  idx : List Nat := []
  wts : List Nat := []
  args : List Nat := []
  /-- output or gradient tiles, and the argmax array of a lookup -/
  data : Option (Nat × Nat) := none
  /-- CSC: E_h -/
  edges : Nat := 0
  argAt : Option (Nat × Nat) := none
  /-- CSC: the occurrences as table row and gradient row -/
  pairs : List (Nat × Nat) := []

/-- A field that holds an address, translated for n bytes. -/
def gthAt (m : Mach) (ctx : Nat) (p : Perm) (raw n : Nat) : Option (Nat × Nat) :=
  if 2 ^ 48 ≤ raw then none else m.xlate ctx p raw n

/-- Read n numbers of w bytes at a place; nothing where there is none. -/
def readNums (p : Option (Nat × Nat)) (w n : Nat) : Rd (List Nat × Bool) := do
  match p with
  | none => return ([], false)
  | some (mod, a) =>
    let r ← rdBytes mod a (w * n)
    return (splitLe w n r.1, r.2)

/-- BAG_OFFSETS decrease, or a bag holds over 4,096 indices. -/
def offsBad : List Nat → Bool
  | a :: b :: r => decide (b < a) || decide (a + 4096 < b) || offsBad (b :: r)
  | _ => false

/-- Offsets of arrays laid as a block lays them (R128). -/
def arrayOffsets (sizes : List Nat) : List Nat :=
  (sizes.foldl (fun (acc : List Nat × Nat) n => (acc.1 ++ [align64 acc.2], align64 acc.2 + n)) ([], 64)).1

/-- What the header of a block and the record of it on this module give of hop h: rows, columns, edges, and the offsets of
ID_LIST, CSC_OFFSETS and CSC_ENTRIES. A block the module has no record of is taken to carry no edge data and SEED_COUNT
N_0 (DESIGN CHOICE: neither the header nor the scatter descriptor holds them). -/
structure CscAt where
  cols : Nat
  edges : Nat
  ids : Nat
  offsets : Nat
  entries : Nat
  ok : Bool

/-- The places of hop h of a block. -/
def cscAt (rec : Option BlockRec) (hdr : List Byte) (h : Nat) : CscAt :=
  let n (i : Nat) : Nat := leNat ((hdr.drop (8 + 4 * i)).take 4)
  let e (i : Nat) : Nat := leNat ((hdr.drop (0x1C + 4 * i)).take 4)
  let hops := match rec with
    | some r => r.desc.specs.length
    | none => ((List.range 4).filter fun i => n (i + 1) != 0).length
  let spec (i : Nat) : HopSpec := match rec with
    | some r => r.desc.specs.getD i (HopSpec.ofBytes [])
    | none => HopSpec.ofBytes []
  let g : Graph := { flags := (rec.map (·.flags)).getD 0, shift := 0, nodes := 0, pmapAt := 0, pmapStation := 0, parcels := 0 }
  let seedCount := match rec with
    | some r => r.desc.seedCount
    | none => n 0
  let perHop := (List.range (h + 1)).map fun i => hopSizes g (spec i) (n i) (e i) (n (i + 1))
  let sizes := [4 * seedCount, 8 * n hops] ++ perHop.flatten
  let offs := arrayOffsets sizes
  { cols := n (h + 1), edges := e h, ids := offs.getD 1 0, offsets := offs.getD (sizes.length - 2) 0,
    entries := offs.getD (sizes.length - 1) 0, ok := decide (h < hops) }

/-- The occurrences of a CSC source (R166): for each column its entries, as table row and gradient row. -/
def cscPairs (ids offs entries : List Nat) : List (Nat × Nat) :=
  let ea := entries.toArray
  (List.range ids.length).flatMap fun c =>
    (List.range (offs.getD (c + 1) 0 - offs.getD c 0)).map fun i => (ids.getD c 0, ea.getD (offs.getD c 0 + i) 0 / 2 ^ 32)

/-- What a CSC source names (R166): reason so far, pairs and rows of the gradient tensor. -/
structure CscRead where
  address : Bool := false
  shape : Bool := false
  failed : Bool := false
  edges : Nat := 0
  pairs : List (Nat × Nat) := []

/-- Read a CSC source. -/
def GthDesc.readCsc (d : GthDesc) (j : Job) : Rd CscRead := do
  let m := (← get).m
  let h := d.shape % 4
  match gthAt m d.org.ctx .read d.indices 64 with
  | none => return { address := true, shape := decide (4 ≤ d.shape) }
  | some p =>
    let hdr ← rdBytes p.1 p.2 64
    let rec? := (j.blocks.filter fun b => b.desc.block == d.indices).getLast?
    let c := cscAt rec? hdr.1 h
    match gthAt m d.org.ctx .read d.indices (c.entries + 8 * c.edges) with
    | none => return { address := true, shape := decide (4 ≤ d.shape) || !c.ok, failed := hdr.2 }
    | some p =>
      let ids ← readNums (some (p.1, p.2 + c.ids)) 8 c.cols
      let offs ← readNums (some (p.1, p.2 + c.offsets)) 4 (c.cols + 1)
      let es ← readNums (some (p.1, p.2 + c.entries)) 8 c.edges
      return { shape := decide (4 ≤ d.shape) || !c.ok, failed := hdr.2 || ids.2 || offs.2 || es.2, edges := c.edges,
               pairs := cscPairs ids.1 offs.1 es.1 }

/-- Bytes of a tile in memory at the stride of a format code; an IEEE or log code below 6. -/
def strideOf (code : Nat) : Option Nat := (Fmt.ofCode code).map Fmt.stride

/-- Check a descriptor and read the arrays it names (R145, R165, R171). DESIGN CHOICE: of an address field that the descriptor does not use
(BAG_OFFSETS with NONE, WEIGHTS without WSUM, ARGMAX without MAX) no bit is checked. -/
def GthDesc.plan (d : GthDesc) (j : Job) (slots : Nat) : Rd GthPlan := do
  let ctx := d.org.ctx
  let m := (← get).m
  let nb := d.bags
  let csc ← if d.csc then d.readCsc j else pure {}
  let useOffs := !d.csc && d.pool != 0
  let offAt := gthAt m ctx .read d.bagOffsets (4 * (nb + 1))
  let offs ← if useOffs then readNums offAt 4 (nb + 1) else pure ([], false)
  let count := if useOffs then listMax offs.1 else nb
  let idxAt := gthAt m ctx .read d.indices (8 * count)
  let idx ← if d.csc then pure ([], false) else readNums idxAt 8 count
  let useW := !d.csc && d.pool == 4
  let wtAt := gthAt m ctx .read d.weights (4 * count)
  let wts ← if useW then readNums wtAt 4 count else pure ([], false)
  let t ← readTable j slots ctx d.tableId
  let width := t.width.getD 0
  let rows := if d.csc then csc.edges else nb
  let first ← if d.scatter then readNums (gthAt m ctx .read d.data 8) 8 1 else pure ([], false)
  let stride := if d.scatter then strideOf (TileHdr.ofWord (first.1.headD 0)).format else d.outFmt?.map Fmt.stride
  let extent := match stride with
    | some s => tileCount rows width * s
    | none => 8
  let dataAt := gthAt m ctx (if d.scatter then .read else .write) d.data extent
  let useArg := !d.csc && d.pool == 3
  let argAt := gthAt m ctx (if d.scatter then .read else .write) d.argmax (2 * nb * width)
  let args ← if d.scatter && useArg && t.desc.isSome then readNums argAt 2 (nb * width) else pure ([], false)
  let address := csc.address || (useOffs && offAt.isNone) || (!d.csc && idxAt.isNone) || (useW && wtAt.isNone) ||
    t.reason == 1 || (t.desc.isSome && (dataAt.isNone || (useArg && argAt.isNone)))
  let table := t.reason == 2 || (d.scatter && (t.desc.map (·.frozen)).getD false)
  let shape := if d.csc then csc.shape else !d.bagsOk || (useOffs && offsBad offs.1)
  return { table := t, failed := csc.failed || offs.2 || idx.2 || wts.2 || first.2 || args.2,
           reason := if address then 1 else if table then 2 else if shape then 3 else if d.formatBad then 4 else 0,
           offs := offs.1, idx := idx.1, wts := wts.1, args := args.1, data := dataAt, argAt := argAt, edges := csc.edges, pairs := csc.pairs }

/-- Positions in INDICES of bag b. -/
def GthPlan.bag (p : GthPlan) (d : GthDesc) (b : Nat) : List Nat :=
  if d.pool = 0 then [b] else (List.range (p.offs.getD (b + 1) 0 - p.offs.getD b 0)).map (p.offs.getD b 0 + ·)

/-! ## Rows (R146, R147, R152) -/

/-- A row as a lookup finds it: dropped, or its values with the tallies of a conversion on the fly, and whether it came
from the prefetch area. -/
structure RowVal where
  dropped : Bool := false
  vals : List Val := []
  tal : Tal := {}
  hit : Bool := false
  shard : Option Shard := none

/-- What a lookup or scatter carries: rows met so far, failures and drops. -/
structure GtSt where
  rows : List (Nat × RowVal) := []
  working : Bool := false
  committed : Bool := false
  readErrors : Nat := 0

/-- A computation of the gather engine. -/
abbrev Gt (α : Type) := StateT GtSt Rd α

/-- Note a failed row: READ_ERROR, and what its data was (R152). -/
def gtFail (kind : DataKind) : Gt Unit := modify fun s =>
  { s with readErrors := s.readErrors + 1, working := s.working || kind == .working,
           committed := s.committed || kind == .committed }

/-- Where a row's value comes from: its class, whether it is a master row, and its bytes. -/
structure RowBytes where
  cls : Nat
  master : Bool
  bytes : List Byte

/-- The directory entry and shard of row x, or the value that stands for a failure (R146, R152). -/
def gtDirectory (t : TableDesc) (x : Nat) : Gt (Option (Shard × DirEntry)) := do
  let at' := t.shardAt x
  let sb ← (rdBytes at'.1 at'.2 32 .committed : Rd (List Byte × Bool))
  if sb.2 then
    gtFail .committed
    return none
  else
    let s := Shard.ofBytes sb.1
    let db ← (rdBytes s.module (t.dirAt s x) 8 .committed : Rd (List Byte × Bool))
    let e := DirEntry.ofNat (leNat db.1)
    if db.2 || e.cls == 3 then
      gtFail .committed
      return none
    else return some (s, e)

/-- Read the bytes that give row x its value: the replica, the copy, or the master (R147). -/
def gtRowBytes (j : Job) (t : TableDesc) (x : Nat) (s : Shard) (e : DirEntry) : Gt (Option RowBytes) := do
  let self := (← (get : Rd RdSt)).m.self
  let copy (mod a cls : Nat) : Gt (Option RowBytes) := do
    let r ← (rdBytes mod a (8 + ceilDiv (t.width * (classFmt cls).bits) 8) .working : Rd (List Byte × Bool))
    if r.2 || (copyRow cls t.width r.1).isNone then
      gtFail .working
      return none
    else return some { cls := cls, master := false, bytes := r.1 }
  let replica := if e.staked then j.replicas.find? fun r => r.table == t.id && r.row == x else none
  match replica with
  | some r => copy self r.addr 0
  | none =>
    if e.resident && !e.staked then copy s.module e.near e.cls
    else
      let r ← (rdBytes s.module (t.masterAt s x) (4 * t.width) .committed : Rd (List Byte × Bool))
      if r.2 then
        gtFail .committed
        return none
      else return some { cls := e.cls, master := true, bytes := r.1 }

/-- The values that a row's bytes stand for. -/
def RowBytes.value (t : TableDesc) (r : RowBytes) (hit : Bool) : RowVal :=
  if r.master then
    let w := workRow r.cls (splitLe 4 t.width r.bytes)
    { vals := w.vals, tal := w.tal, hit := hit }
  else
    match copyRow r.cls t.width r.bytes with
    | some w => { vals := w.vals, hit := hit }
    | none => { vals := List.replicate t.width {}, hit := hit }

/-- Row x as a lookup of cluster k finds it; each row is read once for a descriptor. A prefetched row is used where it still is what the
row's source would give: of the same table version and class, and not of a staked row (R147, R160, R161). -/
def gtRow (k : Nat) (j : Job) (slot : Nat) (t : TableDesc) (x : Nat) (values : Bool) : Gt RowVal := do
  match (← get).rows.find? fun r => r.1 == x with
  | some r => return r.2
  | none =>
    let v : RowVal ← (do
      if t.rows ≤ x then return { dropped := true }
      else
        match ← gtDirectory t x with
        | none => return { vals := List.replicate t.width {} }
        | some (s, e) =>
          if e.tomb then return { dropped := true }
          else if !values then return { shard := some s }
          else
            let area := ((← (get : Rd RdSt)).m.getGth k).area
            match area.find? fun p =>
                p.slot == slot && p.table == t.id && p.version == t.version && p.row == x && !e.staked && p.cls == e.cls with
            | some p => return RowBytes.value t { cls := p.cls, master := p.master, bytes := p.bytes } true
            | none =>
              match ← gtRowBytes j t x s e with
              | none => return { vals := List.replicate t.width {} }
              | some b => return b.value t false : Gt RowVal)
    modify fun s => { s with rows := s.rows ++ [(x, v)] }
    return v

/-! ## Pooling (R148 to R151) -/

/-- A value with "some lies below its last bit" folded into one more bit: rounding it rounds the exact value. -/
def jam (t : Trunc) : Val := { neg := t.neg, mag := 2 * t.mag + b2n t.sticky, e := t.e - 1 }

/-- v / n, as near as any rounding of it can tell. -/
def divN (v : Val) (n : Nat) : Val := if v.isZero then {} else jam (divTrunc 200 v (Val.ofInt (n : Int) 0))

/-- N_p, clamped, and whether it was (R148, R150). -/
def poolInt (v : Val) (e : Int) : Int × Bool := red64Contribution v e

/-- One pooled element of a bag from the values of its valid occurrences with their weights: the value before conversion
and the clamped N_p. -/
def poolElem (pool : Nat) (e : Int) (vs : List (Val × Val)) : Val × Nat :=
  match pool with
  | 0 => ((vs.headD ({}, {})).1, 0)
  | 3 =>
    match vs with
    | [] => ({}, 0)
    | v :: r => (r.foldl (fun (a : Val) x => if a.lt x.1 then x.1 else a) v.1, 0)
  | _ =>
    let ns := vs.map fun v => poolInt (if pool = 4 then v.1.mul v.2 else v.1) e
    let n := ns.foldl (fun (a : Int) x => a + x.1) 0
    let sum := Val.ofInt n e
    (if pool = 2 && !vs.isEmpty then divN sum vs.length else sum, ns.countP (·.2))

/-- The bag position of the first greatest value (R148). -/
def argMax (vs : List (Nat × Val)) : Nat :=
  match vs with
  | [] => 0xFFFF
  | v :: r => (r.foldl (fun (a : Nat × Val) x => if a.2.lt x.2 then x else a) v).1

/-- A pooled bag: its elements, its argmax entries, clamped sums. -/
structure BagOut where
  vals : List Val
  args : List Nat
  clamped : Nat
  empty : Bool

/-- What a lookup computes: the bags in order, and its counts. -/
structure LookupOut where
  bags : List BagOut := []
  rows : Nat := 0
  hits : Nat := 0
  drops : Nat := 0
  lastDrop : Nat := 0
  tal : Tal := {}
  deltas : List (Nat × Nat) := []

/-- One more occurrence of a row. -/
def bump (l : List (Nat × Nat)) (x : Nat) : List (Nat × Nat) := visit l x

/-- Pool bag b (R146 to R149). -/
def gtBag (k : Nat) (j : Job) (d : GthDesc) (t : TableDesc) (p : GthPlan) (out : LookupOut) (b : Nat) : Gt LookupOut := do
  let ps := p.bag d b
  let start := ps.headD 0
  let got ← ps.mapM fun i => do
    let v ← gtRow k j d.org.slot t (p.idx.getD i 0) true
    return (i, v)
  let valid := got.filter fun x => !x.2.dropped
  let dropped := got.filter fun x => x.2.dropped
  let wt (i : Nat) : IeeeIn := Ieee.b32.read (p.wts.getD i 0)
  let occ := valid.map fun x => (x.1, x.2.vals.toArray, (wt x.1).val)
  let elems := (List.range t.width).map fun e => poolElem d.pool t.poolExp (occ.map fun x => (x.2.1.getD e {}, x.2.2))
  let args := (List.range t.width).map fun e => argMax (occ.map fun x => (x.1 - start, x.2.1.getD e {}))
  let bag : BagOut := { vals := elems.map (·.1), args := args, clamped := elems.foldl (fun (n : Nat) x => n + x.2) 0,
                        empty := valid.isEmpty }
  let wtal := if d.pool = 4 then valid.foldl (fun (a : Tal) x => a.plus (wt x.1).tal) {} else {}
  return { bags := out.bags ++ [bag], rows := out.rows + valid.length,
           hits := out.hits + (valid.filter fun x => x.2.hit).length, drops := out.drops + dropped.length,
           lastDrop := match dropped.getLast? with
             | some x => p.idx.getD x.1 0
             | none => out.lastDrop,
           tal := (valid.foldl (fun (a : Tal) x => a.plus x.2.tal) out.tal).plus wtal,
           deltas := valid.foldl (fun l x => bump l (p.idx.getD x.1 0)) out.deltas }

/-- The output tiles of a tensor given by its element function, with the tallies of the conversion (R151). -/
def outTiles (f : Fmt) (s : Int) (rows width : Nat) (elem : Nat → Nat → Val) : List (List Byte) × Tal :=
  let nc := ceilDiv width 32
  (List.range (tileCount rows width)).foldl (fun (acc : List (List Byte) × Tal) i =>
    let ins := (List.range 1024).map fun e =>
      let r := 32 * (i / nc) + e / 32
      let c := 32 * (i % nc) + e % 32
      { val := if r < rows ∧ c < width then elem r c else {} : ConvIn }
    let o := convertTile f s false (List.replicate 1024 .nearest) ins
    (acc.1 ++ [leBytes 8 o.hdr ++ denseBody f o.elems.toList], acc.2.plus o.tal)) ([], {})

/-! ## Submission (R145, R165) -/

/-- Queue a lookup or scatter descriptor, or stall while 64 are queued. -/
def Mach.gthSubmit (m : Mach) (q : Nat) (f : CoreFields) (scatter : Bool) : Mach :=
  let k := q / 16
  if 64 ≤ (m.getGth k).queue.length then m.stall q
  else
    let r := m.lsRead q (off8 ((m.getCore q).sreg f.a)) 64
    let m := r.2
    let d := GthDesc.ofBytes (m.originOf q (m.causeOf (m.getCore q).bind.slot).tag) scatter r.1
    (m.modGth k fun g => { g with queue := g.queue ++ [d] }).advance q

/-- GTH_LOOKUP (R145). -/
def execGthLookup (q : Nat) (f : CoreFields) (s : State) : Host.Outcome State Fault Refusal :=
  .next (s.onMach fun m => m.issue q f 1 0x02 {} fun m => m.gthSubmit q f false)

/-- GTH_SCATTER (R165). -/
def execGthScatter (q : Nat) (f : CoreFields) (s : State) : Host.Outcome State Fault Refusal :=
  .next (s.onMach fun m => m.issue q f 1 0x03 {} fun m => m.gthSubmit q f true)

/-! ## What ends a descriptor -/

/-- Tallies of chapter 03 at a GTH page, whose HEADER_INVALID is event 4 (R172). -/
def Mach.tallyGth (m : Mach) (k : Nat) (t : Tal) : Mach :=
  (((m.event tyGth k 0 t.sat).event tyGth k 1 t.unf).event tyGth k 2 t.special).event tyGth k 4 t.hdr

/-- Take a descriptor into the work in progress. -/
def Mach.gthTake (m : Mach) (k : Nat) (d : GthDesc) (done : Bool) (writes : List Nat) : Mach :=
  m.modGth k fun g => { g with nextId := g.nextId + 1,
                               work := g.work ++ [{ id := g.nextId, desc := d, since := m.now, done := done, writes := writes }] }

/-- Finish a piece of work whose output is whole: its closure counter, and the count of lookups (R151, R172). -/
def Mach.gthFinish (m : Mach) (k : Nat) (w : GthWork) : Mach :=
  let m := m.modGth k fun g =>
    { g with work := g.work.filter fun x => x.id != w.id, lookups := if w.desc.scatter then g.lookups else g.lookups + 1 }
  m.closureAdd k w.desc.closure 1

/-- Finish piece `id` if it is done and no write of it is out. -/
def Mach.gthTryFinish (m : Mach) (k id : Nat) : Mach :=
  match (m.getGth k).work.find? fun w => w.id == id with
  | none => m
  | some w => if w.done && w.writes.isEmpty then m.gthFinish k w else m

/-- What failed reads of a lookup or scatter do to its step (R152). -/
def Mach.gthFailures (m : Mach) (k slot : Nat) (working committed : Bool) (errors : Nat) : Mach :=
  let m := m.event tyGth k 6 errors
  let m := if working then m.readFailed slot .working else m
  if committed then m.readFailed slot .committed else m

/-- Count dropped occurrences: the page, and the drop tally array of the submitting context (R146, R434). -/
def Mach.gthDrops (m : Mach) (k ctx table n last : Nat) : Mach :=
  if n = 0 then m
  else
    ((m.modGth k fun g => { g with dropTable := BitVec.ofNat 12 table, dropIndex := BitVec.ofNat 41 last }).event
      tyGth k 3 n).dropTally ctx table n

/-- Write the output of a lookup as though every bag were empty, where that can be established (R171). -/
def Mach.refusedOutput (m : Mach) (k : Nat) (d : GthDesc) (p : GthPlan) : List Nat × Mach :=
  match d.outFmt?, p.table.width with
  | some f, some width =>
    if d.bagsOk && p.data.isSome && (d.pool != 3 || p.argAt.isSome) then
      let tiles := (outTiles f d.outScale d.bags width fun _ _ => {}).1
      let w := m.causeTag d.org.slot d.org.tag
      let dataParts := match p.data with
        | some (mod, a) => [(mod, a, tiles.flatten)]
        | none => []
      let argParts := match p.argAt with
        | some (mod, a) => if d.pool = 3 then [(mod, a, List.replicate (2 * d.bags * width) 0xFF)] else []
        | none => []
      putAll m k w d.org.slot (dataParts ++ argParts)
    else ([], m)
  | _, _ => ([], m)

/-- Refuse a descriptor (R171). -/
def Mach.gthRefuse (m : Mach) (k : Nat) (d : GthDesc) (p : GthPlan) : Mach :=
  let m := if p.table.failed then m.gthFailures k d.org.slot false true 1 else m
  let m := m.modGth k fun g =>
    { g with refuseTable := BitVec.ofNat 12 d.tableId, refuseReason := BitVec.ofNat 8 p.reason, refuseStep := d.step }
  let m := m.event tyGth k 7
  let r := if d.scatter then ([], m) else m.refusedOutput k d p
  let id := (r.2.getGth k).nextId
  (r.2.gthTake k d true r.1).gthTryFinish k id

/-- Check a descriptor and, where it passes, compute what its start needs. -/
def GthDesc.begin' {α : Type} (d : GthDesc) (j : Job) (slots : Nat) (more : GthPlan → TableDesc → Rd α) :
    Rd (GthPlan × Option (TableDesc × α)) := do
  let p ← d.plan j slots
  match p.reason, p.table.desc with
  | 0, some t => return (p, some (t, ← more p t))
  | _, _ => return (p, none)

/-- Start the first queued descriptor when it is of the kind asked for: check it, refuse it, or go on with what its start
has computed. -/
def Mach.gthStart {α : Type} (m : Mach) (k : Nat) (scatter : Bool) (more : Job → GthDesc → GthPlan → TableDesc → Rd α)
    (go : Mach → GthDesc → TableDesc → α → Mach) : Mach :=
  match (m.getGth k).queue with
  | [] => m
  | d :: rest =>
    if !m.takesWork tyGth k || d.scatter != scatter then m
    else
      match m.job? d.org.slot with
      | none => m
      | some j =>
        let w := m.causeTag d.org.slot d.org.tag
        match m.runRd (.gthStart k) (some w.domain) w (d.begin' j (m.tableSlots j) (more j d)) with
        | (none, m) => m
        | (some (p, x), m) =>
          let m := (m.modGth k fun g => { g with queue := rest }).onFail p.failed d.org.slot .working
          match x with
          | none => m.gthRefuse k d p
          | some (t, a) => go m d t a

/-- LOOKUP_START (R171). -/
def execLookupStart (k : Nat) (s : State) : Host.Outcome State Fault Refusal :=
  .next (s.onTract fun m => m.gthStart k false (fun _ _ _ _ => (pure () : Rd Unit)) fun m d _ _ => m.gthTake k d false [])

/-! ## LOOKUP_COMPLETE (R151) -/

/-- Compute a lookup whole. -/
def GthDesc.lookup (d : GthDesc) (k : Nat) (j : Job) (slots : Nat) : Rd (Option (GthPlan × TableDesc × LookupOut × GtSt)) := do
  let p ← d.plan j slots
  match p.table.desc with
  | none => return none
  | some t =>
    let r ← ((List.range d.bags).foldlM (fun o b => gtBag k j d t p o b) {} : Gt LookupOut).run {}
    return some (p, t, r.1, r.2)

/-- Write the output of a lookup and count what it did (R148 to R154). -/
def Mach.lookupWrite (m : Mach) (k : Nat) (w : GthWork) (p : GthPlan) (t : TableDesc) (o : LookupOut) (s : GtSt) : Mach :=
  let d := w.desc
  let bags := o.bags.toArray
  let vals := (o.bags.map fun b => b.vals.toArray).toArray
  let tiles := match d.outFmt? with
    | some f => outTiles f d.outScale d.bags t.width fun r c => (vals.getD r #[]).getD c {}
    | none => ([], {})
  let clamped := o.bags.foldl (fun (n : Nat) b => n + b.clamped) 0
  let empties := (o.bags.filter (·.empty)).length
  let argBytes := bags.toList.flatMap fun b => b.args.flatMap (leBytes 2)
  let parts := (match p.data with
      | some (mod, a) => [(mod, a, tiles.1.flatten)]
      | none => []) ++
    (match p.argAt with
      | some (mod, a) => if d.pool = 3 then [(mod, a, argBytes)] else []
      | none => [])
  let r := putAll m k (m.causeTag d.org.slot d.org.tag) d.org.slot parts
  let m := r.2.modGth k fun g =>
    { g with rows := g.rows + BitVec.ofNat 48 o.rows, hits := g.hits + BitVec.ofNat 48 o.hits,
             emptyBags := g.emptyBags + BitVec.ofNat 48 empties,
             work := g.work.map fun x => if x.id = w.id then { x with done := true, writes := r.1 } else x }
  let m := (m.thd k none 0x18 o.rows).thd k none 0x19 o.hits
  let m := (m.tallyGth k (o.tal.plus tiles.2)).gthDrops k d.org.ctx t.id o.drops o.lastDrop
  let m := m.modJob d.org.slot fun j =>
    { j with deltas := j.deltas ++ o.deltas.map fun x => (t.id, x.1, x.2),
             rangePool := if clamped ≠ 0 && !j.rangePool.contains t.id then j.rangePool ++ [t.id] else j.rangePool }
  let m := m.event tyGth k 5 clamped
  let m := if clamped = 0 then m else m.abortCond d.org.slot 3
  m.gthFailures k d.org.slot s.working s.committed s.readErrors

/-- Complete lookup `id`: compute and write it, and finish it once every write is complete. -/
def Mach.lookupComplete (m : Mach) (k id : Nat) : Mach :=
  match (m.getGth k).work.find? fun w => w.id == id && !w.desc.scatter with
  | none => m
  | some w =>
    let m := if w.done then m
      else
        match m.job? w.desc.org.slot with
        | none => m
        | some j =>
          let c := m.causeTag w.desc.org.slot w.desc.org.tag
          match m.runRd (.gth k id) (some c.domain) c (w.desc.lookup k j (m.tableSlots j)) with
          | (none, m) => m
          | (some none, m) => m
          | (some (some (p, t, o, s)), m) => m.lookupWrite k w p t o s
    m.gthTryFinish k id

/-- LOOKUP_COMPLETE (R151). -/
def execLookupComplete (k id : Nat) (s : State) : Host.Outcome State Fault Refusal :=
  .next (s.onTract fun m => m.lookupComplete k id)

/-! ## Scatter: contributions (R166) -/

/-- The gradient tensor of a scatter: its tiles as values, the tallies of reading them, and a failed read. -/
structure GradRead where
  tiles : Array (Array Val) := #[]
  tal : Tal := {}
  failed : Bool := false

/-- Values and tallies of one gradient tile; a FORMAT other than that of the first tile, or an invalid header, reads as
zero. -/
def gradTile (code : Nat) (bs : List Byte) : Array Val × Tal :=
  let h := TileHdr.ofWord (leNat (bs.take 8))
  let none' : Array Val × Tal := (#[], { hdr := 1024 })
  if h.format ≠ code then none'
  else
    match tileElems h fun o n => (bs.drop o).take n with
    | none => none'
    | some (f, xs) =>
      let rs := xs.map fun x => f.read x h.s
      ((rs.map (·.1)).toArray, rs.foldl (fun (a : Tal) x => a.plus x.2) {})

/-- Read the tile at an offset whose FORMAT should be `code`: its header, and of its body what the tile takes and no byte beyond (R222,
R225). -/
def readTile (mod a code : Nat) : Rd (List Byte × Bool) := do
  let h ← rdBytes mod a 8
  let hdr := TileHdr.ofWord (leNat h.1)
  if hdr.format ≠ code || hdr.invalid then return h
  else if hdr.dense then
    let b ← rdBytes mod (a + 8) ((hdr.fmt?.map Fmt.tileBytes).getD 0)
    return (h.1 ++ b.1, h.2 || b.2)
  else
    let m ← rdBytes mod (a + 8) 128
    let n := tileExtent hdr (fun _ _ => m.1) - 136
    let v ← rdBytes mod (a + 136) n
    return (h.1 ++ m.1 ++ v.1, h.2 || m.2 || v.2)

/-- Read the gradient tensor of `rows` rows (R166). -/
def readGrad (p : Option (Nat × Nat)) (rows width : Nat) : Rd GradRead := do
  match p with
  | none => return {}
  | some (mod, a) =>
    let n := tileCount rows width
    let h ← rdBytes mod a 8
    let code := (TileHdr.ofWord (leNat h.1)).format
    match strideOf code with
    | none => return { tal := { hdr := 1024 * n }, failed := h.2 }
    | some stride =>
      (List.range n).foldlM (fun (acc : GradRead) i => do
        let r ← readTile mod (a + i * stride) code
        let t := gradTile code r.1
        return { tiles := acc.tiles.push t.1, tal := acc.tal.plus t.2, failed := acc.failed || r.2 }) { failed := h.2 }

/-- Element j of gradient row g. -/
def GradRead.elem (r : GradRead) (width g j : Nat) : Val :=
  let t := g / 32 * ceilDiv width 32 + j / 32
  (r.tiles.getD t #[]).getD (g % 32 * 32 + j % 32) {}

/-- A contribution of one occurrence: table row, its shard, and the values of its elements (none where it gives
nothing). -/
structure Contribution where
  row : Nat
  shard : Shard
  vals : List Val

/-- The shard of a valid occurrence, or none where the occurrence is dropped or sends nothing; the flag says dropped. -/
def gtValid (k : Nat) (j : Job) (slot : Nat) (t : TableDesc) (x : Nat) : Gt (Option Shard × Bool) := do
  let v ← gtRow k j slot t x false
  if v.dropped then return (none, true)
  else return (v.shard, false)

/-- What a scatter forms. -/
structure ScatterOut where
  cs : List Contribution := []
  drops : Nat := 0
  lastDrop : Nat := 0
  tal : Tal := {}
  failed : Bool := false

/-- The contributions of one bag (R166). -/
def gtScatterBag (k : Nat) (j : Job) (d : GthDesc) (t : TableDesc) (p : GthPlan) (g : GradRead) (out : ScatterOut) (b : Nat) :
    Gt ScatterOut := do
  let ps := p.bag d b
  let start := ps.headD 0
  let got ← ps.mapM fun i => do
    let r ← gtValid k j d.org.slot t (p.idx.getD i 0)
    return (i, r)
  let dropped := got.filter fun x => x.2.2
  let n := (got.filter fun x => !x.2.2).length
  let args := p.args.toArray
  let form (i : Nat) : List Val × Bool :=
    let w := Ieee.b32.read (p.wts.getD i 0)
    match d.pool with
    | 3 =>
      let mine (e : Nat) : Bool := args.getD (b * t.width + e) 0xFFFF == i - start
      ((List.range t.width).map fun e => if mine e then g.elem t.width b e else {}, (List.range t.width).any mine)
    | 4 => ((List.range t.width).map fun e => w.val.mul (g.elem t.width b e), true)
    | 2 => ((List.range t.width).map fun e => divN (g.elem t.width b e) n, true)
    | _ => ((List.range t.width).map fun e => g.elem t.width b e, true)
  let cs := got.filterMap fun x =>
    match x.2.1 with
    | none => none
    | some s => let f := form x.1; if f.2 then some { row := p.idx.getD x.1 0, shard := s, vals := f.1 : Contribution } else none
  let wtal := if d.pool = 4 then got.foldl (fun (a : Tal) x => if x.2.2 then a else a.plus (Ieee.b32.read (p.wts.getD x.1 0)).tal) {}
    else {}
  return { out with cs := out.cs ++ cs, drops := out.drops + dropped.length, tal := out.tal.plus wtal,
                    lastDrop := match dropped.getLast? with
                      | some x => p.idx.getD x.1 0
                      | none => out.lastDrop }

/-- The contributions of a CSC source (R166). -/
def gtScatterCsc (k : Nat) (j : Job) (d : GthDesc) (t : TableDesc) (g : GradRead) (out : ScatterOut) (x : Nat × Nat) :
    Gt ScatterOut := do
  let r ← gtValid k j d.org.slot t x.1
  if r.2 then return { out with drops := out.drops + 1, lastDrop := x.1 }
  else
    match r.1 with
    | none => return out
    | some s =>
      let c : Contribution := { row := x.1, shard := s, vals := (List.range t.width).map fun e => g.elem t.width x.2 e }
      return { out with cs := out.cs ++ [c] }

/-- Form every contribution of a scatter whose check passed. -/
def GthDesc.scatterAll (d : GthDesc) (k : Nat) (j : Job) (t : TableDesc) (p : GthPlan) : Rd (ScatterOut × GtSt) := do
  let rows := if d.csc then p.edges else d.bags
  let g ← readGrad p.data rows t.width
  let start : ScatterOut := { tal := g.tal, failed := g.failed }
  (if d.csc then p.pairs.foldlM (fun o x => gtScatterCsc k j d t g o x) start
   else (List.range d.bags).foldlM (fun o b => gtScatterBag k j d t p g o b) start : Gt ScatterOut).run {}

/-! ## The coalescing buffer (R169) -/

/-- Send one RED64_ADD (R391), under the bound on posted adds (R375), and count it in SENT (R308). -/
def Mach.sendRed (m : Mach) (l : Nat) (w : Cause) (slot mod a count : Nat) (words : List (BitVec 64)) : Mach :=
  (m.sendPosted l {
      dst := stationOf mod a, src := 0, tc := 2, op := 0x21, job := w.job, domain := w.domain, tag := w.tag, addr := a,
      len := 8 * words.length, arg := count, data := words.flatMap fun x => leBytes 8 x.toNat }).modJob
    slot fun j => { j with sent := j.sent + 1 }

/-- Send an entry of the buffer: its 64 values, with its count when g = 0. -/
def Mach.sendCoal (m : Mach) (k : Nat) (c : Coal) : Mach :=
  let m := m.sendRed k (m.causeTag c.slot c.tag) c.slot c.module c.addr (if c.seg = 0 then c.count else 0) c.sums
  (m.modGth k fun g => { g with addsSent := g.addsSent + 1 }).thd k none 0x1B 1

/-- Enter one segment's contribution; `evict` names the entry that gives way where none is free. -/
def Mach.coalAdd (m : Mach) (k : Nat) (c : Coal) (evict : Nat) : Mach :=
  let b := (m.getGth k).coal
  let same (x : Coal) : Bool := x.slot == c.slot && x.table == c.table && x.row == c.row && x.seg == c.seg
  if b.any same then
    let grow (x : Coal) : Coal :=
      if same x then { x with sums := List.zipWith (· + ·) x.sums c.sums, count := x.count + c.count } else x
    m.modGth k fun g => { g with coal := g.coal.map grow }
  else if b.length < 64 then m.modGth k fun g => { g with coal := g.coal ++ [c] }
  else
    let i := evict % b.length
    let m := match b[i]? with
      | some x => m.sendCoal k x
      | none => m
    m.modGth k fun g => { g with coal := g.coal.eraseIdx i ++ [c] }

/-- The segments of one contribution (R169), with the clamped elements. -/
def Contribution.segments (c : Contribution) (d : GthDesc) (t : TableDesc) : List Coal × Nat :=
  let ns := c.vals.map fun v => red64Contribution v t.gradExp
  let at' := t.masterAt c.shard c.row
  let seg (g : Nat) : Coal :=
    let part := (ns.drop (64 * g)).take 64
    { slot := d.org.slot, tag := d.org.tag, table := t.id, row := c.row, seg := g, module := c.shard.module, addr := at' + 256 * g,
      sums := (part.map fun n => BitVec.ofInt 64 n.1) ++ List.replicate (64 - part.length) 0, count := 1 }
  ((List.range (ceilDiv t.width 64)).map seg, ns.countP (·.2))

/-- Enter every contribution of a scatter into the buffer; evictions take their entries from the list. -/
def Mach.scatterEnter (m : Mach) (k : Nat) (d : GthDesc) (t : TableDesc) (cs : List Contribution) (evict : List Nat) : Mach :=
  (cs.foldl (fun (acc : Mach × List Nat) c =>
    let s := c.segments d t
    let m := if s.2 = 0 then acc.1
      else
        (acc.1.modJob d.org.slot fun j =>
          { j with rangeGrad := if j.rangeGrad.contains t.id then j.rangeGrad else j.rangeGrad ++ [t.id] }).abortCond d.org.slot 3
    s.1.foldl (fun (acc : Mach × List Nat) x =>
      let full := decide (64 ≤ (acc.1.getGth k).coal.length)
      (acc.1.coalAdd k x (acc.2.headD 0), if full then acc.2.drop 1 else acc.2)) (m, acc.2)) (m, evict)).1

/-- Start a scatter whose check passed: enter its contributions (R166, R169). -/
def Mach.scatterGo (m : Mach) (k : Nat) (evict : List Nat) (d : GthDesc) (t : TableDesc) (r : ScatterOut × GtSt) : Mach :=
  let o := r.1
  let m := (m.modGth k fun g => { g with contributions := g.contributions + BitVec.ofNat 48 o.cs.length }).thd k none 0x1A
    o.cs.length
  let m := (m.tallyGth k o.tal).gthDrops k d.org.ctx t.id o.drops o.lastDrop
  let m := (m.onFail o.failed d.org.slot .working).gthFailures k d.org.slot r.2.working r.2.committed r.2.readErrors
  (m.scatterEnter k d t o.cs evict).gthTake k d true []

/-- SCATTER_START (R166). -/
def execScatterStart (k : Nat) (evict : List Nat) (s : State) : Host.Outcome State Fault Refusal :=
  .next (s.onTract fun m => m.gthStart k true (fun j d p t => d.scatterAll k j t p) fun m d t r => m.scatterGo k evict d t r)

/-- Complete scatter `id`: every entry of the buffer is flushed, and its closure counter rises (R169). -/
def Mach.scatterComplete (m : Mach) (k id : Nat) : Mach :=
  match (m.getGth k).work.find? fun w => w.id == id && w.desc.scatter with
  | none => m
  | some w =>
    let m := (m.getGth k).coal.foldl (fun m c => m.sendCoal k c) m
    (m.modGth k fun g => { g with coal := [] }).gthFinish k w

/-- SCATTER_COMPLETE (R169). -/
def execScatterComplete (k id : Nat) (s : State) : Host.Outcome State Fault Refusal :=
  .next (s.onTract fun m => m.scatterComplete k id)

/-! ## Prefetch (R160, R161) -/

/-- Take the first posted hint into the queue, or discard it where 4,096 are queued (R160). -/
def Mach.prefetchHint (m : Mach) (k : Nat) : Mach :=
  m.modGth k fun g =>
    match g.inHints with
    | [] => g
    | h :: r => { g with inHints := r, hints := if g.hints.length < 4096 then g.hints ++ [h] else g.hints }

/-- PREFETCH_HINT (R160). -/
def execPrefetchHint (k : Nat) (s : State) : Host.Outcome State Fault Refusal :=
  .next (s.onTract fun m => m.prefetchHint k)

/-- What a prefetch of a row finds: the row's bytes, or nothing worth keeping; with what failed (R152). -/
def prefetchRead (j : Job) (t : TableDesc) (x : Nat) : Rd (Option RowBytes × GtSt) := do
  (do
    if t.rows ≤ x then return none
    else
      match ← gtDirectory t x with
      | none => return none
      | some (s, e) => if e.tomb || e.staked then return none else gtRowBytes j t x s e : Gt (Option RowBytes)).run {}

/-- The first table of a hint that may be fetched now: a FROZEN one at once, any other when the job executes the hint's
step (R160); with the descriptors read. -/
def hintReady (j : Job) (slots : Nat) (h : Hint) : Rd (Option TableDesc) := do
  let ts ← h.tables.mapM fun t => readTable j slots j.ctx t
  return (ts.filterMap (·.desc)).find? fun t => t.frozen || j.step == h.step

/-- The first hint of a queue that may be fetched now, with its table and row (R160). -/
def firstReady (j : Job) (slots : Nat) : List (Nat × Hint) → Rd (Option (Nat × Hint × TableDesc))
  | [] => pure none
  | (i, h) :: r => do
    match ← hintReady j slots h with
    | some t => return some (i, h, t)
    | none => firstReady j slots r

/-- Bytes held in the prefetch area. -/
def Gth.areaBytes (g : Gth) : Nat := g.area.foldl (fun (n : Nat) p => n + p.bytes.length) 0

/-- Make room for n bytes by evicting the row at an index, again and again (R161). -/
def evictFor (cap n evict : Nat) : Nat → List Prefetched → List Prefetched
  | 0, a => a
  | fuel + 1, a =>
    if a.foldl (fun (n : Nat) p => n + p.bytes.length) 0 + n ≤ cap || a.isEmpty then a
    else evictFor cap n evict fuel (a.eraseIdx (evict % a.length))

/-- The first of a job's hints that is ready, with its place in the queue, its table and what its row holds (R160). -/
def prefetchLook (j : Job) (slot slots : Nat) (hs : List Hint) : Rd (Option (Nat × Hint × TableDesc × Option RowBytes × GtSt)) := do
  match ← firstReady j slots ((List.range hs.length).zip hs |>.filter fun h => h.2.slot == slot) with
  | none => return none
  | some (i, h, t) => return some (i, h, t, ← prefetchRead j t h.row)

/-- Keep a fetched row in the prefetch area, evicting rows where it does not fit (R161). -/
def Gth.keepRow (g : Gth) (p : Prefetched) (cap evict : Nat) : Gth :=
  let area := evictFor cap p.bytes.length evict g.area.length g.area
  if p.bytes.length ≤ cap then { g with area := area ++ [p] } else g

/-- Fetch the row of the first hint that is ready, and keep it in the prefetch area (R160, R161). -/
def Mach.prefetchFetch (m : Mach) (k evict : Nat) : Mach :=
  match m.slotOfCluster k with
  | none => m
  | some slot =>
    match m.job? slot with
    | none => m
    | some j =>
      match m.runRd (.prefetch k) (some j.domain) (m.causeOf slot) (prefetchLook j slot (m.tableSlots j) (m.getGth k).hints) with
      | (none, m) => m
      | (some none, m) => m
      | (some (some (i, h, t, b, s)), m) =>
        (m.gthFailures k slot s.working s.committed s.readErrors).modGth k fun g =>
          let rest := { h with tables := h.tables.filter (· != t.id) }
          let g := { g with hints := if rest.tables.isEmpty then g.hints.eraseIdx i else g.hints.set i rest }
          match b with
          | none => g
          | some b =>
            g.keepRow { slot := slot, table := t.id, version := t.version, row := h.row, frozen := t.frozen, master := b.master,
                        cls := b.cls, bytes := b.bytes } ((m.getClu k).prefetchKib.toNat * 1024) evict

/-- PREFETCH_FETCH (R160). -/
def execPrefetchFetch (k evict : Nat) (s : State) : Host.Outcome State Fault Refusal :=
  .next (s.onTract fun m => m.prefetchFetch k evict)

end Sys2Proof.Machine
end

