-- ==== Sys2Proof/Machine/Sparse.lean ====
section
/-!
DEFINITION. Segment mode of the sparse engine (R235 to R245): descriptors, segments and their contributions, forwarding of
heavy rows, and FINISH. SSEG, SEGMENT_START, FORWARDED_SEGMENT, SEGMENT_REPORT, AGGREGATE_COMPLETE and FINISH_COMPLETE are
the commands.
-/
namespace Sys2Proof.Machine

/-! ## Descriptors (R235) -/

/-- The segment descriptor that 64 bytes spell. -/
def SegDesc.ofBytes (core ctx slot : Nat) (tag : BitVec 16) (bs : List Byte) : SegDesc :=
  let n (o k : Nat) : Nat := leNat ((bs.drop o).take k)
  let hi (o : Nat) : Bool := n o 8 / 2 ^ 48 != 0
  { core := core, ctx := ctx, slot := slot, tag := tag, kind := n 0 1, flags := n 1 1, width := n 2 2 % 2 ^ 13,
    closure := n 4 1, format := n 5 1 % 16, outScale := sgn 8 (n 6 1), rowFirst := n 8 8 % 2 ^ 40, rows := n 0x10 4 % 2 ^ 25,
    reduce := n 0x14 4, offsets := n 0x18 8 % 2 ^ 48, columns := n 0x20 8 % 2 ^ 48, edgeValues := n 0x28 8 % 2 ^ 48,
    data := n 0x30 8 % 2 ^ 48, sums := n 0x38 8 % 2 ^ 48,
    bad := n 1 1 / 16 != 0 || n 2 2 / 2 ^ 13 != 0 || n 5 1 / 16 != 0 || n 7 1 != 0 || n 8 8 / 2 ^ 40 != 0 || n 0x10 4 / 2 ^ 25 != 0 ||
      hi 0x18 || hi 0x20 || hi 0x28 || hi 0x30 || hi 0x38 }

/-- Bytes of a row offset. -/
def SegDesc.offBytes (d : SegDesc) : Nat := if bitAt d.flags 0 then 8 else 4
/-- CSC -/
def SegDesc.csc (d : SegDesc) : Bool := bitAt d.flags 1
/-- EDGE_VAL -/
def SegDesc.edgeVal (d : SegDesc) : Bool := bitAt d.flags 2
/-- Bytes of an entry of COLUMNS. -/
def SegDesc.colBytes (d : SegDesc) : Nat := if d.csc then 8 else 4
/-- Bytes of an edge value. -/
def SegDesc.valBytes (d : SegDesc) : Nat := if bitAt d.flags 3 then 4 else 2
/-- Bytes between records of the sum array (R237). -/
def SegDesc.pitch (d : SegDesc) : Nat := 64 * ceilDiv (8 * (d.width + 1)) 64
/-- The four formats of R235. -/
def SegDesc.fmt? (d : SegDesc) : Option Fmt :=
  match d.format with
  | 0 => some .l8
  | 1 => some .l16
  | 3 => some .f16
  | 4 => some .f32
  | _ => none

/-! ## The check (R245) -/

/-- Does an array of a descriptor translate? -/
def SegDesc.maps (d : SegDesc) (m : Mach) (p : Perm) (a n : Nat) : Bool := (m.xlate d.ctx p a n).isSome

/-- The part of R245's reason 1 that reads nothing: an array is one access from its base (R370). The columns and edge values are known
by their first entry, and a feature tensor, whose extent no field gives, by its first row of tiles (DEDUCED; R244 treats a later
tile that does not translate). -/
def SegDesc.basesMap (d : SegDesc) (m : Mach) : Bool :=
  let last := d.rowFirst + d.rows
  let stride := (d.fmt?.map Fmt.stride).getD 8
  if d.kind = 1 then
    d.maps m .read d.sums (last * d.pitch) && d.maps m .write d.data (tileCount d.rows d.width * stride)
  else
    d.maps m .read d.offsets ((last + 1) * d.offBytes) && d.maps m .read d.columns d.colBytes &&
      d.maps m .add d.sums (last * d.pitch) && d.maps m .read d.data (ceilDiv d.width 32 * stride) &&
      (!d.edgeVal || d.maps m .read d.edgeValues d.valBytes)

/-- Do the arrays of an AGGREGATE whose length its offsets give translate, and could the offsets be read (R245)? -/
def SegDesc.edgesMap (d : SegDesc) : Rd (Bool × Bool) := do
  let m := (← get).m
  match m.xlate d.ctx .read d.offsets ((d.rowFirst + d.rows + 1) * d.offBytes) with
  | none => return (false, false)
  | some p =>
    let r ← rdBytes p.1 (p.2 + d.rowFirst * d.offBytes) ((d.rows + 1) * d.offBytes)
    let edges := listMax (splitLe d.offBytes (d.rows + 1) r.1)
    return (d.maps m .read d.columns (edges * d.colBytes) && (!d.edgeVal || d.maps m .read d.edgeValues (edges * d.valBytes)), r.2)

/-- The reason a descriptor is refused for by what it says alone, 0 where there is none (R245). -/
def SegDesc.shapeCheck (d : SegDesc) (m : Mach) (reduces : Nat) : Nat :=
  if !d.basesMap m then 1
  else if d.width = 0 || 4096 < d.width || d.rows = 0 || 16777216 < d.rows || d.bad then 2
  else if 1 < d.kind || d.fmt?.isNone || (d.kind == 1 && d.flags != 0) then 3
  else if reduces ≤ d.reduce then 4 else 0

/-- The reason a descriptor is refused for, 0 where it is not (R245), and whether an offset could not be read. The offsets are read
only where nothing else refuses the descriptor. -/
def SegDesc.check (d : SegDesc) (reduces : Nat) : Rd (Nat × Bool) := do
  let why := d.shapeCheck (← get).m reduces
  if why ≠ 0 || d.kind = 1 then return (why, false)
  else
    let t ← d.edgesMap
    return (if t.1 || t.2 then 0 else 1, t.2)

/-! ## A segment (R236, R238, R244) -/

/-- What one segment of one row gives. -/
structure SegOut where
  /-- the row's degree is negative, and the number of its segments -/
  invalidRow : Bool := false
  segs : Nat := 0
  degree : Nat := 0
  parts : List Int := []
  clamps : Nat := 0
  invalid : Nat := 0
  errors : Nat := 0
  tal : Tal := {}

/-- A run of elements of w bytes at an offset of a module, read granule by granule: each pattern, none where its granule failed its
second read. -/
def readElems (mod a w n : Nat) : Rd (List (Option Nat)) := do
  let bytes ← (List.range (granules a (n * w))).foldlM (fun (acc : List (Option Byte)) i => do
    let lo := max a ((a / 64 + i) * 64)
    let k := min (a + n * w) ((a / 64 + i + 1) * 64) - lo
    let r ← rdBytes mod lo k
    return acc ++ r.1.map fun b => if r.2 then none else some b) []
  return (List.range n).map fun i =>
    let bs := (bytes.drop (i * w)).take w
    if bs.contains none then none else some (leNat (bs.filterMap id))

/-- What one tile gives of a row of the feature tensor: the value of each column, none where its read failed twice, and tallies. -/
structure TileRow where
  vals : List (Option Val)
  tal : Tal := {}

/-- Elements 0 to `cols` - 1 of row r of the tile at an offset (R57, R222 to R224, R236, R244): of a dense tile the row, of a sparse one
the bitmap and the row's packed values are read. -/
def readTileRow (f : Fmt) (mod a r cols : Nat) : Rd TileRow := do
  let zero : TileRow := { vals := List.replicate cols (some ({} : Val)), tal := { hdr := cols } }
  let lost : TileRow := { vals := List.replicate cols none }
  let w := f.bits / 8
  let hb ← rdBytes mod a 8
  let h := TileHdr.ofWord (leNat hb.1)
  let value (x : Option Nat) : Option (Val × Tal) := x.map fun b => f.read b h.s
  let row (xs : List (Option Nat)) : TileRow :=
    let vs := xs.map value
    { vals := vs.map fun v => v.map (·.1), tal := (vs.filterMap id).foldl (fun (t : Tal) v => t.plus v.2) {} }
  if hb.2 then return lost
  else if h.format ≠ f.toCode || h.invalid then return zero
  else if h.dense then return row (← readElems mod (a + 8 + 32 * r * w) w cols)
  else
    let mb ← rdBytes mod (a + 8) 128
    let bits := bitmapBits mb.1
    let before := (bits.take (32 * r)).countP id
    let mine := (bits.drop (32 * r)).take 32
    if mb.2 then return lost
    else if sparseMax f < bits.countP id then return zero
    else
      let xs ← readElems mod (a + 136 + before * w) w (mine.countP id)
      let place (b : Bool × Nat) : Option Nat := if b.1 then xs.getD ((mine.take b.2).countP id) (some 0) else some 0
      return row (((mine.zip (List.range 32)).take cols).map place)

/-- Row x of the feature tensor, one tile after another (R236): values, tallies, and whether some tile does not translate. -/
def featureRow (d : SegDesc) (f : Fmt) (x : Nat) : Rd (List (Option Val) × Tal × Bool) := do
  let m := (← get).m
  let nc := ceilDiv d.width 32
  (List.range nc).foldlM (fun (acc : List (Option Val) × Tal × Bool) t => do
    let cols := min 32 (d.width - 32 * t)
    match m.xlate d.ctx .read (d.data + (x / 32 * nc + t) * f.stride) f.stride with
    | none => return (acc.1 ++ List.replicate cols (some ({} : Val)), acc.2.1, true)
    | some p =>
      let r ← readTileRow f p.1 p.2 (x % 32) cols
      return (acc.1 ++ r.vals, acc.2.1.plus r.tal, acc.2.2)) ([], {}, false)

/-- The terms of one edge: the integers of its columns at exponent E, with clamps and with terms that could not be read. -/
structure EdgeTerm where
  ns : List Int := []
  clamps : Nat := 0
  invalid : Bool := false
  errors : Nat := 0
  tal : Tal := {}

/-- The terms of edge e (R236, R238): a term whose read failed twice is zero, and counted (R244). -/
def edgeTerm (d : SegDesc) (f : Fmt) (E : Int) (e : Nat) : Rd EdgeTerm := do
  let m := (← get).m
  match m.xlate d.ctx .read (d.columns + e * d.colBytes) d.colBytes with
  | none => return { invalid := true }
  | some cp =>
    let c ← rdBytes cp.1 cp.2 d.colBytes
    let raw := leNat c.1
    let x := raw % 2 ^ 32
    let k := if d.csc then raw / 2 ^ 32 else e
    let vp := m.xlate d.ctx .read (d.edgeValues + k * d.valBytes) d.valBytes
    let v ← match d.edgeVal, vp with
      | true, some p => rdBytes p.1 p.2 d.valBytes
      | _, _ => pure ([], false)
    let a : Val × Tal := if d.edgeVal then (if d.valBytes = 4 then Fmt.f32 else Fmt.l16).read (leNat v.1) 0
      else (Val.ofInt 1 0, {})
    let row ← featureRow d f x
    if c.2 || v.2 then return { errors := d.width }
    else if row.2.2 || (d.edgeVal && vp.isNone) then return { invalid := true }
    else
      let ns := row.1.map fun y => match y with
        | some y => red64Contribution (a.1.mul y) E
        | none => (0, false)
      return { ns := ns.map (·.1), clamps := ns.countP (·.2), errors := row.1.countP (·.isNone), tal := a.2.plus row.2.1 }

/-- Clamp an integer to ±(2^47 - 1) (R238). -/
def clampPart (n : Int) : Int × Bool := clamp47 n

/-- Segment g of row i, with the row's offsets read first (R238, R244). With `here` false only the offsets are used. -/
def segment (d : SegDesc) (E : Int) (i g : Nat) (here : Nat → Nat → Bool) : Rd SegOut := do
  let m := (← get).m
  match m.xlate d.ctx .read (d.offsets + i * d.offBytes) (2 * d.offBytes), d.fmt? with
  | some p, some f =>
    let r ← rdBytes p.1 p.2 (2 * d.offBytes)
    let a := leNat (r.1.take d.offBytes)
    let b := leNat (r.1.drop d.offBytes)
    if r.2 then return { errors := 1 }
    else if b < a then return { invalidRow := true }
    else
      let deg := b - a
      let out : SegOut := { segs := ceilDiv deg 4096, degree := deg }
      if !here deg g || out.segs ≤ g then return out
      else
        let lo := a + 4096 * g
        let hi := min b (lo + 4096)
        let zero : List Int := List.replicate d.width 0
        let sum ← (List.range (hi - lo)).foldlM (fun (acc : SegOut) t => do
          let x ← edgeTerm d f E (lo + t)
          return { acc with parts := if x.ns.isEmpty then acc.parts else List.zipWith (· + ·) acc.parts x.ns,
                            clamps := acc.clamps + x.clamps, invalid := acc.invalid + b2n x.invalid,
                            errors := acc.errors + x.errors, tal := acc.tal.plus x.tal }) { out with parts := zero }
        let parts := sum.parts.map clampPart
        return { sum with parts := parts.map (·.1), clamps := sum.clamps + parts.countP (·.2) }
  | _, _ => return {}

/-! ## Contributions and their adds (R237, R238) -/

/-- Key by which an AGGREGATE knows one of its posted adds. -/
def redKey (src dst : Nat) (seq : BitVec 32) : Nat := 2 ^ 128 + (src * 2 ^ 24 + dst) * 2 ^ 32 + seq.toNat

/-- Send the words of one contribution from cluster k: as many RED64_ADD packets as 512-byte blocks they touch; answers their source and
destination stations and SEQs. -/
def Mach.sendRecord (m : Mach) (k : Nat) (w : Cause) (slot mod a : Nat) (words : List (BitVec 64)) :
    List (Nat × Nat × BitVec 32) × Mach :=
  (pieces a (8 * words.length)).foldl (fun (acc : List (Nat × Nat × BitVec 32) × Mach) p =>
    let dst := stationOf mod p.1
    let src := acc.2.station k
    let seq := Tab.get 0 acc.2.flowSeq ((src * 2 ^ 24 + dst) * 4 + 2)
    let part := (words.drop ((p.1 - a) / 8)).take (p.2 / 8)
    (acc.1 ++ [(src, dst, seq)], acc.2.sendRed k w slot mod p.1 1 part)) ([], m)

/-- Change a descriptor in progress. -/
def Mach.modSeg (m : Mach) (k id : Nat) (g : SegWork → SegWork) : Mach :=
  m.modSpr k fun e => { e with work := e.work.map fun w => if w.id = id then g w else w }

/-- Mark a reduction GRAD_RANGE (R79). -/
def Mach.markReduce (m : Mach) (slot i : Nat) : Mach :=
  (m.modJob slot fun j =>
    { j with rangeReduce := if j.rangeReduce.contains i then j.rangeReduce else j.rangeReduce ++ [i] }).abortCond slot 3

/-- Take what a processed segment gives: the adds, the tallies on the pages of the engine that processed it and of the
issuing core (R73, R236, R238, R244). `k` processed it; descriptor `id` of cluster `origin` waits for its adds. -/
def Mach.segTake (m : Mach) (k origin id : Nat) (d : SegDesc) (i : Nat) (o : SegOut) : Mach :=
  let m := (m.modSpr k fun e => { e with segments := e.segments + 1 }).thd k none 0x21 1
  let m := ((m.event tySpr k 3 o.clamps).event tySpr k 4 o.invalid).event tySpr k 5 o.errors
  let m := m.tally tyCor d.core o.tal
  let m := if o.clamps = 0 then m else m.markReduce d.slot d.reduce
  let m := if o.errors = 0 then m else m.readFailed d.slot .working
  match m.xlate d.ctx .add (d.sums + i * d.pitch) d.pitch with
  | none => m
  | some p =>
    let words := (1 : BitVec 64) :: o.parts.map (BitVec.ofInt 64)
    let r := m.sendRecord k (m.causeTag d.slot d.tag) d.slot p.1 p.2 words
    let near := r.1.filter fun x => x.2.1 / 8192 == m.self
    r.2.modSeg origin id fun w =>
      { w with writes := w.writes ++ near.map fun x => redKey x.1 x.2.1 x.2.2,
               far := w.far ++ r.1.filter fun x => x.2.1 / 8192 != m.self }

/-! ## SSEG -/

/-- Queue a segment descriptor; stall while 16 are queued or the engine accepts no work (R36, R235). -/
def Mach.sseg (m : Mach) (q : Nat) (f : CoreFields) : Mach :=
  let k := q / 16
  if 16 ≤ (m.getSpr k).queue.length || !m.takesWork tySpr k then m.stall q
  else
    let r := m.lsRead q (off8 ((m.getCore q).sreg f.b)) 64
    let m := r.2
    let c := m.getCore q
    let d := SegDesc.ofBytes q c.bind.ctx c.bind.slot (m.causeOf c.bind.slot).tag r.1
    (m.modSpr k fun e => { e with queue := e.queue ++ [d] }).advance q

/-- SSEG (R235). -/
def execSseg (q : Nat) (f : CoreFields) (s : State) : Host.Outcome State Fault Refusal :=
  .next (s.onMach fun m => m.issue q f 4 0x00 {} fun m => m.sseg q f)

/-! ## SEGMENT_START (R240, R241, R245) -/

/-- Exponent of a descriptor's sums. -/
def Mach.segExp (m : Mach) (d : SegDesc) : Int :=
  match m.job? d.slot with
  | some j => (m.reduceDesc j d.reduce).exp
  | none => 0

/-- The engine that processes segment g of a row of a degree, by the spread list of cluster k (R240). -/
def Spr.target (e : Spr) (k degree g : Nat) : Nat :=
  if e.heavy.toNat ≤ degree && e.count.toNat != 0 then e.spread.getD ((e.pos.toNat + g) % e.count.toNat) k else k

/-- The next segment of a descriptor in progress; answers whether the engine can go on. -/
def Mach.segOne (m : Mach) (k id : Nat) : Bool × Mach :=
  match (m.getSpr k).work.find? fun w => w.id == id with
  | none => (false, m)
  | some w =>
    let d := w.desc
    if w.computed then (false, m)
    else if d.rows ≤ w.nextRow then (false, m.modSeg k id fun w => { w with computed := true })
    else
      let i := d.rowFirst + w.nextRow
      let c := m.causeTag d.slot d.tag
      let e := m.getSpr k
      let nextRow (m : Mach) : Mach := m.modSeg k id fun w => { w with nextRow := w.nextRow + 1, nextSeg := 0 }
      match m.runRd (.spr k id) (some c.domain) c (segment d (m.segExp d) i w.nextSeg fun deg g => e.target k deg g == k) with
      | (none, m) => (false, m)
      | (some o, m) =>
        if o.invalidRow then (true, nextRow (m.event tySpr k 4))
        else if o.errors ≠ 0 && o.segs = 0 then (true, nextRow ((m.event tySpr k 5).readFailed d.slot .working))
        else if o.segs ≤ w.nextSeg then (true, nextRow m)
        else
          let t := e.target k o.degree w.nextSeg
          let sent := w.nextSeg = 0 && (List.range o.segs).any fun g => e.target k o.degree g != k
          if t = k then
            let m := (m.event tySpr k 2 (b2n sent)).segTake k k id d i o
            (true, m.modSeg k id fun w => { w with nextSeg := w.nextSeg + 1 })
          else if 1024 ≤ (m.getSpr t).fwd.length || !m.takesWork tySpr t then (false, m)
          else
            let m := m.event tySpr k 2 (b2n sent)
            let m := m.modSpr t fun x => { x with fwd := x.fwd ++ [{ origin := k, id := id, desc := d, row := i, seg := w.nextSeg }] }
            let m := m.modSpr k fun x => { x with forwarded := x.forwarded + 1 }
            (true, m.modSeg k id fun w => { w with nextSeg := w.nextSeg + 1, fwdOut := w.fwdOut + 1 })

/-- Process a descriptor in progress until it is done, a fetch is missing, or a target's queue is full or takes no work. -/
def Mach.segLoop (k id : Nat) : Nat → Mach → Mach
  | 0, m => m
  | fuel + 1, m =>
    let r := m.segOne k id
    if r.1 then Mach.segLoop k id fuel r.2 else r.2

/-- More segments than any descriptor has: 2^24 rows of fewer than 2^53 segments. -/
abbrev segFuel : Nat := 2 ^ 80

/-- Refuse a descriptor (R245). -/
def Mach.segRefuse (m : Mach) (k : Nat) (d : SegDesc) (why : Nat) : Mach :=
  ((m.modSpr k fun e => { e with refuse := BitVec.ofNat 8 why }).event tySpr k 6).closureAdd k d.closure 1

/-- The sum array of an AGGREGATE, where it lies on this module, is known as RED64 sites (R237). -/
def Mach.noteRecords (m : Mach) (d : SegDesc) : Mach :=
  match m.xlate d.ctx .add d.sums ((d.rowFirst + d.rows) * d.pitch) with
  | some p =>
    let r : RecordArray := { reduce := d.reduce, base := p.2, pitch := d.pitch, rows := d.rowFirst + d.rows }
    if p.1 = m.self then m.modJob d.slot fun j =>
      { j with recordArrays := if j.recordArrays.contains r then j.recordArrays else j.recordArrays ++ [r] }
    else m
  | none => m

/-- Go on with the AGGREGATE in progress, or start the first queued descriptor (R245). -/
def Mach.segmentStart (m : Mach) (k : Nat) : Mach :=
  match (m.getSpr k).work.find? fun w => !w.computed && w.desc.kind == 0 with
  | some w => Mach.segLoop k w.id segFuel m
  | none =>
    match (m.getSpr k).queue with
    | [] => m
    | d :: rest =>
      if !m.takesWork tySpr k then m
      else
        match m.job? d.slot with
        | none => m
        | some j =>
          let c := m.causeTag d.slot d.tag
          match m.runRd (.sprStart k) (some c.domain) c (d.check (m.jobHdr j).reduces) with
          | (none, m) => m
          | (some (why, failed), m) =>
            let m := (m.modSpr k fun e => { e with queue := rest }).onFail failed d.slot .working
            let m := if failed then m.event tySpr k 5 else m
            if why ≠ 0 then m.segRefuse k d why
            else
              let id := (m.getSpr k).nextId
              let m := m.modSpr k fun e =>
                { e with nextId := id + 1, work := e.work ++ [{ id := id, desc := d, nextRow := 0, since := m.now }] }
              if d.kind = 0 then Mach.segLoop k id segFuel (m.noteRecords d) else m

/-- SEGMENT_START (R245). -/
def execSegmentStart (k : Nat) (s : State) : Host.Outcome State Fault Refusal :=
  .next (s.onTract fun m => m.segmentStart k)

/-! ## Forwarded segments (R241, R242) -/

/-- Process the first forwarded segment in the origin's context. -/
def Mach.forwarded (m : Mach) (k : Nat) : Mach :=
  match (m.getSpr k).fwd with
  | [] => m
  | x :: rest =>
    let c := m.causeTag x.desc.slot x.desc.tag
    match m.runRd (.sprFwd k) (some c.domain) c (segment x.desc (m.segExp x.desc) x.row x.seg fun _ _ => true) with
    | (none, m) => m
    | (some o, m) =>
      let m := m.modSpr k fun e => { e with fwd := rest, reports := e.reports ++ [(x.origin, x.id)] }
      m.segTake k x.origin x.id x.desc x.row o

/-- FORWARDED_SEGMENT (R241). -/
def execForwardedSegment (k : Nat) (s : State) : Host.Outcome State Fault Refusal :=
  .next (s.onTract fun m => m.forwarded k)

/-- Report the first completed forwarded segment to its origin (R242). -/
def Mach.segReport (m : Mach) (k : Nat) : Mach :=
  match (m.getSpr k).reports with
  | [] => m
  | r :: rest =>
    (m.modSpr k fun e => { e with reports := rest }).modSeg r.1 r.2 fun w => { w with fwdOut := w.fwdOut - 1 }

/-- SEGMENT_REPORT (R242). -/
def execSegmentReport (k : Nat) (s : State) : Host.Outcome State Fault Refusal :=
  .next (s.onTract fun m => m.segReport k)

/-- Complete an AGGREGATE whose adds are all applied, those at other modules included, and whose forwarded segments are all reported
(R242). -/
def Mach.aggregateComplete (m : Mach) (k id : Nat) : Mach :=
  match (m.getSpr k).work.find? fun w => w.id == id && w.desc.kind == 0 with
  | none => m
  | some w =>
    if w.computed && w.fwdOut == 0 && w.writes.isEmpty && w.far.all (fun x => Config.appliedBy x.1 x.2.1 x.2.2 m.now) then
      (m.modSpr k fun e => { e with work := e.work.filter fun x => x.id != id }).closureAdd k w.desc.closure 1
    else m

/-- AGGREGATE_COMPLETE (R242). -/
def execAggregateComplete (k id : Nat) (s : State) : Host.Outcome State Fault Refusal :=
  .next (s.onTract fun m => m.aggregateComplete k id)

/-! ## FINISH (R243) -/

/-- The records of a FINISH: contribution count and sums of each row; failed reads. -/
def readRecords (d : SegDesc) : Rd (List (Nat × List Int) × Nat) := do
  let m := (← get).m
  (List.range d.rows).foldlM (fun (acc : List (Nat × List Int) × Nat) i => do
    match m.xlate d.ctx .read (d.sums + (d.rowFirst + i) * d.pitch) d.pitch with
    | none => return (acc.1 ++ [(0, [])], acc.2)
    | some p =>
      let r ← rdBytes p.1 p.2 (8 * (d.width + 1))
      let ws := words8 r.1
      return (acc.1 ++ [(ws.headD 0, (ws.drop 1).map fun x => sgn 64 x)], acc.2 + b2n r.2)) ([], 0)

/-- Complete FINISH `id`: convert and write its tiles, and raise CLOSURE once every one is written (R243). -/
def Mach.finishComplete (m : Mach) (k id : Nat) : Mach :=
  match (m.getSpr k).work.find? fun w => w.id == id && w.desc.kind == 1 with
  | none => m
  | some w =>
    let d := w.desc
    let m :=
      if w.computed then m
      else
        let c := m.causeTag d.slot d.tag
        match m.runRd (.spr k id) (some c.domain) c (readRecords d) with
        | (none, m) => m
        | (some (rs, errors), m) =>
          let E := m.segExp d
          let past (n : Int) : Bool := decide (2 ^ 62 < n.natAbs)
          let marked := rs.filter fun r => r.2.any past
          let counts := rs.any fun r => decide (65536 < r.1)
          let ca := (rs.map (·.1)).toArray
          let m := (m.event tySpr k 3 marked.length).event tySpr k 5 errors
          let m := if errors = 0 then m else m.readFailed d.slot .working
          let m := if marked.isEmpty && !counts then m else m.markReduce d.slot d.reduce
          let ra := (rs.map fun r => r.2.toArray).toArray
          let value (r j : Nat) : Val :=
            let n := (ra.getD r #[]).getD j 0
            Val.ofInt (if past n || decide (65536 < ca.getD r 0) then Config.markedSum (d.sums + (d.rowFirst + r) * d.pitch + 8 * j) else n) E
          match d.fmt?, m.xlate d.ctx .write d.data (tileCount d.rows d.width * ((d.fmt?.map Fmt.stride).getD 8)) with
          | some f, some p =>
            let o := outTiles f d.outScale d.rows d.width value
            let m := m.tally tyCor d.core o.2
            let r := m.putBytes k (m.causeTag d.slot d.tag) d.slot p.1 p.2 o.1.flatten
            r.2.modSeg k id fun w => { w with computed := true, writes := r.1 }
          | _, _ => m.modSeg k id fun w => { w with computed := true }
    match (m.getSpr k).work.find? fun w => w.id == id with
    | none => m
    | some w =>
      if w.computed && w.writes.isEmpty then
        (m.modSpr k fun e => { e with work := e.work.filter fun x => x.id != id }).closureAdd k d.closure 1
      else m

/-- FINISH_COMPLETE (R243). -/
def execFinishComplete (k id : Nat) (s : State) : Host.Outcome State Fault Refusal :=
  .next (s.onTract fun m => m.finishComplete k id)

end Sys2Proof.Machine
end

