-- ==== Sys2Proof/Machine/VecOps.lean ====
section
/-!
DEFINITION. What the vector engine computes on lanes (chapter 10): masks, binary32 and int32 operations, the exact
algorithms of R268 to R273 with their tables, segment reductions, shuffles, packing and conversions.
-/
namespace Sys2Proof.Machine

/-! ## Tables and constants of R269, formed from their definitions -/

/-- Entries 0 to 63 of ex of R269: round(2^(j/256) × 2^30). -/
def exPart0 : List Nat := [
  1073741824, 1076653033, 1079572136, 1082499153, 1085434106, 1088377016, 1091327906, 1094286796,
  1097253708, 1100228665, 1103211687, 1106202798, 1109202018, 1112209370, 1115224875, 1118248556,
  1121280436, 1124320536, 1127368878, 1130425485, 1133490379, 1136563583, 1139645120, 1142735011,
  1145833280, 1148939949, 1152055042, 1155178580, 1158310587, 1161451085, 1164600099, 1167757650,
  1170923762, 1174098458, 1177281762, 1180473697, 1183674286, 1186883552, 1190101520, 1193328213,
  1196563654, 1199807867, 1203060876, 1206322705, 1209593378, 1212872918, 1216161350, 1219458698,
  1222764986, 1226080238, 1229404479, 1232737732, 1236080024, 1239431376, 1242791816, 1246161366,
  1249540052, 1252927899, 1256324931, 1259731174, 1263146652, 1266571390, 1270005413, 1273448747]

/-- Entries 64 to 127 of ex of R269: round(2^(j/256) × 2^30). -/
def exPart1 : List Nat := [
  1276901417, 1280363448, 1283834865, 1287315695, 1290805962, 1294305692, 1297814910, 1301333643,
  1304861917, 1308399756, 1311947188, 1315504238, 1319070932, 1322647296, 1326233356, 1329829140,
  1333434672, 1337049980, 1340675091, 1344310030, 1347954824, 1351609500, 1355274085, 1358948606,
  1362633090, 1366327563, 1370032052, 1373746586, 1377471191, 1381205894, 1384950723, 1388705706,
  1392470869, 1396246240, 1400031848, 1403827719, 1407633882, 1411450365, 1415277195, 1419114401,
  1422962010, 1426820052, 1430688553, 1434567544, 1438457051, 1442357104, 1446267730, 1450188960,
  1454120821, 1458063343, 1462016553, 1465980482, 1469955159, 1473940611, 1477936870, 1481943963,
  1485961921, 1489990772, 1494030547, 1498081275, 1502142985, 1506215708, 1510299473, 1514394310]

/-- Entries 128 to 191 of ex of R269: round(2^(j/256) × 2^30). -/
def exPart2 : List Nat := [
  1518500250, 1522617322, 1526745556, 1530884983, 1535035634, 1539197537, 1543370725, 1547555228,
  1551751076, 1555958300, 1560176931, 1564406999, 1568648537, 1572901575, 1577166143, 1581442275,
  1585730000, 1590029350, 1594340357, 1598663052, 1602997467, 1607343634, 1611701585, 1616071351,
  1620452965, 1624846459, 1629251865, 1633669214, 1638098541, 1642539877, 1646993254, 1651458706,
  1655936265, 1660425963, 1664927835, 1669441912, 1673968228, 1678506817, 1683057710, 1687620943,
  1692196547, 1696784557, 1701385007, 1705997930, 1710623359, 1715261330, 1719911875, 1724575029,
  1729250827, 1733939301, 1738640488, 1743354420, 1748081133, 1752820662, 1757573041, 1762338305,
  1767116489, 1771907628, 1776711757, 1781528911, 1786359126, 1791202437, 1796058879, 1800928489]

/-- Entries 192 to 255 of ex of R269: round(2^(j/256) × 2^30). -/
def exPart3 : List Nat := [
  1805811301, 1810707353, 1815616678, 1820539314, 1825475297, 1830424663, 1835387448, 1840363688,
  1845353420, 1850356681, 1855373507, 1860403934, 1865448001, 1870505744, 1875577199, 1880662405,
  1885761398, 1890874216, 1896000896, 1901141476, 1906295993, 1911464486, 1916646992, 1921843549,
  1927054196, 1932278970, 1937517909, 1942771053, 1948038440, 1953320108, 1958616096, 1963926443,
  1969251188, 1974590370, 1979944027, 1985312200, 1990694927, 1996092249, 2001504204, 2006930832,
  2012372174, 2017828268, 2023299156, 2028784876, 2034285470, 2039800978, 2045331439, 2050876895,
  2056437387, 2062012954, 2067603638, 2073209480, 2078830522, 2084466803, 2090118366, 2095785251,
  2101467502, 2107165158, 2112878262, 2118606857, 2124350982, 2130110682, 2135885998, 2141676973]

/-- Table ex of R269: round(2^(j/256) × 2^30). -/
def exTab : List Nat := exPart0 ++ exPart1 ++ exPart2 ++ exPart3

/-- Entries 0 to 63 of lg of R269: round(log2(1 + j/256) × 2^32). -/
def lgPart0 : List Nat := [
  0, 24157255, 48220695, 72191046, 96069025, 119855343, 143550699, 167155786,
  190671291, 214097890, 237436253, 260687042, 283850912, 306928510, 329920477, 352827446,
  375650043, 398388887, 421044590, 443617759, 466108993, 488518883, 510848017, 533096975,
  555266330, 577356649, 599368495, 621302422, 643158981, 664938715, 686642163, 708269857,
  729822324, 751300086, 772703658, 794033552, 815290272, 836474320, 857586191, 878626374,
  899595355, 920493615, 941321628, 962079865, 982768792, 1003388871, 1023940559, 1044424306,
  1064840562, 1085189769, 1105472367, 1125688789, 1145839467, 1165924827, 1185945290, 1205901275,
  1225793196, 1245621463, 1265386481, 1285088654, 1304728379, 1324306051, 1343822060, 1363276795]

/-- Entries 64 to 127 of lg of R269: round(log2(1 + j/256) × 2^32). -/
def lgPart1 : List Nat := [
  1382670639, 1402003972, 1421277169, 1440490605, 1459644648, 1478739665, 1497776018, 1516754066,
  1535674166, 1554536671, 1573341930, 1592090289, 1610782092, 1629417679, 1647997388, 1666521551,
  1684990500, 1703404565, 1721764068, 1740069334, 1758320682, 1776518428, 1794662886, 1812754368,
  1830793181, 1848779632, 1866714024, 1884596657, 1902427829, 1920207835, 1937936969, 1955615520,
  1973243777, 1990822024, 2008350545, 2025829620, 2043259528, 2060640543, 2077972941, 2095256991,
  2112492963, 2129681124, 2146821738, 2163915068, 2180961373, 2197960912, 2214913940, 2231820712,
  2248681479, 2265496490, 2282265995, 2298990237, 2315669461, 2332303909, 2348893820, 2365439432,
  2381940981, 2398398701, 2414812824, 2431183582, 2447511201, 2463795910, 2480037932, 2496237492]

/-- Entries 128 to 191 of lg of R269: round(log2(1 + j/256) × 2^32). -/
def lgPart2 : List Nat := [
  2512394810, 2528510107, 2544583599, 2560615505, 2576606038, 2592555411, 2608463835, 2624331521,
  2640158677, 2655945509, 2671692221, 2687399018, 2703066101, 2718693670, 2734281925, 2749831063,
  2765341278, 2780812767, 2796245722, 2811640333, 2826996792, 2842315287, 2857596005, 2872839132,
  2888044853, 2903213350, 2918344806, 2933439400, 2948497313, 2963518722, 2978503803, 2993452732,
  3008365682, 3023242827, 3038084339, 3052890387, 3067661140, 3082396766, 3097097433, 3111763305,
  3126394546, 3140991321, 3155553791, 3170082117, 3184576458, 3199036973, 3213463820, 3227857155,
  3242217134, 3256543910, 3270837638, 3285098468, 3299326552, 3313522041, 3327685082, 3341815825,
  3355914416, 3369981001, 3384015725, 3398018732, 3411990165, 3425930167, 3439838878, 3453716438]

/-- Entries 192 to 255 of lg of R269: round(log2(1 + j/256) × 2^32). -/
def lgPart3 : List Nat := [
  3467562987, 3481378662, 3495163602, 3508917943, 3522641820, 3536335369, 3549998721, 3563632012,
  3577235372, 3590808933, 3604352825, 3617867177, 3631352118, 3644807776, 3658234277, 3671631748,
  3685000315, 3698340100, 3711651229, 3724933824, 3738188006, 3751413898, 3764611620, 3777781291,
  3790923031, 3804036958, 3817123189, 3830181840, 3843213029, 3856216870, 3869193478, 3882142967,
  3895065449, 3907961038, 3920829844, 3933671979, 3946487554, 3959276677, 3972039458, 3984776005,
  3997486426, 4010170828, 4022829316, 4035461997, 4048068976, 4060650357, 4073206244, 4085736740,
  4098241947, 4110721967, 4123176902, 4135606852, 4148011918, 4160392197, 4172747791, 4185078796,
  4197385310, 4209667431, 4221925255, 4234158878, 4246368396, 4258553902, 4270715492, 4282853259]

/-- Table lg of R269: round(log2(1 + j/256) × 2^32). -/
def lgTab : List Nat := lgPart0 ++ lgPart1 ++ lgPart2 ++ lgPart3

/-- l1 = round(ln 2 × 2^30). -/
def vecL1 : Nat := 744261118
/-- l2 = round((ln 2)^2 / 2 × 2^32). -/
def vecL2 : Nat := 1031764991
/-- k = round(2^32 / ln 2). -/
def vecK : Nat := 6196328019

/-! ## Lanes and masks (R250 to R252) -/

/-- The 64 lanes of a vector register. -/
def lanes (v : BitVec 2048) : List Nat := (List.range 64).map fun i => fld v.toNat (32 * i) 32

/-- A vector register from its lanes. -/
def ofLanes (xs : List Nat) : BitVec 2048 :=
  BitVec.ofNat 2048 (xs.reverse.foldl (fun a x => a * 2 ^ 32 + x % 2 ^ 32) 0)

/-- Vector register i. -/
def CoreSt.vreg (c : CoreSt) (i : Nat) : List Nat := lanes (Tab.get 0 c.v i)

/-- Set vector register i. -/
def CoreSt.setV (c : CoreSt) (i : Nat) (xs : List Nat) : CoreSt := { c with v := Tab.put 0 c.v i (ofLanes xs) }

/-- Mask register i; m0 reads as all ones (R250). -/
def CoreSt.mreg (c : CoreSt) (i : Nat) : BitVec 64 := if i = 0 then BitVec.allOnes 64 else Tab.get 0 c.m i

/-- Set mask register i; a write to m0 has no effect (R250). -/
def CoreSt.setM (c : CoreSt) (i : Nat) (x : BitVec 64) : CoreSt :=
  if i = 0 then c else { c with m := Tab.put 0 c.m i x }

/-- Is lane i active? -/
def activeLane (mask : BitVec 64) (i : Nat) : Bool := mask.getLsbD i

/-- Each active lane takes f of its number, with the tallies; an inactive lane keeps its old value (R251). -/
def laneMap (mask : BitVec 64) (old : List Nat) (f : Nat → Nat × Tal) : List Nat × Tal :=
  let rs := (List.range 64).zipWith (fun i o => if activeLane mask i then f i else (o, {})) old
  (rs.map (·.1), rs.foldl (fun t r => t.plus r.2) {})

/-- A mask from active lanes' answers; inactive lanes' bits are clear (R251). -/
def laneMask (mask : BitVec 64) (f : Nat → Bool × Tal) : BitVec 64 × Tal :=
  let rs := (List.range 64).map fun i => if activeLane mask i then f i else (false, {})
  (BitVec.ofNat 64 (rs.reverse.foldl (fun a r => 2 * a + b2n r.1) 0), rs.foldl (fun t r => t.plus r.2) {})

/-- MTAIL (R252). -/
def mtail (n : BitVec 64) : BitVec 64 :=
  if 64 ≤ n.toNat then BitVec.allOnes 64 else BitVec.ofNat 64 (2 ^ n.toNat - 1)

/-- MLOGIC (R252). -/
def mlogic (op : Nat) (inv : Bool) (x y : BitVec 64) : BitVec 64 :=
  let r := match op with
    | 0 => x &&& y
    | 1 => x ||| y
    | 2 => x ^^^ y
    | _ => x &&& ~~~y
  if inv then ~~~r else r

/-! ## binary32 and int32 lanes (R255, R274) -/

/-- A lane read as binary32 (R71). -/
def rd32 (x : Nat) : Val × Tal := let r := Ieee.b32.read x; (r.val, r.tal)

/-- The bits of an exact value that is a binary32 value; a zero is +0. -/
def bits32 (x : Val) : Nat := (Ieee.b32.round x.exact).bits

/-- Round to binary32 with its tallies (R255). -/
def rnd32 (x : Val) (t : Tal) : Nat × Tal := let r := Ieee.b32.round x.exact; (r.bits, t.plus r.tal)

/-- Two-operand binary32 operations. -/
def f32op (f : Val → Val → Val) (x y : Nat) : Nat × Tal :=
  let a := rd32 x
  let b := rd32 y
  rnd32 (f a.1 b.1) (a.2.plus b.2)

/-- The lesser or the greater of two lanes, binary32. -/
def f32pick (less : Bool) (x y : Nat) : Nat × Tal :=
  let a := rd32 x
  let b := rd32 y
  (bits32 (if (a.1.lt b.1) == less then a.1 else b.1), a.2.plus b.2)

/-- Wrapping int32 operations. -/
def i32op (f : Int → Int → Int) (x y : Nat) : Nat × Tal := (wrapN 32 (f (sgn 32 x) (sgn 32 y)), {})

/-- |x| in binary32. -/
def f32abs (x : Nat) : Nat × Tal := let a := rd32 x; (bits32 a.1.abs, a.2)

/-- VADD, VSUB, VMUL, VMIN, VMAX on one lane. -/
inductive VBin where
  | add | sub | mul | min | max
  deriving DecidableEq, Repr

/-- One lane of a two-operand instruction (R255). -/
def VBin.run (op : VBin) (int : Bool) (x y : Nat) : Nat × Tal :=
  match op, int with
  | .add, false => f32op Val.add x y
  | .sub, false => f32op (fun a b => a.add b.opp) x y
  | .mul, false => f32op Val.mul x y
  | .min, false => f32pick true x y
  | .max, false => f32pick false x y
  | .add, true => i32op (· + ·) x y
  | .sub, true => i32op (· - ·) x y
  | .mul, true => i32op (· * ·) x y
  | .min, true => i32op (fun a b => if a ≤ b then a else b) x y
  | .max, true => i32op (fun a b => if a ≤ b then b else a) x y

/-- VABS on one lane. -/
def vabs (int : Bool) (x : Nat) : Nat × Tal :=
  if int then (wrapN 32 ((sgn 32 x).natAbs : Int), {}) else f32abs x

/-- VFMA on one lane: x × y + z, one rounding. -/
def vfma (x y z : Nat) : Nat × Tal :=
  let a := rd32 x
  let b := rd32 y
  let c := rd32 z
  rnd32 ((a.1.mul b.1).add c.1) ((a.2.plus b.2).plus c.2)

/-- VFMA64 on one lane pair (R256). -/
def vfma64 (x y z : Nat) : Nat × Tal :=
  let a := Ieee.b64.read x
  let b := Ieee.b64.read y
  let c := Ieee.b64.read z
  let r := Ieee.b64.round ((a.val.mul b.val).add c.val).exact
  (r.bits, ((a.tal.plus b.tal).plus c.tal).plus r.tal)

/-- One lane's comparison (R254). -/
def vcmp (int : Bool) (cond x y : Nat) : Bool × Tal :=
  if int then
    (match cond with
     | 0 => decide (x = y)
     | 1 => decide (x ≠ y)
     | 2 => decide (sgn 32 x < sgn 32 y)
     | 3 => decide (sgn 32 y ≤ sgn 32 x)
     | 4 => decide (x < y)
     | _ => decide (y ≤ x), {})
  else
    let a := rd32 x
    let b := rd32 y
    (match cond with
     | 0 => a.1.eq b.1
     | 1 => !(a.1.eq b.1)
     | 2 => a.1.lt b.1
     | _ => !(a.1.lt b.1), a.2.plus b.2)

/-! ## The exact algorithms (R268 to R273) -/

/-- trunc32 (R268). -/
def trunc32 (neg : Bool) (mag : Nat) (e : Int) : Nat × Tal :=
  if mag = 0 then (0, {})
  else
    let E := e + (Nat.log2 mag : Nat)
    if 127 < E then (Ieee.b32.maxBits neg, { sat := 1 })
    else if E < -149 then (0, { unf := 1 })
    else
      let qe := max (E - 23) (-149)
      let sh := qe - e
      let n := if sh ≤ 0 then mag * 2 ^ (-sh).toNat else mag >>> sh.toNat
      let r := Ieee.b32.round ⟨neg, n, qe, false⟩
      (r.bits, {})

/-- normalise(x): m from 2^23 to 2^24 - 1 and e with |x| = m × 2^(e - 23). -/
def normalise (x : Val) : Nat × Int :=
  let l := Nat.log2 x.mag
  (if l ≤ 23 then x.mag <<< (23 - l) else x.mag >>> (l - 23), x.e + (l : Nat))

/-- The steps of R270 on an exact value, with the tallies of reading it. -/
def exp2Val (x : Val) (t : Tal) : Nat × Tal :=
  if !(x.lt ⟨false, 1, 7⟩) then (Ieee.b32.maxBits false, t.plus { sat := 1 })
  else if x.lt ⟨true, 160, 0⟩ then (0, t.plus { unf := 1 })
  else
    let fx : Int := -- floor(x × 2^32): n and big together
      if 0 ≤ x.e + 32 then x.int * ((2 ^ (x.e + 32).toNat : Nat) : Int) else x.int / ((2 ^ (-(x.e + 32)).toNat : Nat) : Int)
    let n := fx / (2 ^ 32 : Int)
    let big := (fx % (2 ^ 32 : Int)).toNat
    let j := big >>> 24
    let g := big % 2 ^ 24
    let p := 2 ^ 30 + ((g * vecL1) >>> 32) + ((g * g * vecL2) >>> 66)
    let r := (exTab.getD j 0 * p) >>> 30
    rnd32 ⟨false, r, n - 30⟩ t

/-- VEXP2 on one lane (R270). -/
def vexp2 (bits : Nat) : Nat × Tal :=
  let i := rd32 bits
  exp2Val i.1 i.2

/-- The integer t of R271 of a positive value, before its rounding: log2 of it is t × 2^-32. -/
def log2Int (x : Val) : Int :=
  let (m, e) := normalise x
  let j := (m >>> 15) % 256
  let c := 2 ^ 23 + (j <<< 15)
  let u := ((m - c) <<< 32) / c
  let v := u - ((u * u) >>> 33)
  e * (2 ^ 32 : Int) + ((lgTab.getD j 0 + ((v * vecK) >>> 32) : Nat) : Int)

/-- VLOG2 on one lane (R271, R274). -/
def vlog2 (bits : Nat) : Nat × Tal :=
  let i := rd32 bits
  let x := i.1
  if x.mag = 0 then (Ieee.b32.maxBits true, i.2.plus { sat := 1 })
  else if x.neg then (0, i.2.plus { special := 1 })
  else rnd32 (Val.ofInt (log2Int x) (-32)) i.2

/-- VRCP on one lane (R272, R274). -/
def vrcp (bits : Nat) : Nat × Tal :=
  let i := rd32 bits
  let x := i.1
  if x.mag = 0 then (Ieee.b32.maxBits false, i.2.plus { sat := 1 })
  else
    let (m, e) := normalise x
    let r := trunc32 x.neg (2 ^ 47 / m) (-e - 24)
    (r.1, i.2.plus r.2)

/-- VRSQ on one lane, and the RSQRT of the update engine (R273, R274). -/
def vrsq (bits : Nat) : Nat × Tal :=
  let i := rd32 bits
  let x := i.1
  if x.mag = 0 then (Ieee.b32.maxBits false, i.2.plus { sat := 1 })
  else if x.neg then (0, i.2.plus { special := 1 })
  else
    let (m, e) := normalise x
    let odd := e % 2 = 1
    let u := if odd then m <<< 24 else m <<< 23
    let t := if odd then (e - 47) / 2 else (e - 46) / 2
    let r := trunc32 false (isqrt (2 ^ 94 / u)) (-t - 47)
    (r.1, i.2.plus r.2)

/-! ## VREDT, VSEGRED (R257, R259, R260) -/

/-- One result of VREDT: the exact sum, or the greatest or least exact value, of 32 elements, rounded once. -/
def vredtOne (op : Nat) (xs : List Val) : Rounded :=
  let x := match op, xs with
    | 0, xs => xs.foldl Val.add {}
    | 1, y :: ys => ys.foldl (fun (a b : Val) => if a.lt b then b else a) y
    | _, y :: ys => ys.foldl (fun (a b : Val) => if b.lt a then b else a) y
    | _, [] => {}
  Ieee.b32.round x.exact

/-- One combination of a segment reduction: op 0 SUM, 1 MAX, 2 MIN, 3 LAST. -/
def segCombine (int : Bool) (op : Nat) (acc : Option Nat) (x : Nat) : Nat × Tal :=
  match acc, op with
  | _, 3 => (x, {})
  | none, _ => if int then (x, {}) else let r := rd32 x; (bits32 r.1, r.2)
  | some a, 0 => VBin.add.run int a x
  | some a, 1 => VBin.max.run int a x
  | some a, _ => VBin.min.run int a x

/-- The lanes of a forward reduction from lane i on (R259): results, running value, tallies. -/
def segForward (int : Bool) (op : Nat) (mask starts : BitVec 64) :
    List (Nat × Nat) → Option Nat → List (Option Nat) × Option Nat × Tal
  | [], acc => ([], acc, {})
  | (i, x) :: xs, acc =>
    let acc := if starts.getLsbD i then none else acc
    if activeLane mask i then
      let r := segCombine int op acc x
      let rest := segForward int op mask starts xs (some r.1)
      (some r.1 :: rest.1, rest.2.1, r.2.plus rest.2.2)
    else
      let rest := segForward int op mask starts xs acc
      (acc :: rest.1, rest.2.1, rest.2.2)

/-- The lanes of a reverse reduction, in descending order: the list gives lanes 63, 62, ... (R259). -/
def segReverse (int : Bool) (op : Nat) (mask starts : BitVec 64) (carry : Option Nat) :
    List (Nat × Nat) → Option Nat → List (Option Nat) × Option Nat × Tal
  | [], acc => ([], acc, {})
  | (i, x) :: xs, acc =>
    let acc := if i = 63 then carry else if starts.getLsbD (i + 1) then none else acc
    if activeLane mask i then
      let r := match acc, op with
        | some a, 3 => (a, ({} : Tal))
        | acc, op => segCombine int op acc x
      let rest := segReverse int op mask starts carry xs (some r.1)
      (some r.1 :: rest.1, rest.2.1, r.2.plus rest.2.2)
    else
      let rest := segReverse int op mask starts carry xs acc
      (acc :: rest.1, rest.2.1, rest.2.2)

/-- VSEGRED: new lanes of vA, carry value and OPEN, tallies. `free` stands for the carry where the last segment has no
active lane and nothing was carried in. -/
def vsegred (int : Bool) (op : Nat) (reverse useCarry : Bool) (mask starts : BitVec 64) (old xs : List Nat)
    (carry : Nat) (carryOpen : Bool) (free : Nat) : List Nat × Nat × Bool × Tal :=
  let ix := (List.range 64).zip xs
  if reverse then
    let c := if useCarry && carryOpen then some carry else none
    let (rs, acc, t) := segReverse int op mask starts c ix.reverse none
    let rs := rs.reverse
    let out := (List.range 64).map fun i => if activeLane mask i then (rs.getD i none).getD 0 else old.getD i 0
    (out, acc.getD free, !starts.getLsbD 0, t)
  else
    let (rs, acc, t) := segForward int op mask starts ix (if useCarry then some carry else none)
    let out := (List.range 64).map fun i => if activeLane mask i then (rs.getD i none).getD 0 else old.getD i 0
    (out, acc.getD free, true, t)

/-! ## Shuffles, packing, conversion (R262 to R266) -/

/-- The source of lane i under VSHUF: from vC, and the lane (R263, R264). -/
def vshufSrc (kind a i : Nat) : Bool × Nat :=
  match kind with
  | 0 => (false, i ^^^ 2 ^ (if 5 < a then 0 else a))
  | 1 => (i % 2 = 1, i / 2)
  | 2 => (i % 2 = 1, i / 2 + 32)
  | 3 =>
    let o := if a = 1 then 1 else 0
    if i < 32 then (false, 2 * i + o) else (true, 2 * (i - 32) + o)
  | _ => (false, (i + a) % 64)

/-- Width of VPACK and VUNPACK in bits. -/
def packWidth (code : Nat) : Nat := if code = 0 then 16 else if code = 1 then 8 else 4

/-- VPACK (R265): the fields of the active lanes of vB whose destination lane is active. -/
def vpack (w p : Nat) (signed : Bool) (mask : BitVec 64) (old xs : List Nat) : List Nat × Tal :=
  let part := p % (2048 / (64 * w))
  let v := (ofLanes old).toNat
  (List.range 64).zip xs |>.foldl (fun (acc : List Nat × Tal) jx =>
    let pos := (64 * part + jx.1) * w
    let d := pos / 32
    if activeLane mask jx.1 && activeLane mask d then
      let x := sgn 32 jx.2
      let hi : Int := (2 ^ (w - 1) - 1 : Nat)
      let lo : Int := -(2 ^ (w - 1) : Nat)
      let y := if signed then (if hi < x then hi else if x < lo then lo else x) else x
      let b := pos % 32
      let o := acc.1.getD d 0
      let n := o - fld o b w * 2 ^ b + wrapN w y * 2 ^ b
      (acc.1.set d n, acc.2.plus { sat := b2n (y != x) })
    else acc) (lanes (BitVec.ofNat 2048 v), {})

/-- VUNPACK: field j of part P (R265). -/
def vunpack (w p : Nat) (signed : Bool) (src : BitVec 2048) (j : Nat) : Nat :=
  let part := p % (2048 / (64 * w))
  let x := fld src.toNat ((64 * part + j) * w) w
  if signed then wrapN 32 (sgn w x) else x

/-- VCVT of one lane (R266): the result, the amax code of the value, the tallies. -/
def vcvt (src dst : Nat) (scale : Int) (mode : LogMode) (x : Nat) : Nat × Nat × Tal :=
  let inp : ConvIn × Tal :=
    if src = 8 then ({ val := Val.ofInt (sgn 32 x) 0 }, {})
    else match Fmt.ofCode src with
      | some f => f.readConv (x % 2 ^ f.bits) scale
      | none => ({ val := {} }, {})
  if dst = 8 then
    let n := red64Int inp.1.val 0
    let y := if (2 ^ 31 - 1 : Int) < n then (2 ^ 31 - 1 : Int) else if n < -(2 ^ 31 : Int) then -(2 ^ 31 : Int) else n
    (wrapN 32 y, inp.1.amax, inp.2.plus { sat := b2n (y != n) })
  else match Fmt.ofCode dst with
    | some f => let r := convOne f scale mode inp.1; (r.bits, inp.1.amax, inp.2.plus r.tal)
    | none => (0, 0, inp.2)

end Sys2Proof.Machine
end

