-- ==== Sys2Proof/Machine/Update.lean ====
section
/-!
DEFINITION. The update dies (R276 to R302): the elements a die updates, the update lanes and their instructions, writes in
place under the undo log (R310), and the binary64 matrix unit's root computations (R294, R297).
-/
namespace Sys2Proof

/-- Table of a placed table shard. -/
def Placed.table (p : Placed) : Nat := p.id / 2 ^ 32
/-- Number of a placed shard. -/
def Placed.shard (p : Placed) : Nat := p.id % 2 ^ 32
/-- WIDTH of the table of a placed shard. -/
def Placed.width (p : Placed) : Nat := p.addrs.getD 4 0
/-- SITE_SHIFT of a placed shard. -/
def Placed.siteShift (p : Placed) : Nat := p.addrs.getD 5 0
/-- Pitch of a placed shard's master rows (R139). -/
def Placed.pitch (p : Placed) : Nat := 64 * ceilDiv (4 * p.width) 64
/-- Bytes of a site's values (R167). -/
def Placed.siteBytes (p : Placed) : Nat := 512 * ceilDiv p.width 64
/-- Offset of the values of site i of a shard's pool (R167). -/
def Placed.siteAt (p : Placed) (i : Nat) : Nat := p.addrs.getD 3 0 + i * p.siteBytes
/-- Offset of the contribution count of site i: the count words follow the values (DESIGN CHOICE: R167 gives their size alone). -/
def Placed.countAt (p : Placed) (i : Nat) : Nat := p.siteAt (2 ^ p.siteShift) + 8 * i

end Sys2Proof

namespace Sys2Proof.Machine

/-! ## What a die updates (R276 to R279) -/

/-- Group descriptor g of a job. -/
def Mach.groupDesc (m : Mach) (j : Job) (g : Nat) : GroupDesc := GroupDesc.ofRd (m.jobRd j) ((m.jobHdr j).groupTable + 64 * g)

/-- Preconditioner descriptor i of a job. -/
def Mach.precondDesc (m : Mach) (j : Job) (i : Nat) : PrecondDesc :=
  PrecondDesc.ofRd (m.jobRd j) ((m.jobHdr j).precondTable + 64 * i)

/-- The update die behind which an offset lies (R364). -/
def dieOf (a : Nat) : Option Nat :=
  match tierOf a with
  | .slow d _ => some d
  | _ => none

/-- The group that updates a table, where there is one (R278). -/
def Mach.groupOfTable (m : Mach) (j : Job) (t : Nat) : Option Nat :=
  (List.range (m.jobHdr j).groups).find? fun g => let d := m.groupDesc j g; d.kind == 1 && d.tableId == t

/-- A run of elements that a die updates: a dense share, or the row of one gradient site. -/
structure UpdItem where
  group : Nat
  desc : GroupDesc
  place : Placed
  row : Option Nat
  size : Nat

/-- Everything of a job that a die updates in the step, in the order its lanes take it (R278). -/
def Mach.updItems (m : Mach) (j : Job) (die : Nat) : List UpdItem :=
  j.placed.flatMap fun p =>
    if dieOf (p.addrs.headD 0) != some die then []
    else match p.kind with
    | 0 => let d := m.groupDesc j p.id; [⟨p.id, d, p, none, p.count * d.cols⟩]
    | 3 =>
      match m.groupOfTable j p.table with
      | none => []
      | some g => (j.sites.filter fun x => x.table == p.table && x.shard == p.shard).map fun x =>
          ⟨g, m.groupDesc j g, p, some x.row, p.width⟩
    | _ => []

/-- Number of elements of a list of items. -/
def itemsSize (l : List UpdItem) : Nat := l.foldl (fun n i => n + i.size) 0

/-- Element n of a list of items. -/
def itemAt : List UpdItem → Nat → Option (UpdItem × Nat)
  | [], _ => none
  | i :: l, n => if n < i.size then some (i, n) else itemAt l (n - i.size)

/-- Row and column of element n of an item, and the offsets of its param, state1 and state2 (R279). -/
def UpdItem.at (i : UpdItem) (n : Nat) : Nat × Nat × List Nat :=
  match i.row with
  | none => (i.place.first + n / i.desc.cols, n % i.desc.cols, (i.place.addrs.take 3).map (· + 4 * n))
  | some x =>
    let k := x - i.place.first
    let st := i.place.addrs.getD 1 0 + 2 * i.place.pitch * k + 4 * n
    (x, n, [i.place.addrs.headD 0 + i.place.pitch * k + 4 * n, st, st + i.place.pitch])

/-- Offset of word w of the sums of a reduction descriptor placed on this module. -/
def Job.sumAt (j : Job) (reduce w : Nat) : Option Nat :=
  (j.placed.find? fun p => p.kind == 1 && p.id == reduce && decide (p.first ≤ w) && decide (w < p.first + p.count)).map
    fun p => p.addrs.headD 0 + 8 * (w - p.first)

/-- Is the update phase of a job running: CLOSED has arrived and no abort condition stands? -/
def Job.updates (j : Job) : Bool :=
  (j.state == .updating || j.state == .pastPnr) && j.part.updating && j.condition == 0 && !j.part.voteSent

/-- Has a die taken every element of a job, and finished those it took? -/
def Mach.dieDone (m : Mach) (slot : Nat) (j : Job) (die : Nat) : Bool :=
  decide (itemsSize (m.updItems j die) ≤ Tab.get 0 j.updNext die) &&
    !(m.getUpd die).lanes.any fun e => match e.2 with
      | some l => l.slot == slot
      | none => false

/-- UPD_STATE of both dies, for what the job in a slot does; a die that another job is updating goes on to show that (R299). -/
def Mach.setDies (m : Mach) (slot : Nat) (v : BitVec 3) : Mach :=
  let other := (List.range 64).any fun k => k != slot && ((m.job? k).map (·.updates)).getD false
  (List.range 2).foldl (fun m d => m.modUpd d fun u => { u with state := if other then 1 else v }) m

/-! ## The planner's settings of a die (R299, R300) -/

/-- The update programs of a job's image. -/
def Mach.updPrograms (m : Mach) (j : Job) : List (List (BitVec 64)) :=
  let h := m.jobHdr j
  (List.range h.updCount).map fun i => (updWords (m.jobRd j) h i).map (BitVec.ofNat 64)

/-- The planner firmware writes a die's registers from a job's image, and the die reads its programs (R299, R300). -/
def Mach.loadDie (m : Mach) (die : Nat) (j : Job) : Mach :=
  let h := m.jobHdr j
  m.modUpd die fun u => { u with
    groups := BitVec.ofNat 13 h.groups, preconds := BitVec.ofNat 11 h.preconds,
    groupBase := BitVec.ofNat 48 (j.imageAt + h.groupTable), precondBase := BitVec.ofNat 48 (j.imageAt + h.precondTable),
    progBase := BitVec.ofNat 48 (j.imageAt + h.updPrograms), progCount := BitVec.ofNat 9 h.updCount,
    programs := m.updPrograms j, step := j.step }

/-- The job whose elements a die takes next: one job at a time (DESIGN CHOICE), the lowest slot first. A die that quiesces
begins no step's elements, and goes on with those it has begun (R36). -/
def Mach.dieJob (m : Mach) (die : Nat) : Option (Nat × Job) :=
  match (m.getUpd die).lanes.findSome? (·.2) with
  | some l => (m.job? l.slot).map fun j => (l.slot, j)
  | none => (List.range 64).findSome? fun slot =>
      match m.job? slot with
      | some j =>
        let h := m.getHdr (hdrKey tyUpd die)
        let n := Tab.get 0 j.updNext die
        if j.updates && decide (n < itemsSize (m.updItems j die)) && (decide (0 < n) || (h.enable && !h.quiesce)) then some (slot, j)
        else none
      | none => none

/-- The die with the registers and programs of the job it serves, as the planner has written them from its image. -/
def Mach.serveDie (m : Mach) (die : Nat) (j : Job) : Mach := m.loadDie die j

/-! ## Taking an element (R280, R298) -/

/-- A word's OP, and F. -/
def updOp (w : BitVec 64) : Nat := fld w.toNat 58 6
/-- F of a word. -/
def updF (w : BitVec 64) : Nat := fld w.toNat 32 3

/-- Does a program load a stream? -/
def loadsStream (prog : List (BitVec 64)) (f : Nat) : Bool := prog.any fun w => updOp w == 1 && updF w == f

/-- Read four bytes of a master or a state: a second failure halts the job (R298). -/
def Mach.readMaster (m : Mach) (die slot : Nat) (d : Option Nat) (a : Nat) : BitVec 32 × Bool × Mach :=
  let r := m.readMem d .committed a 4
  let m := r.2.2
  let m := if r.2.1 then (m.event tyUpd die 4).readFailed slot .committed else m
  (BitVec.ofNat 32 (leNat r.1), r.2.1, m)

/-- Load streams of an element, reading those its program loads. -/
def Mach.loadStreams (m : Mach) (die slot : Nat) (d : Option Nat) (prog : List (BitVec 64)) (addrs : List Nat) :
    List (BitVec 32) × Bool × Mach :=
  ((List.range 3).zip addrs).foldl (fun acc x =>
    if loadsStream prog (if x.1 = 0 then 0 else x.1 + 1) then
      let r := acc.2.2.readMaster die slot d x.2
      (acc.1 ++ [r.1], acc.2.1 || r.2.1, r.2.2)
    else (acc.1 ++ [0], acc.2)) ([], false, m)

/-- Offset of the sum of an element's site, where it has one. -/
def Job.elemSum (j : Job) (i : UpdItem) (row col : Nat) : Option Nat :=
  match i.row with
  | some x =>
    (j.sites.find? fun y => y.table == i.place.table && y.shard == i.place.shard && y.row == x).map fun y =>
      i.place.siteAt y.index + 8 * col
  | none => j.sumAt i.desc.reduce (row * i.desc.cols + col)

/-- Read a sum N at an offset: its value and whether the read failed twice, which stops the step (R298). -/
def Mach.readSum (m : Mach) (die slot : Nat) (d : Option Nat) (a : Nat) : BitVec 64 × Bool × Mach :=
  let r := m.readMem d .working a 8
  (BitVec.ofNat 64 (leNat r.1), r.2.1, if r.2.1 then (r.2.2.event tyUpd die 4).readFailed slot .working else r.2.2)

/-- The sum N at an element's site: its value and whether the read failed twice. A dense element with no placed sum, and
one whose site received nothing, has +0 (R278). -/
def Mach.readSite (m : Mach) (die slot : Nat) (d : Option Nat) (j : Job) (i : UpdItem) (row col : Nat) :
    BitVec 64 × Bool × Mach :=
  match j.elemSum i row col with
  | none => (0, false, m)
  | some a => m.readSum die slot d a

/-- A site whose final |N| is above 2^62 marks the step (R79, R298). -/
def Mach.rangeSite (m : Mach) (die slot : Nat) (i : UpdItem) : Mach :=
  let m := (m.event tyUpd die 3).modJob slot fun j =>
    match i.row with
    | some _ => { j with rangeGrad := if j.rangeGrad.contains i.place.table then j.rangeGrad
                                      else j.rangeGrad ++ [i.place.table] }
    | none => { j with rangeReduce := if j.rangeReduce.contains i.desc.reduce then j.rangeReduce
                                      else j.rangeReduce ++ [i.desc.reduce] }
  m.abortCond slot 3

/-- Lane `lane` takes the next element of its die, where the first instruction of the element's program is `w`. -/
def Mach.laneTake (m : Mach) (die lane : Nat) (w : BitVec 64) : Mach :=
  match m.dieJob die with
  | none => m
  | some (slot, j) =>
    let n := Tab.get 0 j.updNext die
    match if j.updates then itemAt (m.updItems j die) n else none with
    | none => m
    | some (i, e) =>
      let s := m.serveDie die j
      let prog := (s.getUpd die).programs.getD i.desc.program []
      if prog.head? != some w then m
      else
        let (row, col, addrs) := i.at e
        let d := some j.domain
        let l := s.loadStreams die slot d prog addrs
        let g := if loadsStream prog 1 then l.2.2.readSite die slot d j i row col else (0, false, l.2.2)
        if l.2.1 || g.2.1 then g.2.2
        else if 2 ^ 62 < (sgn 64 g.1.toNat).natAbs then g.2.2.rangeSite die slot i
        else
          let lane' : LaneSt := { slot := slot, group := i.group, row := row, col := col, loaded := l.1, grad := g.1,
                                  addrs := addrs, stored := [none, none, none] }
          (g.2.2.modJob slot fun j => { j with updNext := Tab.put 0 j.updNext die (n + 1) }).modUpd die fun u =>
            { u with lanes := Tab.put none u.lanes lane (some lane'), state := 1 }

/-! ## The undo log and writes in place (R310, R319) -/

/-- The log of a die. -/
def Job.undo (j : Job) (die : Nat) : List UndoRec := if die = 0 then j.undo0 else j.undo1

/-- Effective size of a log in 16 MiB units (R336). -/
def Job.logUnits (j : Job) : Nat := min j.logLive.toNat j.logPlaced.toNat

/-- Records a log has room for (R310). -/
def Job.logRoom (j : Job) : Nat := j.logUnits * 2 ^ 24 / 80

/-- Where the log of a die lies. -/
def Job.logAt (j : Job) (die : Nat) : Nat :=
  match j.placed.find? fun p => p.kind == 4 && p.id == die with
  | some p => p.addrs.headD 0
  | none => 0

/-- Log the granule of an offset before its first write of the attempt; none where the log is full. After the grant of a
point of no return nothing is logged (R319). -/
def Mach.logGranule (m : Mach) (slot die a : Nat) : Option Mach :=
  match m.job? slot with
  | none => none
  | some j =>
    let g := a / 64 * 64
    if j.part.granted || (j.undo die).any (·.addr == g) then some m
    else if j.logRoom ≤ (j.undo die).length then none
    else
      let old := m.readMem (some j.domain) .committed g 64
      let m := if old.2.1 then (old.2.2.event tyUpd die 4).readFailed slot .committed else old.2.2
      let r := leBytes 8 g ++ leBytes 8 j.step.toNat ++ old.1
      let w := m.writeMem (some j.domain) .committed (j.logAt die + 80 * (j.undo die).length) r
      let m := if w.1 then (w.2.event tyUpd die 4).readFailed slot .committed else w.2
      let x : UndoRec := { addr := g, step := j.step }
      some (m.modJob slot fun j =>
        if die = 0 then { j with undo0 := j.undo0 ++ [x] } else { j with undo1 := j.undo1 ++ [x] })

/-- Write the recorded new values of an element from stream i on: what is left to write where the log is full. -/
def Mach.writeStores (m : Mach) (slot die : Nat) :
    List (Nat × Option (BitVec 32)) → Mach × List (Option (BitVec 32)) × Bool
  | [] => (m, [], true)
  | (_, none) :: rest => let r := m.writeStores slot die rest; (r.1, none :: r.2.1, r.2.2)
  | (a, some v) :: rest =>
    match m.logGranule slot die a with
    | none => (m, some v :: rest.map (·.2), false)
    | some m =>
      let w := m.writeMem (m.domOfSlot slot) .committed a (leBytes 4 v.toNat)
      let m := if w.1 then (w.2.event tyUpd die 4).readFailed slot .committed else w.2
      let r := m.writeStores slot die rest
      (r.1, none :: r.2.1, r.2.2)

/-- End the element of a lane whose program has run: write its new values; where the log is full the lane keeps the element
and the update phase is paused (R318). -/
def Mach.laneEnd (m : Mach) (die lane : Nat) : Mach :=
  match Tab.get none (m.getUpd die).lanes lane with
  | none => m
  | some l =>
    if l.pc < ((m.getUpd die).programs.getD
        (match m.job? l.slot with
         | some j => (m.groupDesc j l.group).program
         | none => 0) []).length then m
    else
      let r := m.writeStores l.slot die (l.addrs.zip l.stored)
      if r.2.2 then
        (r.1.modUpd die fun u => { u with lanes := Tab.put none u.lanes lane none }).modJob l.slot fun j =>
          { j with groups := Tab.upd {} j.groups l.group fun g => { g with updated := Tab.upd 0 g.updated die (· + 1) } }
      else r.1.modUpd die fun u => { u with lanes := Tab.put none u.lanes lane (some { l with stored := r.2.1 }) }

/-- Is an element of a slot held at a die because its log is full? -/
def Mach.diePaused (m : Mach) (die slot : Nat) : Bool :=
  match m.job? slot with
  | none => false
  | some j => (m.getUpd die).lanes.any fun e => match e.2 with
    | some l => l.slot == slot &&
        decide (((m.getUpd die).programs.getD (m.groupDesc j l.group).program []).length ≤ l.pc)
    | none => false

/-! ## Operands and instructions (R281 to R284) -/

/-- Bits of an operand of a lane (R281). -/
def laneOperand (l : LaneSt) (g : GroupSt) (imm code : Nat) : Nat :=
  if code < 16 then (Tab.get 0 l.regs code).toNat
  else if code < 24 then (g.scalars.getD (code - 16) 0).toNat
  else if code = 0x18 then bits32 (Val.ofInt g.position.toNat 0)
  else if code = 0x19 then bits32 (LogFmt.l16.decode g.amax.toNat 0)
  else if code = 0x1A then imm
  else if code = 0x1C then 0x3F800000
  else 0

/-- Pick one of two operands as it stands: its value, a NaN or infinity replaced, −0 as +0 (R71, R282). -/
def pass32 (x : Nat) : Nat × Tal := let a := rd32 x; (bits32 a.1, a.2)

/-- DIV (R274, R282). -/
def updDivide (x y : Nat) : Nat × Tal :=
  let a := rd32 x
  let b := rd32 y
  let t := a.2.plus b.2
  if b.1.isZero then
    if a.1.isZero then (0, t.plus { special := 1 }) else (Ieee.b32.maxBits a.1.neg, t.plus { sat := 1 })
  else let r := Ieee.b32.round (divTrunc 30 a.1 b.1); (r.bits, t.plus r.tal)

/-- SQRT (R274, R282). -/
def updRoot (x : Nat) : Nat × Tal :=
  let a := rd32 x
  if a.1.isZero then (0, a.2)
  else if a.1.neg then (0, a.2.plus { special := 1 })
  else let r := Ieee.b32.round (sqrtTrunc 30 a.1); (r.bits, a.2.plus r.tal)

/-- SIGN (R282). -/
def updSignOf (x : Nat) : Nat × Tal :=
  let a := rd32 x
  (if a.1.isZero then 0 else if a.1.neg then 0xBF800000 else 0x3F800000, a.2)

/-- SEL (R282). -/
def updSelect (cond x y z : Nat) : Nat × Tal :=
  let a := rd32 x
  let neg := a.1.lt {}
  let zero := a.1.isZero
  let yes := match cond with
    | 0 => !neg && !zero
    | 1 => !neg
    | 2 => zero
    | _ => neg
  let r := pass32 (if yes then y else z)
  (r.1, a.2.plus r.2)

/-- CLIP: min(max(A, B), C) (R282). -/
def updClamp (x y z : Nat) : Nat × Tal :=
  let a := f32pick false x y
  let b := f32pick true a.1 z
  (b.1, a.2.plus b.2)

/-- LERP: A + C × (B − A), one rounding (R282). -/
def updInterp (x y z : Nat) : Nat × Tal :=
  let a := rd32 x
  let b := rd32 y
  let c := rd32 z
  rnd32 (a.1.add (c.1.mul (b.1.add a.1.opp))) ((a.2.plus b.2).plus c.2)

/-- POW (R283). -/
def updPower (x y : Nat) : Nat × Tal :=
  let a := rd32 x
  let b := rd32 y
  let t := a.2.plus b.2
  if a.1.isZero then
    if b.1.isZero then (0x3F800000, t)
    else if b.1.neg then (Ieee.b32.maxBits false, t.plus { sat := 1 })
    else (0, t)
  else if a.1.neg then (0, t.plus { special := 1 })
  else exp2Val ((Val.ofInt (log2Int a.1) (-32)).mul b.1) t

/-- Stochastic rounding to binary16 with k random bits r (R284). -/
def srndHalf (k r : Nat) (x : Val) (t : Tal) : Nat × Tal :=
  if x.isZero then (0, t)
  else
    let q := max (x.exponent - 10) (-24)
    if !(Val.lt x.abs ⟨false, 65505, 0⟩) || Val.lt ⟨false, 65504, 0⟩ x.abs then
      (bits32 ⟨x.neg, 65504, 0⟩, t.plus { sat := 1 })
    else if q ≤ x.e then (bits32 x, t)
    else
      let k' := (q - x.e).toNat
      let lo := x.mag / 2 ^ k'
      let rem := x.mag % 2 ^ k'
      if rem = 0 then (bits32 x, t)
      else
        let p := 2 ^ k * rem / 2 ^ k'
        if r < p then (bits32 ⟨x.neg, lo + 1, q⟩, t)
        else if lo = 0 then (0, t.plus { unf := 1 })
        else (bits32 ⟨x.neg, lo, q⟩, t)

/-- SRND (R284): format F, headroom H, the group's committed amax code, the 16-bit field, k. -/
def updRoundStoch (f h amax : Nat) (field : BitVec 16) (k3 : Bool) (x : Nat) : Nat × Tal :=
  let a := rd32 x
  let k := if k3 then 3 else 4
  let r := field.toNat / 2 ^ (16 - k)
  if f = 3 then srndHalf k r a.1 a.2
  else
    let l : LogFmt := if f = 0 then .l8 else .l16
    let s := scaleFromAmax l amax h
    let e := l.encode a.1 s (.stoch k r)
    rnd32 (l.decode e.bits s) (a.2.plus e.tal)

/-- Tallies of an update instruction on the die's page (R299). -/
def Mach.updTally (m : Mach) (die : Nat) (t : Tal) : Mach := m.tally tyUpd die t

/-- One instruction of a lane: the lane takes an element where it holds none; where the instruction is the next of its
program it has its effect `g` on the lane and the module, and the element ends behind the last one. -/
def Mach.laneStep (m : Mach) (die lane : Nat) (f : UpdFields) (op : Nat)
    (g : Job → GroupSt → LaneSt → Mach → LaneSt × Mach) : Mach :=
  let w := f.word op
  let s := match Tab.get none (m.getUpd die).lanes lane with
    | some _ => m
    | none => m.laneTake die lane w
  match Tab.get none (s.getUpd die).lanes lane with
  | none => s
  | some l =>
    match s.job? l.slot with
    | none => s
    | some j =>
      let prog := (s.getUpd die).programs.getD (s.groupDesc j l.group).program []
      if !j.updates || prog[l.pc]? != some w then s
      else
        let s := s.modUpd die fun u => { u with busy := u.busy + 1 }
        let r := g j (Tab.get {} j.groups l.group) l s
        (r.2.modUpd die fun u => { u with lanes := Tab.put none u.lanes lane (some { r.1 with pc := l.pc + 1 }) }).laneEnd
          die lane

/-- An instruction that writes rD from its operands. -/
def Mach.laneOp (m : Mach) (die lane : Nat) (f : UpdFields) (op : Nat) (g : Nat → Nat → Nat → Nat × Tal) : Mach :=
  m.laneStep die lane f op fun _ gs l m =>
    let r := g (laneOperand l gs f.imm f.a) (laneOperand l gs f.imm f.b) (laneOperand l gs f.imm f.c)
    ({ l with regs := Tab.put 0 l.regs f.d (BitVec.ofNat 32 r.1) }, m.updTally die r.2)

/-- The value a LD delivers: param and states read under R71, grad as N × 2^E rounded once (R282). -/
def laneLoad (l : LaneSt) (g : GroupSt) (f : Nat) : Nat × Tal :=
  match f with
  | 1 => rnd32 (Val.ofInt (sgn 64 l.grad.toNat) g.exp) {}
  | 0 => pass32 (l.loaded.getD 0 0).toNat
  | n => pass32 (l.loaded.getD (n - 1) 0).toNat

/-- UPD_NOP (R282). -/
def execUpdNop (die lane : Nat) (f : UpdFields) (s : State) : Host.Outcome State Fault Refusal :=
  .next (s.onMach fun m => m.laneStep die lane f 0x00 fun _ _ l m => (l, m))

/-- UPD_LD (R280, R282). -/
def execUpdLd (die lane : Nat) (f : UpdFields) (s : State) : Host.Outcome State Fault Refusal :=
  .next (s.onMach fun m => m.laneStep die lane f 0x01 fun _ g l m =>
    let r := laneLoad l g f.f
    ({ l with regs := Tab.put 0 l.regs f.d (BitVec.ofNat 32 r.1) }, m.updTally die r.2))

/-- UPD_ST (R280, R282). -/
def execUpdSt (die lane : Nat) (f : UpdFields) (s : State) : Host.Outcome State Fault Refusal :=
  .next (s.onMach fun m => m.laneStep die lane f 0x02 fun _ g l m =>
    let r := pass32 (laneOperand l g f.imm f.a)
    let i := if f.f = 0 then 0 else f.f - 1
    ({ l with stored := l.stored.set i (some (BitVec.ofNat 32 r.1)) }, m.updTally die r.2))

/-- UPD_ADD (R282). -/
def execUpdAdd (die lane : Nat) (f : UpdFields) (s : State) : Host.Outcome State Fault Refusal :=
  .next (s.onMach fun m => m.laneOp die lane f 0x03 fun a b _ => f32op Val.add a b)

/-- UPD_SUB (R282). -/
def execUpdSub (die lane : Nat) (f : UpdFields) (s : State) : Host.Outcome State Fault Refusal :=
  .next (s.onMach fun m => m.laneOp die lane f 0x04 fun a b _ => f32op (fun x y => x.add y.opp) a b)

/-- UPD_MUL (R282). -/
def execUpdMul (die lane : Nat) (f : UpdFields) (s : State) : Host.Outcome State Fault Refusal :=
  .next (s.onMach fun m => m.laneOp die lane f 0x05 fun a b _ => f32op Val.mul a b)

/-- UPD_FMA (R282). -/
def execUpdFma (die lane : Nat) (f : UpdFields) (s : State) : Host.Outcome State Fault Refusal :=
  .next (s.onMach fun m => m.laneOp die lane f 0x06 vfma)

/-- UPD_DIV (R274, R282). -/
def execUpdDiv (die lane : Nat) (f : UpdFields) (s : State) : Host.Outcome State Fault Refusal :=
  .next (s.onMach fun m => m.laneOp die lane f 0x07 fun a b _ => updDivide a b)

/-- UPD_SQRT (R274, R282). -/
def execUpdSqrt (die lane : Nat) (f : UpdFields) (s : State) : Host.Outcome State Fault Refusal :=
  .next (s.onMach fun m => m.laneOp die lane f 0x08 fun a _ _ => updRoot a)

/-- UPD_RSQRT (R273, R282). -/
def execUpdRsqrt (die lane : Nat) (f : UpdFields) (s : State) : Host.Outcome State Fault Refusal :=
  .next (s.onMach fun m => m.laneOp die lane f 0x09 fun a _ _ => vrsq a)

/-- UPD_MIN (R282). -/
def execUpdMin (die lane : Nat) (f : UpdFields) (s : State) : Host.Outcome State Fault Refusal :=
  .next (s.onMach fun m => m.laneOp die lane f 0x0A fun a b _ => f32pick true a b)

/-- UPD_MAX (R282). -/
def execUpdMax (die lane : Nat) (f : UpdFields) (s : State) : Host.Outcome State Fault Refusal :=
  .next (s.onMach fun m => m.laneOp die lane f 0x0B fun a b _ => f32pick false a b)

/-- UPD_ABS (R282). -/
def execUpdAbs (die lane : Nat) (f : UpdFields) (s : State) : Host.Outcome State Fault Refusal :=
  .next (s.onMach fun m => m.laneOp die lane f 0x0C fun a _ _ => f32abs a)

/-- UPD_SIGN (R282). -/
def execUpdSign (die lane : Nat) (f : UpdFields) (s : State) : Host.Outcome State Fault Refusal :=
  .next (s.onMach fun m => m.laneOp die lane f 0x0D fun a _ _ => updSignOf a)

/-- UPD_SEL (R282). -/
def execUpdSel (die lane : Nat) (f : UpdFields) (s : State) : Host.Outcome State Fault Refusal :=
  .next (s.onMach fun m => m.laneOp die lane f 0x0E fun a b c => updSelect f.f a b c)

/-- UPD_CLIP (R282). -/
def execUpdClip (die lane : Nat) (f : UpdFields) (s : State) : Host.Outcome State Fault Refusal :=
  .next (s.onMach fun m => m.laneOp die lane f 0x0F updClamp)

/-- UPD_LERP (R282). -/
def execUpdLerp (die lane : Nat) (f : UpdFields) (s : State) : Host.Outcome State Fault Refusal :=
  .next (s.onMach fun m => m.laneOp die lane f 0x10 updInterp)

/-- UPD_POW (R283). -/
def execUpdPow (die lane : Nat) (f : UpdFields) (s : State) : Host.Outcome State Fault Refusal :=
  .next (s.onMach fun m => m.laneOp die lane f 0x11 fun a b _ => updPower a b)

/-- UPD_AMAX: the group's pending amax code rises (R288). -/
def execUpdAmax (die lane : Nat) (f : UpdFields) (s : State) : Host.Outcome State Fault Refusal :=
  .next (s.onMach fun m => m.laneStep die lane f 0x12 fun _ g l m =>
    let a := rd32 (laneOperand l g f.imm f.a)
    (l, (m.modJob l.slot fun j =>
      { j with groups := Tab.upd {} j.groups l.group fun g =>
                 { g with pending := BitVec.ofNat 15 (max g.pending.toNat (amaxCode a.1)) } }).updTally die a.2))

/-- UPD_SRND: the field that the element's position in its tile receives under the key of R88, d the instruction's index
(R284). -/
def execUpdSrnd (die lane : Nat) (f : UpdFields) (s : State) : Host.Outcome State Fault Refusal :=
  .next (s.onMach fun m => m.laneStep die lane f 0x13 fun j g l m =>
    let h := m.jobHdr j
    let key := tileKey h.seed (BitVec.ofNat 64 (m.groupDesc j l.group).stream) j.step
      (BitVec.ofNat 64 (l.row / 32 * 2 ^ 32 + l.col / 32)) (BitVec.ofNat 64 l.pc)
    let field := (keyedFields key).getD (32 * (l.row % 32) + l.col % 32) 0
    let r := updRoundStoch f.f (f.imm % 8) g.amax.toNat field h.sr3 (laneOperand l g f.imm f.a)
    ({ l with regs := Tab.put 0 l.regs f.d (BitVec.ofNat 32 r.1) }, m.updTally die r.2))

/-! ## The matrix unit (R292 to R297) -/

/-- A square binary64 matrix by its elements, row-major. -/
abbrev Mat := Array Nat

/-- Round to binary64, counting (R294). -/
def rnd64 (x : Trunc) : StateM Tal Nat := fun t => let r := Ieee.b64.round x; (r.bits, t.plus r.tal)
/-- A binary64 read, counting (R71). -/
def rd64 (x : Nat) : StateM Tal Val := fun t => let r := Ieee.b64.read x; (r.val, t.plus r.tal)

/-- fma64 -/
def fma64 (x y acc : Nat) : StateM Tal Nat := fun t => let r := vfma64 x y acc; (r.1, t.plus r.2)

/-- The bits of a small integer in binary64. -/
def int64Bits (n : Nat) : Nat := (Ieee.b64.round (Val.ofInt n 0).exact).bits

/-- matmul64 -/
def matmul64 (n : Nat) (x y : Mat) : StateM Tal Mat := do
  let l ← (List.range (n * n)).mapM fun e =>
    (List.range n).foldlM (fun acc k => fma64 (x.getD (e / n * n + k) 0) (y.getD (k * n + e % n) 0) acc) 0
  return l.toArray

/-- sqrt64 of a non-negative value. -/
def sqrt64 (x : Nat) : StateM Tal Nat := do
  let v ← rd64 x
  if v.isZero then return 0 else rnd64 (sqrtTrunc 60 v)

/-- div64 by a non-zero value. -/
def div64 (x y : Nat) : StateM Tal Nat := do
  let a ← rd64 x
  let b ← rd64 y
  if a.isZero then return 0 else rnd64 (divTrunc 60 a b)

/-- frob: fma64 of squares in row-major order, then sqrt64. -/
def frob (x : Mat) : StateM Tal Nat := do
  let s ← x.toList.foldlM (fun acc e => fma64 e e acc) 0
  sqrt64 s

/-- (p + 1) δ − m, rounded, times 2^−log2 p. -/
def rootStep (p n : Nat) (m : Mat) : StateM Tal Mat := do
  let l ← (List.range (n * n)).mapM fun e => do
    let v ← rd64 (m.getD e 0)
    let d := if e / n = e % n then Val.ofInt (p + 1 : Nat) 0 else {}
    let r ← rnd64 (d.add v.opp).exact
    let w ← rd64 r
    rnd64 { w with e := w.e - (Nat.log2 p : Nat) }.exact
  return l.toArray

/-- The iterations of R294. -/
def rootIter (p n : Nat) : Nat → Mat → Mat → StateM Tal (Mat × Mat)
  | 0, x, m => return (x, m)
  | k + 1, x, m => do
    let t ← rootStep p n m
    let x ← matmul64 n x t
    let u ← matmul64 n t t
    let u ← if p = 4 then matmul64 n u u else pure u
    let m ← matmul64 n u m
    rootIter p n k x m

/-- The root computation of R294: X, or none where it is rejected, and the residual. -/
def rootCompute (d : PrecondDesc) (a : Mat) : StateM Tal (Option Mat × Nat) := do
  let f ← frob a
  if f % 2 ^ 63 = 0 then return (none, 0)
  else
    let c ← sqrt64 f
    let c ← if d.root = 4 then sqrt64 c else pure c
    let inv ← div64 (int64Bits 1) c
    let x : Mat := ((List.range (d.n * d.n)).map fun e => if e / d.n = e % d.n then inv else 0).toArray
    let m ← a.toList.mapM fun e => div64 e f
    let (x, m) ← rootIter d.root d.n d.iters x m.toArray
    let diff ← (List.range (d.n * d.n)).mapM fun e => do
      let v ← rd64 (m.getD e 0)
      rnd64 (v.add (if e / d.n = e % d.n then Val.ofInt (-1) 0 else {})).exact
    let r ← frob diff.toArray
    let rv := (Ieee.b64.read r).val
    let tol ← rd64 d.rootTol
    return (if tol.lt rv then none else some x, r)

/-- The next queued root computation: by trigger step, then PRECOND (R297). -/
def nextRoot : List RootJob → Option RootJob
  | [] => none
  | r :: rs =>
    match nextRoot rs with
    | none => some r
    | some b => if b.step.toNat < r.step.toNat ∨ (b.step = r.step ∧ b.precond < r.precond) then some b else some r

/-- The matrix unit starts the next queued computation (R297); a quiescing die starts none. -/
def Mach.rootStart (m : Mach) (die : Nat) : Mach :=
  let u := m.getUpd die
  match u.rootRunning, nextRoot u.rootQueue with
  | none, some r =>
    if m.takesWork tyUpd die then
      m.modUpd die fun u => { u with rootRunning := some r, rootQueue := u.rootQueue.erase r }
    else m
  | _, _ => m

/-- ROOT_COMPUTE_START -/
def execRootComputeStart (die : Nat) (s : State) : Host.Outcome State Fault Refusal :=
  .next (s.onMach fun m => m.rootStart die)

/-- The running computation finishes: its result stands with the preconditioner until the commit of s + LAG (R294, R296). -/
def Mach.rootFinish (m : Mach) (die : Nat) : Mach :=
  match (m.getUpd die).rootRunning with
  | none => m
  | some r =>
    let m := m.modUpd die fun u => { u with rootRunning := none, roots := u.roots + 1 }
    match m.job? r.slot with
    | none => m
    | some j =>
      let p := Tab.get {} j.preconds r.precond
      match p.snapshot with
      | none => m
      | some (_, a) =>
        let c := (rootCompute (m.precondDesc j r.precond) (a.map (·.toNat)).toArray).run {}
        let x := c.1.1.map fun x => x.toList.map (BitVec.ofNat 64)
        (m.updTally die c.2).modJob r.slot fun j =>
          { j with preconds := Tab.upd {} j.preconds r.precond fun p =>
                     { p with result := some (x, BitVec.ofNat 64 c.1.2), residual := BitVec.ofNat 64 c.1.2 } }

end Sys2Proof.Machine
end

