-- ==== Sys2Proof/Machine/Records.lean ====
section
/-!
DEFINITION. Commands that a context has taken and the records they end with (R426 to R430), the drop tally array (R434), and
what stops the work of a job's attempt on this module (R322).
-/
namespace Sys2Proof.Machine

/-! ## Commands and their records (R426 to R430) -/

/-- k bytes at an offset of a command, as a number (R427). -/
def cmdN (bs : List Byte) (o k : Nat) : Nat := leNat ((bs.drop o).take k)

/-- Command n that context c has taken and whose record has not been decided. -/
def Mach.taken? (m : Mach) (c n : Nat) : Option TakenCmd := (m.getCtx c).taken.find? fun t => t.n == n

/-- The meaning of command n of context c is decided: its record awaits COMMAND_COMPLETE. -/
def Mach.finishCmd (m : Mach) (c n status : Nat) (reason detail value flags : Nat := 0) : Mach :=
  match m.taken? c n with
  | none => m
  | some t =>
    let r : Record := { tag := t.tag, status := status, reason := reason, detail := detail, value := value, flags := flags,
                        opcode := t.opcode, notify := t.notify }
    m.modCtx c fun x => { x with taken := x.taken.filter (·.n != n), finished := x.finished ++ [(n, r)] }

/-- Command n of context c is accepted: its record waits for what it orders. -/
def Mach.acceptCmd (m : Mach) (c n : Nat) : Mach :=
  m.modCtx c fun x => { x with taken := x.taken.map fun t => if t.n = n then { t with accepted := true } else t }

/-! ## What a core's phase waits for (R187, R188) -/

/-- Is program p of phase i? -/
def inPhase (ph : ImgPhase) (p : Nat) : Bool := decide (ph.first ≤ p) && decide (p < ph.first + ph.count)

/-- The bindings of a job's phase on cluster k. -/
def Mach.phaseBinds (m : Mach) (j : Job) (k : Nat) : List Bind :=
  match j.plat with
  | none => []
  | some p => p.binds.filter fun b => b.cluster == k && inPhase (imgPhase (m.jobRd j) (m.jobHdr j) j.phase) b.program

/-- Has the last run of every core of cluster k in a job's phase ended? -/
def Mach.clusterEnded (m : Mach) (j : Job) (k : Nat) : Bool :=
  j.bound.contains k && (m.phaseBinds j k).all fun b => (m.getCore (16 * k + b.slot)).bind.ended

/-- Has every submission of core q to the engines completed (R188)? A traverse descriptor of a later step is that step's work
(R304). -/
def Mach.submissionsDone (m : Mach) (q : Nat) (step : BitVec 64) : Bool :=
  let k := q / 16
  let t := m.getTrv k
  let g := m.getGth k
  let e := m.getSpr k
  !t.queue.any (fun d => d.org.core == q && decide (d.step.toNat ≤ step.toNat)) &&
    !t.work.any (fun w => w.desc.org.core == q && decide (w.desc.step.toNat ≤ step.toNat)) &&
    !g.queue.any (fun d => d.org.core == q) && !g.work.any (fun w => w.desc.org.core == q) &&
    !e.queue.any (fun d => d.core == q) && !e.work.any (fun w => w.desc.core == q) && !e.routed.any fun r => r.core == q

/-! ## Stopping the work of an attempt (R201, R322, R455) -/

/-- The clusters of a job on this module. -/
def Mach.jobClusters (m : Mach) (j : Job) : List Nat :=
  (m.clu.filter fun e => e.2.assigned && e.2.job.toNat == j.id).map (·.1)

/-- Is an owner of reads a unit of one of these clusters whose work ends with an attempt? Traverse work goes on (R134). -/
def Owner.ofAttempt (ks : List Nat) : Owner → Bool
  | .core q _ => ks.contains (q / 16)
  | .gth k _ => ks.contains k
  | .spr k _ => ks.contains k
  | .gthStart k => ks.contains k
  | .sprStart k => ks.contains k
  | .sprFwd k => ks.contains k
  | .prefetch k => ks.contains k
  | _ => false

/-- Stop the cores of a cluster at an instruction boundary, and free what they hold. -/
def Mach.stopCores (m : Mach) (k : Nat) : Mach :=
  (List.range 16).foldl (fun m i => m.modCore (16 * k + i) fun c =>
    { c with run := .idle, passed := false, draining := false, waitCounter := 0, waitTarget := 0, xfers := [], held := [] }) m

/-- Stop what a job's attempt has going on this module: cores stop, engines discard its descriptors, every issuer frees the
slots the attempt holds (R322, R455). -/
def Mach.stopWork (m : Mach) (slot : Nat) : Mach :=
  match m.job? slot with
  | none => m
  | some j =>
    let ks := m.jobClusters j
    let m := ks.foldl (fun m k =>
      let m := m.stopCores k
      let m := m.modGth k fun g => { g with queue := g.queue.filter (·.org.slot != slot),
                                            work := g.work.filter (·.desc.org.slot != slot),
                                            coal := g.coal.filter (·.slot != slot) }
      m.modSpr k fun e => { e with routed := [], queue := e.queue.filter (·.slot != slot),
                                   work := e.work.filter (·.desc.slot != slot),
                                   fwd := e.fwd.filter (·.desc.slot != slot), reports := [] }) m
    { m with fetches := m.fetches.filter fun f => !f.owner.ofAttempt ks, posted := ks.foldl (fun t k => Tab.put [] t k []) m.posted }

end Sys2Proof.Machine
end

