-- ==== Sys2Proof/Machine/Commit.lean ====
section
/-!
DEFINITION. The step protocol of the commit unit (R307 to R328): its messages, the reduce closure, votes, the point of no
return, aborts with rollback, halts, and the timeouts of R317.
-/
namespace Sys2Proof.Machine

/-! ## Messages (R312) -/

/-- A commit message read from a packet. -/
structure CommitMsg where
  kind : Nat
  attempt : Nat
  job : Nat
  ready : Bool
  reason : Nat
  carried : Nat
  step : Nat
  sent : Nat
  applied : Nat
  /-- the module that sent it -/
  source : Nat
  /-- the command of a CARRY -/
  command : List Byte

/-- The message a packet carries. -/
def CommitMsg.ofPacket (p : Packet) : CommitMsg :=
  let n (o k : Nat) : Nat := cmdN p.data o k
  { kind := n 0 1, attempt := n 1 1, job := n 2 2, ready := n 4 1 == 1, reason := n 5 1, carried := n 6 2, step := n 8 8,
    sent := n 16 8, applied := n 24 8, source := p.src / 8192, command := p.data.drop 32 }

/-- Take a commit message of a kind that has been delivered to the commit unit: the slot of its job and the message. The
sender has been heard from (R317). -/
def Mach.takeMsg (m : Mach) (p : Packet) (kind : Nat) : Option (Nat × CommitMsg × Mach) :=
  let a : Arrived := { target := cmtUnit, pkt := p }
  let c := CommitMsg.ofPacket p
  if m.arrived.contains a && p.op == 0x30 && c.kind == kind then
    let m := { m with arrived := m.arrived.erase a }
    match m.slotOfJob c.job with
    | none => none
    | some slot =>
      some (slot, c, m.modJob slot fun j =>
        let peer (x : PeerSt) : PeerSt := if x.module = c.source then { x with heard := m.now } else x
        { j with part := if c.source = j.coordModule then { j.part with heard := m.now } else j.part,
                 coord := { j.coord with peers := j.coord.peers.map peer } })
  else none

/-- The effect of a message of a kind, where it has been delivered. A message for a job that this module does not hold is
dropped. -/
def Mach.onMsg (m : Mach) (p : Packet) (kind : Nat) (g : Mach → Nat → Job → CommitMsg → Mach) : Mach :=
  let a : Arrived := { target := cmtUnit, pkt := p }
  match m.takeMsg p kind with
  | some (slot, c, m) =>
    match m.job? slot with
    | some j => g m slot j c
    | none => m
  | none =>
    if m.arrived.contains a && p.op == 0x30 && (CommitMsg.ofPacket p).kind == kind then
      { m with arrived := m.arrived.erase a }
    else m

/-- Is this module the coordinator of a job (R312)? -/
def Mach.coordinates (m : Mach) (j : Job) : Bool := j.coordModule == m.self

/-- Does a message name the step and attempt that the coordinator runs? -/
def CoordSt.names (c : CoordSt) (x : CommitMsg) : Bool := x.step == c.step.toNat && x.attempt == c.attempt.toNat

/-- Does a message name the step and attempt that this participant runs? -/
def Job.names (j : Job) (x : CommitMsg) : Bool := x.step == j.step.toNat && x.attempt == j.attempt.toNat

/-- Send a message to every participant (R313). -/
def Mach.sendAll (m : Mach) (slot kind : Nat) (ready reason carried : Nat := 0) (step attempt : Option Nat := none) : Mach :=
  match m.job? slot with
  | none => m
  | some j => j.participants.foldl (fun m d =>
      m.sendCommit slot d kind ready reason carried 0 0 step attempt) m

/-- Send a CARRY: a commit message followed by the 64-byte command (R312; DESIGN CHOICE: the message layout comes first). -/
def Mach.sendCarry (m : Mach) (slot dest : Nat) (bytes : List Byte) : Mach :=
  match m.job? slot with
  | none => m
  | some j =>
    m.send cmtUnit { dst := dest * 8192 + cmtUnit, src := 0, tc := 3, op := 0x30, job := j.id, domain := j.domain, len := 96,
                     data := commitMsg 13 j.attempt.toNat j.id 0 0 0 j.step.toNat 0 0 ++ bytes }

/-- Change what the coordinator holds of a participant. -/
def Mach.modPeer (m : Mach) (slot module : Nat) (g : PeerSt → PeerSt) : Mach :=
  m.modJob slot fun j =>
    { j with coord := { j.coord with peers := j.coord.peers.map fun x => if x.module = module then g x else x } }

/-! ## Halts and the end of a run (R320, R325, R326, R428) -/

/-- Tell the job's context that an event of its page has occurred. -/
def Mach.jobEvent (m : Mach) (slot e : Nat) : Mach :=
  match m.job? slot with
  | none => m
  | some j => m.event tyCtx j.ctx e

/-- The run of a job ends on this module: the RUN record, the STOP records, the context no longer runs. -/
def Mach.endRun (m : Mach) (slot status reason : Nat) : Mach :=
  match m.job? slot with
  | none => m
  | some j =>
    let m := match j.run with
      | some (c, n) => m.finishCmd c n status reason 0 j.step.toNat (if j.runGranted then 2 else 0)
      | none => m
    let stopStatus := if status = 14 then 14 else 0
    let m := j.stops.foldl (fun m x => m.finishCmd x.1 x.2 stopStatus (if status = 14 then reason else 0)) m
    let stays := status == 14 || status == 11
    let m := match stays, (m.getCtx j.ctx).save with
      | true, some v => m.finishCmd j.ctx v.1 14 reason
      | _, _ => m
    let m := m.modCtx j.ctx fun x =>
      { x with state := if stays then .stopped else if x.state = .running then .active else x.state,
               save := if stays then none else x.save }
    m.modJob slot fun j =>
      { j with run := none, runsHeard := [], stepsLeft := none, stopAsked := false, stops := [],
               noFit := false, runGranted := false, started := false, tag := none,
               state := if stays then .halted else .idle }

/-- The job halts on this module with a halt code (R325, R326): the commands that wait for it end as HALTED. -/
def Mach.haltJob (m : Mach) (slot code : Nat) (inconsistent : Bool := false) : Mach :=
  match m.job? slot with
  | none => m
  | some j =>
    if j.state == .halted then
      if inconsistent && !j.inconsistent then (m.modJob slot fun j => { j with inconsistent := true }).event tyCmt 0 4 else m
    else
      let m := (m.stopWork slot).modJob slot fun j =>
        { j with halt := BitVec.ofNat 8 code, inconsistent := j.inconsistent || inconsistent }
      let m := { m with cmt := { m.cmt with halts := m.cmt.halts + 1 } }.event tyCmt 0 3
      let m := if inconsistent && !j.inconsistent then m.event tyCmt 0 4 else m
      let m := m.fault { kind := 8, event := 11, unit := 0, severity := 0, rung := 4, attempt := j.attempt.toNat,
                         domain := j.domain, step := j.step.toNat, job := j.id, station := m.station cmtUnit, detail := code }
      let m := j.carried.foldl (fun m c => m.finishCmd c.ctx c.n 14 code) m
      let m := j.monuments.foldl (fun m o => m.finishCmd o.ctx o.n 14 code) m
      let m := m.setDies slot 4
      (m.modJob slot fun j => { j with carried := [], monuments := [] }).endRun slot 14 code

/-! ## ABORT by the coordinator (R314, R320) -/

/-- The coordinator aborts the attempt it runs for a reason, or 16 plus a halt code; after the grant the job halts instead
(R320). A condition that comes after the abort or the commit decision is stale (R454). -/
def Mach.coordAbort (m : Mach) (slot reason : Nat) : Mach :=
  match m.job? slot with
  | none => m
  | some j =>
    if j.coord.commitSent || j.coord.abortSent then m.stale
    else
      let reason := if j.coord.granted then 16 + 6 else reason
      let m := m.modJob slot fun j =>
        { j with coord := { j.coord with abortSent := true, peers := j.coord.peers.map fun x => { x with done := false } } }
      m.sendAll slot 5 0 reason 0 (some j.coord.step.toNat) (some j.coord.attempt.toNat)

/-! ## Reduce closure (R308, R309) -/

/-- Has the lookup closure of a job's step been reached on this module (R162): no row read of its engines is in flight? -/
def Mach.lookupClosed (m : Mach) (j : Job) : Bool :=
  let ks := m.jobClusters j
  ks.all (fun k => (m.getGth k).work.isEmpty) && !m.fetches.any fun f => f.data.isNone &&
    match f.owner with
    | .prefetch k => ks.contains k
    | .gth k _ => ks.contains k
    | .gthStart k => ks.contains k
    | _ => false

/-- Has every program of the first four phase kinds ended on this module (R188, R308)? -/
def Mach.phasesDone (m : Mach) (j : Job) : Bool := decide ((m.jobHdr j).phases ≤ j.phase)

/-- The step is live at a participant; silences count from here (R317). -/
def Mach.stepLive (m : Mach) (slot : Nat) : Mach :=
  m.modJob slot fun j =>
    { j with part := { j.part with live := true, heard := if j.part.live then j.part.heard else m.now } }

/-- Send REDUCED where its conditions hold, and again where APPLIED has changed (R308). -/
def Mach.tryReduce (m : Mach) (slot : Nat) : Mach :=
  match m.job? slot with
  | none => m
  | some j =>
    let send (m : Mach) : Mach :=
      ((m.modJob slot fun j =>
        { j with state := .reducing, part := { j.part with reducedSent := true, reportedApplied := j.applied.toNat } }).stepLive slot).sendCommit
          slot j.coordModule 1 0 0 0 j.sent.toNat j.applied.toNat
    if j.part.closed || j.part.aborting || j.part.voteSent then m
    else if j.part.reducedSent then (if j.part.reportedApplied = j.applied.toNat then m else send m)
    else if j.state == .running && m.phasesDone j && m.lookupClosed j then send m
    else m

/-- The coordinator sends CLOSED once the sums match (R309). -/
def Mach.tryClose (m : Mach) (slot : Nat) : Mach :=
  match m.job? slot with
  | none => m
  | some j =>
    let rs := j.coord.peers.map (·.reduced)
    if j.coord.closedSent || j.coord.abortSent || rs.any (·.isNone) then m
    else
      let sent : Nat := rs.foldl (fun (n : Nat) r => n + (r.getD (0, 0)).1) 0
      let applied : Nat := rs.foldl (fun (n : Nat) r => n + (r.getD (0, 0)).2) 0
      if sent = applied then
        (m.modJob slot fun j => { j with coord := { j.coord with closedSent := true } }).sendAll slot 2
      else m

/-- REDUCED at the coordinator (R309). -/
def Mach.onReduced (m : Mach) (slot : Nat) (j : Job) (c : CommitMsg) : Mach :=
  if m.coordinates j && j.coord.names c then
    let old := (j.coord.peers.find? fun x => x.module == c.source).bind (·.reduced)
    let changed := match old with
      | some r => r.2 != c.applied
      | none => true
    let m := m.modPeer slot c.source fun x => { x with reduced := some (c.sent, c.applied) }
    -- the step is live from its first REDUCED: silences count from here (R317)
    let m := m.modJob slot fun j =>
      { j with coord := { j.coord with live := true, appliedAt := if changed then m.now else j.coord.appliedAt,
                                       peers := if j.coord.live then j.coord.peers
                                                else j.coord.peers.map fun x => { x with heard := m.now } } }
    m.tryClose slot
  else m

/-- REDUCED -/
def execReduced (p : Packet) (s : State) : Host.Outcome State Fault Refusal :=
  .next (s.onMach fun m => m.onMsg p 1 Mach.onReduced)

/-! ## The update phase begins (R287, R303) -/

/-- The scalar of a curve at a position (R287), the points as (position, binary32); and the tallies of the values read and of the
rounding (R71). -/
def curveScalar (pts : List (Nat × Nat)) (t : Nat) : Nat × Tal :=
  match pts.head?, pts.getLast? with
  | some a, some b =>
    if t ≤ a.1 then pass32 a.2
    else if b.1 ≤ t then pass32 b.2
    else
      match (pts.zip (pts.drop 1)).find? fun p => decide (p.1.1 ≤ t) && decide (t < p.2.1) with
      | none => (0, {})
      | some (p, q) =>
        let x := rd32 p.2
        let y := rd32 q.2
        let tal := x.2.plus y.2
        let dv := y.1.add x.1.opp
        let span := Val.ofInt ((q.1 - p.1 : Nat) : Int) 0
        let num := (x.1.mul span).add (dv.mul (Val.ofInt ((t - p.1 : Nat) : Int) 0))
        if num.isZero then (0, tal)
        else
          let r := Ieee.b32.round (divTrunc 30 num span)
          (r.bits, tal.plus r.tal)
  | _, _ => (0, {})

/-- The points that the bytes of a curve spell. -/
def curvePoints (bs : List Byte) : List (Nat × Nat) :=
  (List.range (bs.length / 16)).map fun i => (rdList bs (16 * i) 8, rdList bs (16 * i + 8) 4)

/-- What forming the scalars and exponents of a step meets. -/
structure UpdStart where
  groups : Tab GroupSt
  /-- tallies of the scalars: they count on the page of U0's die, one group being formed once (DESIGN CHOICE) -/
  tal : Tal := {}
  /-- reduction descriptors of statistics with a sum above 2^62 in magnitude (R79, R298) -/
  ranged : List Nat := []
  /-- a curve does not translate: PROGRAM_FAULT (R287) -/
  fault : Bool := false
  /-- a curve or a table descriptor failed its second read -/
  working : Bool := false
  committed : Bool := false

/-- The scalar of curve i of a group at a position: present curves are read through region 0 (R285, R287). -/
def groupScalar (ctx : Nat) (d : GroupDesc) (t i : Nat) : StateT UpdStart Rd (BitVec 32) := do
  if !bitAt d.curveMask i then return 0
  else
    let m := (← (get : Rd RdSt)).m
    match m.xlate ctx .read (d.curves + 4096 * i) (16 * d.points i) with
    | none =>
      modify fun s => { s with fault := true }
      return 0
    | some p =>
      let r ← (rdBytes p.1 p.2 (16 * d.points i) .working : Rd (List Byte × Bool))
      if r.2 then modify fun s => { s with working := true }
      let c := curveScalar (curvePoints r.1) t
      modify fun s => { s with tal := s.tal.plus c.2 }
      return BitVec.ofNat 32 c.1

/-- Scalar i of a group at its committed position: what the next step takes, as UPD_GROUP_SCALAR shows it (R287, R301). -/
def Mach.nextScalar (m : Mach) (j : Job) (g i : Nat) : BitVec 32 :=
  let d := m.groupDesc j g
  if !bitAt d.curveMask i || !decide (g < (m.jobHdr j).groups) then 0
  else
    match m.xlate j.ctx .read (d.curves + 4096 * i) (16 * d.points i) with
    | some p =>
      if p.1 = m.self then
        BitVec.ofNat 32 (curveScalar (curvePoints (m.peek p.2 (16 * d.points i))) (Tab.get {} j.groups g).position.toNat).1
      else 0
    | none => 0

/-- EXP of reduction descriptor i as a die reads it; none where the read fails twice. -/
def readExp (j : Job) (i : Nat) : Rd (Option Int) := do
  let m ← rdMach
  let r ← rdBytes m.self (j.reduceBase.toNat + 32 * i) 32 .committed
  return if r.2 then none else some (ReduceDesc.ofRd (rdList r.1) 0).exp

/-- Where the first n words of a reduction's sums stand on this module: first word, offset, words. -/
def Job.sumRuns (j : Job) (reduce n : Nat) : List (Nat × Nat × Nat) :=
  (j.placed.filter fun p => p.kind == 1 && p.id == reduce && decide (p.first < n)).map fun p =>
    (p.first, p.addrs.headD 0, min p.count (n - p.first))

/-- The first n sums of a reduction on this module, zero where none is placed; and whether a read failed twice (R292, R298). -/
def readSums (j : Job) (reduce n : Nat) (kind : DataKind) : Rd (List Nat × Bool) := do
  let m ← rdMach
  let rs ← (j.sumRuns reduce n).mapM fun r => do
    let b ← rdBytes m.self r.2.1 (8 * r.2.2) kind
    return (r.1, words8 b.1, b.2)
  let word (w : Nat) : Nat :=
    ((rs.find? fun r => decide (r.1 ≤ w) && decide (w < r.1 + r.2.1.length)).map fun r => r.2.1.getD (w - r.1) 0).getD 0
  return ((List.range n).map word, rs.any (·.2.2))

/-- The dies look at the sums of the step's statistics before the vote: one that fails twice keeps the step from committing, and one
above 2^62 marks it (R79, R298; DEDUCED: the fold itself follows in the commit, R293). -/
def checkStats (j : Job) : StateT UpdStart Rd Unit :=
  (j.placed.filter fun p => p.kind == 2).forM fun p => do
    let d := (← (get : Rd RdSt)).m.precondDesc j p.id
    let r ← (readSums j d.statReduce (d.n * d.n) .working : Rd (List Nat × Bool))
    if r.2 then modify fun s => { s with working := true }
    else if r.1.any fun x => decide (2 ^ 62 < (sgn 64 x).natAbs) then modify fun s => { s with ranged := s.ranged ++ [d.statReduce] }

/-- Form the scalars c0 to c7 of every group, and the exponent of its gradients (R279, R287). -/
def updScalars (slots : Nat) (j : Job) (n : Nat) : StateT UpdStart Rd Unit :=
  (List.range n).forM fun g => do
    let m := (← (get : Rd RdSt)).m
    let d := m.groupDesc j g
    let old := Tab.get {} j.groups g
    let cs ← (List.range 8).mapM (groupScalar j.ctx d old.position.toNat)
    let e ← (if d.kind = 0 then do
        match ← (readExp j d.reduce : Rd (Option Int)) with
        | some e => return e
        | none =>
          modify fun s => { s with committed := true }
          return 0
      else if j.sites.any fun x => x.table == d.tableId then do
        let r ← (readTable j slots j.ctx d.tableId : Rd TableRead)
        if r.failed then modify fun s => { s with committed := true }
        return (r.desc.map (·.gradExp)).getD 0
      else pure 0 : StateT UpdStart Rd Int)
    modify fun s => { s with groups := Tab.put {} s.groups g { old with scalars := cs, exp := e, pending := 0, updated := [] } }

/-- The update phase begins on this module once CLOSED has arrived and what the dies need has been read (R303). -/
def Mach.tryUpdate (m : Mach) (slot : Nat) : Mach :=
  match m.job? slot with
  | none => m
  | some j =>
    if !j.part.closed || j.part.updating || j.part.voteSent || j.part.aborting then m
    else
      let x : Rd UpdStart := do
        let r ← (do
          updScalars (m.tableSlots j) j (m.jobHdr j).groups
          checkStats j : StateT UpdStart Rd Unit).run { groups := j.groups }
        return r.2
      match m.runRd (.cmt slot) (some j.domain) (m.causeOf slot) x with
      | (none, m) => m
      | (some s, m) =>
        let m := (m.modJob slot fun j => { j with groups := s.groups }).updTally 0 s.tal
        if s.fault then m.abortCond slot (16 + 4)
        else if s.committed then (m.event tyUpd 0 4).abortCond slot (16 + 5)
        else if s.working then (m.event tyUpd 0 4).abortCond slot 2
        else if !s.ranged.isEmpty then
          ((m.event tyUpd 0 3 s.ranged.length).modJob slot fun j =>
            { j with rangeReduce := (j.rangeReduce ++ s.ranged).eraseDups }).abortCond slot 3
        else
          let m := m.modJob slot fun j =>
            { j with state := if j.part.granted then .pastPnr else .updating, updNext := [],
                     part := { j.part with updating := true } }
          (List.range 2).foldl (fun m d =>
            if m.takesWork tyUpd d then m.modUpd d fun u => { u with state := 1, step := j.step } else m) m

/-- CLOSED at a participant (R303). -/
def Mach.onClosed (m : Mach) (slot : Nat) (j : Job) (c : CommitMsg) : Mach :=
  if j.names c && !j.part.closed && !j.part.aborting then
    (m.modJob slot fun j => { j with part := { j.part with closed := true } }).tryUpdate slot
  else m

/-- CLOSED -/
def execClosed (p : Packet) (s : State) : Host.Outcome State Fault Refusal :=
  .next (s.onMach fun m => m.onMsg p 2 Mach.onClosed)

/-- The commands that this module has accepted for the job's step (R315). -/
def Job.carriedNow (j : Job) : List Carried := j.carried.filter fun c => cmdN c.bytes 8 8 == j.step.toNat

/-- The update phase has finished with no abort condition: a ready VOTE with the carried commands (R313, R315). -/
def Mach.updateDone (m : Mach) (slot : Nat) : Mach :=
  match m.job? slot with
  | none => m
  | some j =>
    if j.updates && m.dieDone slot j 0 && m.dieDone slot j 1 then
      let cs := j.carriedNow
      let m := m.modJob slot fun j =>
        { j with state := .voted, part := { j.part with voteSent := true, readyEver := true } }
      let m := m.setDies slot 0
      let m := m.sendCommit slot j.coordModule 3 1 0 cs.length
      cs.foldl (fun m c => m.sendCarry slot j.coordModule c.bytes) m
    else m

/-- UPDATE_PHASE_DONE (R313). -/
def execUpdatePhaseDone (slot : Nat) (s : State) : Host.Outcome State Fault Refusal :=
  .next (s.onMach fun m => m.updateDone slot)

/-! ## Votes and the commit decision (R313, R314) -/

/-- The coordinator sends COMMIT once every participant has voted ready and its carried commands have come (R313). -/
def Mach.tryCommit (m : Mach) (slot : Nat) : Mach :=
  match m.job? slot with
  | none => m
  | some j =>
    let ok := j.coord.peers.all fun x => match x.vote with
      | some (true, _, n) => x.carried.length == n
      | _ => false
    if ok && !j.coord.commitSent && !j.coord.abortSent && j.coord.closedSent then
      let cs := j.coord.peers.flatMap (·.carried)
      let m := (m.modJob slot fun j => { j with coord := { j.coord with commitSent := true } }).sendAll slot 4 0 0 cs.length
      j.participants.foldl (fun m d => cs.foldl (fun m c => m.sendCarry slot d c) m) m
    else m

/-- VOTE at the coordinator (R314). -/
def Mach.onVote (m : Mach) (slot : Nat) (j : Job) (c : CommitMsg) : Mach :=
  if !m.coordinates j then m
  else if j.coord.names c && !j.coord.commitSent && !j.coord.abortSent then
    let m := m.modPeer slot c.source fun x => { x with vote := some (c.ready, c.reason, c.carried) }
    if c.ready then m.tryCommit slot else m.coordAbort slot c.reason
  else if c.ready then m
  else m.stale

/-- VOTE -/
def execVote (p : Packet) (s : State) : Host.Outcome State Fault Refusal :=
  .next (s.onMach fun m => m.onMsg p 3 Mach.onVote)

/-! ## The point of no return (R318 to R320) -/

/-- A die whose log is full holds its update phase, and the commit unit sends PNR_REQUEST once (R318). -/
def Mach.logFull (m : Mach) (die slot : Nat) : Mach :=
  match m.job? slot with
  | none => m
  | some j =>
    if m.diePaused die slot && j.updates && !j.part.pnrAsked && !j.part.granted then
      (m.modJob slot fun j => { j with part := { j.part with pnrAsked := true } }).sendCommit slot j.coordModule 8
    else m

/-- UNDO_LOG_FULL (R318). -/
def execUndoLogFull (die slot : Nat) (s : State) : Host.Outcome State Fault Refusal :=
  .next (s.onMach fun m => m.logFull die slot)

/-- PNR_REQUEST at the coordinator (R318). -/
def Mach.onPnrRequest (m : Mach) (slot : Nat) (j : Job) (c : CommitMsg) : Mach :=
  if !m.coordinates j || !j.coord.names c || j.coord.abortSent || j.coord.commitSent then m
  else if j.coord.granted then m.sendCommit slot c.source 11
  else if j.coord.pnrAsked then m
  else (m.modJob slot fun j => { j with coord := { j.coord with pnrAsked := true } }).sendAll slot 9

/-- PNR_REQUEST -/
def execPnrRequest (p : Packet) (s : State) : Host.Outcome State Fault Refusal :=
  .next (s.onMach fun m => m.onMsg p 8 Mach.onPnrRequest)

/-- PNR_QUERY at a participant: READY 1 when no abort condition has been found so far (R318). -/
def Mach.onPnrQuery (m : Mach) (slot : Nat) (j : Job) (c : CommitMsg) : Mach :=
  if j.names c && !j.part.aborting then
    m.sendCommit slot j.coordModule 10 (if j.condition = 0 then 1 else 0) j.condition
  else m

/-- PNR_QUERY -/
def execPnrQuery (p : Packet) (s : State) : Host.Outcome State Fault Refusal :=
  .next (s.onMach fun m => m.onMsg p 9 Mach.onPnrQuery)

/-- PNR_ANSWER at the coordinator (R318). -/
def Mach.onPnrAnswer (m : Mach) (slot : Nat) (j : Job) (c : CommitMsg) : Mach :=
  if !m.coordinates j || !j.coord.names c || j.coord.abortSent || j.coord.granted then m
  else if !c.ready then m.coordAbort slot c.reason
  else
    let m := m.modPeer slot c.source fun x => { x with pnr := some true }
    match m.job? slot with
    | none => m
    | some j =>
      if j.coord.peers.all fun x => x.pnr == some true then
        (m.modJob slot fun j => { j with coord := { j.coord with granted := true } }).sendAll slot 11
      else m

/-- PNR_ANSWER -/
def execPnrAnswer (p : Packet) (s : State) : Host.Outcome State Fault Refusal :=
  .next (s.onMach fun m => m.onMsg p 10 Mach.onPnrAnswer)

/-- PNR_GRANT at a participant: the dies go on without logging (R319). -/
def Mach.onPnrGrant (m : Mach) (slot : Nat) (j : Job) (c : CommitMsg) : Mach :=
  if !j.names c || j.part.aborting || j.part.granted then m
  else
    let m := m.modJob slot fun j =>
      { j with part := { j.part with granted := true }, pnr := j.pnr + 1, runGranted := true,
               state := if j.state == .updating then .pastPnr else j.state }
    let m := (m.event tyCmt 0 2).jobEvent slot 5
    (List.range 2).foldl (fun m d => (m.getUpd d).lanes.foldl (fun m e => m.laneEnd d e.1) m) m

/-- PNR_GRANT -/
def execPnrGrant (p : Packet) (s : State) : Host.Outcome State Fault Refusal :=
  .next (s.onMach fun m => m.onMsg p 11 Mach.onPnrGrant)

/-! ## ABORT and rollback (R311, R322) -/

/-- Write back the old contents that the first n records of a die's log hold, newest first; whether a record could not be
read (R311). -/
def Mach.rollDie (m : Mach) (j : Job) (die : Nat) : Nat → Mach × Bool → Mach × Bool
  | 0, acc => acc
  | n + 1, acc =>
    let r := acc.1.readMem (some j.domain) .committed (j.logAt die + 80 * n) 80
    if r.2.1 then m.rollDie j die n (r.2.2.event tyUpd die 4, true)
    else
      let w := r.2.2.writeMem (some j.domain) .committed (leNat (r.1.take 6)) (r.1.drop 16)
      m.rollDie j die n (w.2, acc.2)

/-- Free the gradient sites of a job: its table sites, and its placed sums at zero. -/
def Mach.freeSites (m : Mach) (slot : Nat) : Mach :=
  match m.job? slot with
  | none => m
  | some j =>
    let m := (j.placed.filter fun p => p.kind == 1).foldl (fun m p => m.zeroMem (p.addrs.headD 0) (8 * p.count)) m
    m.modJob slot fun j => { j with sites := [], recordArrays := [], denseCount := [] }

/-- Lanes of both dies without the elements of a job. -/
def Mach.dropLanes (m : Mach) (slot : Nat) : Mach :=
  let keep (_ : Nat) (l : Option LaneSt) : Option LaneSt := match l with
    | some x => if x.slot = slot then none else some x
    | none => none
  (List.range 2).foldl (fun m d => m.modUpd d fun u => { u with lanes := Tab.mapVals none keep u.lanes }) m

/-- A write to another module that its sender holds until it is acknowledged (R389). -/
def Mach.heldWrite (m : Mach) (unit slot mod a : Nat) (bs : List Byte) : List RefreshOut × Mach :=
  let w := m.causeOf slot
  (pieces a bs.length).foldl (fun (acc : List RefreshOut × Mach) p =>
    let d := (bs.drop (p.1 - a)).take p.2
    let x := acc.2.sendWrite unit w mod p.1 d
    (acc.1 ++ [{ unit := unit, handle := x.1, module := mod, addr := p.1, data := d }], x.2)) ([], m)

/-- What raising the exponents of an aborted attempt comes to: an exponent that may not rise, a descriptor that cannot be read, and
else what is written where, and the reduction descriptors raised. -/
structure RaiseOut where
  limit : Bool := false
  corrupt : Bool := false
  puts : List (Nat × Nat × List Byte) := []
  reduces : List Nat := []

/-- Raise an exponent that stands at an offset of a module (R80). -/
def RaiseOut.raise (o : RaiseOut) (mod a : Nat) (e : Int) : RaiseOut :=
  if 32767 < e + 8 then { o with limit := true } else { o with puts := o.puts ++ [(mod, a, leBytes 2 (wrapN 16 (e + 8)))] }

/-- The EXP field of reduction descriptor i (R322, R327). -/
def raiseReduce (j : Job) (i : Nat) : StateT RaiseOut Rd Unit := do
  let self := (← (get : Rd RdSt)).m.self
  match ← (readExp j i : Rd (Option Int)) with
  | none => modify fun o => { o with corrupt := true }
  | some e => modify fun o => { o.raise self (j.reduceBase.toNat + 32 * i + 4) e with reduces := o.reduces ++ [i] }

/-- Does this module raise what a table descriptor on a module holds? One participant does: the one that holds it, or else the
coordinator (DESIGN CHOICE). -/
def Mach.raises (m : Mach) (j : Job) (mod : Nat) : Bool :=
  if j.participants.contains mod then mod == m.self else m.coordinates j

/-- GRAD_EXP or POOL_EXP of the selected slot of a table (R138, R322). -/
def raiseTable (slots : Nat) (j : Job) (field t : Nat) : StateT RaiseOut Rd Unit := do
  let m := (← (get : Rd RdSt)).m
  match m.xlate j.ctx .read (slotAddr slots t (j.selected t)) 64 with
  | none => modify fun o => { o with corrupt := true }
  | some p =>
    if m.raises j p.1 then
      let r ← (readTable j slots j.ctx t : Rd TableRead)
      match r.desc with
      | none => modify fun o => { o with corrupt := true }
      | some d => modify fun o => o.raise p.1 (p.2 + field) (if field = 0x3A then d.gradExp else d.poolExp)

/-- Write the raised exponents: none where a descriptor cannot be read (R322), nor where the job halts because one may not rise, which
leaves the lasting state as step s − 1 committed it (R325). -/
def Mach.writeRaises (m : Mach) (slot : Nat) (j : Job) (o : RaiseOut) : Mach :=
  if o.corrupt || o.limit then m
  else
    let r := o.puts.foldl (fun (acc : List RefreshOut × Mach) x =>
      if x.1 = acc.2.self then (acc.1, (acc.2.writeMem (some j.domain) .committed x.2.1 x.2.2).2)
      else
        let h := acc.2.heldWrite cmtUnit slot x.1 x.2.1 x.2.2
        (acc.1 ++ h.1, h.2)) ([], m)
    (r.2.event tyCmt 0 1 o.puts.length).modJob slot fun j =>
      { j with raised := j.raised ++ o.reduces, part := { j.part with refresh := j.part.refresh ++ r.1 } }

/-- Every exponent of the aborted attempt is raised: those that sites on this module mark, and those that only other
modules found (R322). -/
def Mach.tryRaise (m : Mach) (slot : Nat) : Mach :=
  match m.job? slot with
  | none => m
  | some j =>
    if !j.part.aborting || j.part.rolledBack then m
    else
      let more (k : Nat) : List Nat :=
        if j.part.abortReason = 3 && decide (1 < j.participants.length) then Config.raisedElsewhere j.id j.step j.attempt k else []
      let all (l : List Nat) (k : Nat) : List Nat := (l ++ more k).eraseDups
      let slots := m.tableSlots j
      let x : Rd RaiseOut := do
        let r ← (do
          (all j.rangeGrad 1).forM (raiseTable slots j 0x3A)
          (all j.rangePool 2).forM (raiseTable slots j 0x38)
          (all j.rangeReduce 0).forM (raiseReduce j) : StateT RaiseOut Rd Unit).run {}
        return r.2
      match m.runRd (.cmt slot) (some j.domain) (m.causeOf slot) x with
      | (none, m) => m
      | (some o, m) =>
        let halt := if j.part.halt ≠ 0 then j.part.halt else if o.corrupt then 5 else if o.limit then 2 else 0
        (m.writeRaises slot j o).modJob slot fun j => { j with part := { j.part with rolledBack := true, halt := halt } }

/-- ABORT at a participant (R322): contexts stop, the logs are rolled back, working results are discarded, marked exponents
rise. -/
def Mach.onAbort (m : Mach) (slot : Nat) (j : Job) (c : CommitMsg) : Mach :=
  if !j.names c || j.part.aborting || j.state == .halted then m
  else
    let m := (m.stopWork slot).dropLanes slot
    let r0 := m.rollDie j 0 j.undo0.length (m, false)
    let r1 := r0.1.rollDie j 1 j.undo1.length r0
    let m := r1.1.freeSites slot
    let m := { m with cmt := { m.cmt with aborts := m.cmt.aborts + 1 } }
    let m := ((m.event tyCmt 0 0).thdGlobal j.domain 2 1).trace j.domain 5 j.attempt.toNat j.id (m.station cmtUnit)
      j.step.toNat c.reason
    let m := m.fault { kind := 8, event := 10, unit := 0, severity := 0, rung := 3, attempt := j.attempt.toNat,
                       domain := j.domain, step := j.step.toNat, job := j.id, station := m.station cmtUnit,
                       detail := c.reason }
    let m := m.setDies slot 0
    let clear (_ : Nat) (g : GroupSt) : GroupSt := { g with pending := 0, updated := [] }
    let m := m.modJob slot fun j =>
      { j with state := .aborting, abort := BitVec.ofNat 8 c.reason, undo0 := [], undo1 := [], deltas := [], updNext := [],
               groups := Tab.mapVals {} clear j.groups, sent := 0, applied := 0,
               part := { j.part with aborting := true, abortReason := c.reason, halt := if r1.2 then 5 else 0, rollbackBad := r1.2,
                                     carriedIn := [], commit := none } }
    m.tryRaise slot

/-- ABORT -/
def execStepAbort (p : Packet) (s : State) : Host.Outcome State Fault Refusal :=
  .next (s.onMach fun m => m.onMsg p 5 Mach.onAbort)

/-- The halt that follows an abort at this participant: the code the ABORT carries, REPLAY_LIMIT after attempt 2, or what the
rollback met; 0 none (R325). -/
def Job.haltAfter (j : Job) : Nat :=
  if 16 ≤ j.part.abortReason then j.part.abortReason - 16
  else if j.part.halt ≠ 0 then j.part.halt
  else if j.attempt = 2 then 1
  else 0

/-! ## Working copies whose read failed are rebuilt (R152) -/

/-- Rows of a placed shard whose directory entries are listed in memory: every resident row is among them. -/
def Mach.listedRows (m : Mach) (p : Placed) : List Nat :=
  let dir := p.addrs.getD 2 0
  ((m.mem.filter fun e => decide (dir ≤ e.1) && decide (e.1 < dir + 8 * p.count)).map fun e => p.first + (e.1 - dir) / 8).eraseDups

/-- Master row k of a placed shard as binary32 patterns, and whether its read failed. -/
def Mach.masterRow (m : Mach) (dom : Option Nat) (p : Placed) (row : Nat) : List Nat × Bool × Mach :=
  let r := m.readMem dom .committed (p.addrs.headD 0 + p.pitch * (row - p.first)) (4 * p.width)
  (splitLe 4 p.width r.1, r.2)

/-- What cannot be rebuilt halts the job (R152). -/
def Mach.rebuildFails (m : Mach) (slot die : Nat) : Mach :=
  (m.event tyUpd die 4).modJob slot fun j => { j with part := { j.part with halt := 5 } }

/-- Rebuild the resident copies of a shard that are unreadable or whose header does not match their class (R141, R152). -/
def Mach.rebuildShard (m : Mach) (slot : Nat) (j : Job) (p : Placed) : Mach :=
  let die := (dieOf (p.addrs.headD 0)).getD 0
  let dom := some j.domain
  (m.listedRows p).foldl (fun m x =>
    let d := m.readMem dom .committed (p.addrs.getD 2 0 + 8 * (x - p.first)) 8
    let e := DirEntry.ofNat (leNat d.1)
    if d.2.1 then d.2.2.rebuildFails slot die
    else if !e.resident || e.tomb || e.staked then d.2.2
    else
      let c := d.2.2.readMem dom .working e.near (copyBytes e.cls p.width)
      if c.2.1 || (copyRow e.cls p.width c.1).isNone then
        let r := c.2.2.masterRow dom p x
        if r.2.1 then r.2.2.rebuildFails slot die
        else
          let w := workRow e.cls r.1
          (r.2.2.writeMem dom .working e.near (w.bytes e.cls)).2.updTally die w.tal
      else c.2.2) m

/-- Rebuild this module's replica of a staked row where it is unreadable or its header is not that of its class: from the master,
wherever that lies (R152, R157). Answers whether committed data could not be read. -/
def rebuildReplica (j : Job) (slots : Nat) (r : Replica) : Rd Bool := do
  let m ← rdMach
  let c ← rdBytes m.self r.addr r.bytes .working
  if !c.2 && (copyRow 0 0 c.1).isSome then return false
  else
    let t ← readTable j slots j.ctx r.table
    match t.desc with
    | none => return true
    | some d =>
      let sb ← rdBytes (d.shardAt r.row).1 (d.shardAt r.row).2 32 .committed
      let s := Shard.ofBytes sb.1
      let mb ← rdBytes s.module (d.masterAt s r.row) (4 * d.width) .committed
      if sb.2 || mb.2 then return true
      else
        let w := workRow 0 (splitLe 4 d.width mb.1)
        rdMod fun m =>
          let m := (m.writeMem (some j.domain) .working r.addr (w.bytes 0)).2
          if s.module = m.self then m.updTally ((dieOf s.master).getD 0) w.tal else m
        return false

/-- Rebuild what the aborted attempt could not read: false while reads of other modules are out. -/
def Mach.rebuildCopies (m : Mach) (slot : Nat) : Bool × Mach :=
  match m.job? slot with
  | none => (true, m)
  | some j =>
    let x : Rd (List Bool) := do
      (j.placed.filter fun p => p.kind == 3).forM fun p => rdMod fun m => m.rebuildShard slot j p
      j.replicas.mapM fun r => rebuildReplica j (m.tableSlots j) r
    match m.runRd (.cmt slot) (some j.domain) (m.causeOf slot) x with
    | (none, m) => (false, m)
    | (some bad, m) => (true, if bad.any id then m.rebuildFails slot 0 else m)

/-- The abort is complete on this module: it sends DONE, with SENT 1 where its rollback is not complete (DESIGN CHOICE); where the job
halts with this abort, it halts here (R322, R325). -/
def Mach.abortDone (m : Mach) (slot : Nat) : Mach :=
  match m.job? slot with
  | none => m
  | some j =>
    if !j.part.aborting || !j.part.rolledBack || j.part.doneSent || !j.part.refresh.isEmpty then m
    else
      let r := if j.part.abortReason = 2 then m.rebuildCopies slot else (true, m)
      match r.1, r.2.job? slot with
      | true, some j =>
        let h := j.haltAfter
        let m := (r.2.modJob slot fun j =>
            { j with part := { j.part with doneSent := true }, rangeReduce := [], rangeGrad := [], rangePool := [],
                     condition := 0 }).sendCommit slot j.coordModule 6 (b2n j.stopAsked) (if h = 0 then 0 else 16 + h) 0
              (b2n j.part.rollbackBad)
        if h = 0 then m else m.haltJob slot h (h == 6 || j.part.rollbackBad)
      | _, _ => r.2

/-- ABORT_DONE (R322). -/
def execAbortDone (slot : Nat) (s : State) : Host.Outcome State Fault Refusal :=
  .next (s.onMach fun m => m.abortDone slot)

/-! ## Timeouts (R317) -/

/-- CMT_TIMEOUT in nanoseconds. -/
def Mach.timeoutNs (m : Mach) : Nat := m.cmt.timeout.toNat * 1000000

/-- Is a step of a job live at this module (R317)? A participant knows from its own REDUCED, or from the coordinator's ALIVE. -/
def Mach.live (m : Mach) (j : Job) : Bool := j.part.live || (m.coordinates j && j.coord.live)

/-- ALIVE to one destination when CMT_TIMEOUT / 4 has passed without another message to it (R317). -/
def Mach.aliveDue (m : Mach) (slot dest : Nat) : Mach :=
  match m.job? slot with
  | none => m
  | some j =>
    let told : Option Nat :=
      if dest = j.coordModule then some j.part.told
      else if m.coordinates j then (j.coord.peers.find? fun x => x.module == dest).map (·.told) else none
    match told with
    | some t => if m.live j && decide (t + m.timeoutNs / 4 ≤ m.now) then m.sendCommit slot dest 12 else m
    | none => m

/-- ALIVE_DUE -/
def execAliveDue (slot dest : Nat) (s : State) : Host.Outcome State Fault Refusal :=
  .next (s.onMach fun m => m.aliveDue slot dest)

/-- ALIVE: the sender has been heard from; the coordinator's says that the step is live (R317). -/
def Mach.onAlive (m : Mach) (slot : Nat) (j : Job) (c : CommitMsg) : Mach :=
  if c.source = j.coordModule && j.names c && j.state != .halted then m.stepLive slot else m

/-- ALIVE -/
def execAlive (p : Packet) (s : State) : Host.Outcome State Fault Refusal :=
  .next (s.onMach fun m => m.onMsg p 12 Mach.onAlive)

/-- Is some participant silent for a time? -/
def Mach.silentPeer (m : Mach) (j : Job) (ns : Nat) : Bool := j.coord.peers.any fun x => decide (x.heard + ns ≤ m.now)

/-- PEER_SILENT: before its decision the coordinator aborts (R317); after the grant the job halts (R320). -/
def Mach.peerSilent (m : Mach) (slot : Nat) : Mach :=
  match m.job? slot with
  | none => m
  | some j =>
    if m.coordinates j && j.coord.live && !j.coord.commitSent && !j.coord.abortSent && m.silentPeer j m.timeoutNs then
      m.coordAbort slot 6
    else m

/-- PEER_SILENT -/
def execPeerSilent (slot : Nat) (s : State) : Host.Outcome State Fault Refusal :=
  .next (s.onMach fun m => m.peerSilent slot)

/-- REDUCE_LOST: every participant has sent REDUCED, the sums differ, and no APPLIED has changed for CMT_TIMEOUT (R317). -/
def Mach.reduceLost (m : Mach) (slot : Nat) : Mach :=
  match m.job? slot with
  | none => m
  | some j =>
    if m.coordinates j && !j.coord.closedSent && !j.coord.abortSent && j.coord.peers.all (·.reduced.isSome) &&
        decide (j.coord.appliedAt + m.timeoutNs ≤ m.now) then
      m.coordAbort slot 7
    else m

/-- REDUCE_LOST -/
def execReduceLost (slot : Nat) (s : State) : Host.Outcome State Fault Refusal :=
  .next (s.onMach fun m => m.reduceLost slot)

/-- The coordinator tells every participant that the job stops in place of START: READY 1 for a STOP, REASON 16 plus a halt
code, 15 for NO_FIT, or 0 (DESIGN CHOICE: a DONE of its own with CARRIED 1 says so). -/
def Mach.sendStop (m : Mach) (slot ready reason : Nat) : Mach :=
  match m.job? slot with
  | none => m
  | some j => m.sendAll slot 6 ready reason 1 (some j.coord.step.toNat) (some j.coord.attempt.toNat)

/-- PEER_LOST: after COMMIT a participant has been silent for 2 × CMT_TIMEOUT: the job halts (R317, R320). -/
def Mach.peerLost (m : Mach) (slot : Nat) : Mach :=
  match m.job? slot with
  | none => m
  | some j =>
    if m.coordinates j && j.coord.live && j.coord.commitSent && m.silentPeer j (2 * m.timeoutNs) then
      let code := if j.coord.granted then 6 else 8
      (m.sendStop slot 0 (16 + code)).haltJob slot code true
    else m

/-- PEER_LOST -/
def execPeerLost (slot : Nat) (s : State) : Host.Outcome State Fault Refusal :=
  .next (s.onMach fun m => m.peerLost slot)

/-- COORDINATOR_LOST: a participant has not heard from the coordinator for 2 × CMT_TIMEOUT: the job halts (R317, R320). -/
def Mach.coordLost (m : Mach) (slot : Nat) : Mach :=
  match m.job? slot with
  | none => m
  | some j =>
    if j.part.live && j.state != .halted && j.tag.isSome && decide (j.part.heard + 2 * m.timeoutNs ≤ m.now) then
      m.haltJob slot (if j.part.granted then 6 else 7) true
    else m

/-- COORDINATOR_LOST -/
def execCoordinatorLost (slot : Nat) (s : State) : Host.Outcome State Fault Refusal :=
  .next (s.onMach fun m => m.coordLost slot)

/-! ## Closure watchdogs (R451 to R453) -/

/-- The watchdog period of a job in nanoseconds (R452). -/
def Job.watchdogNs (j : Job) : Nat :=
  1000 * (if j.watchdogUs = 0 then 2000 else max 250 j.watchdogUs)

/-- Is a watched wait of core q at least a period old (R451)? `othersRun`: another core of the phase has not ended it. -/
def Mach.waitsSince (m : Mach) (j : Job) (q : Nat) (othersRun : Bool) (before : Nat) : Bool :=
  let c := m.getCore q
  (c.held.any fun h => decide (h.since ≤ before)) ||
    decide (c.since ≤ before) &&
      (match c.run with
       | .idle => false
       | .waiting => true
       | .stalled => true
       | .halted => if c.bind.ended then othersRun else !c.xfers.isEmpty || !m.submissionsDone q j.step
       | _ => c.passed)

/-- Has some core of a job's phase on this module not ended it (R188, R451)? -/
def Mach.coresRun (m : Mach) (j : Job) : Bool :=
  (m.jobClusters j).any fun k => !(m.phaseBinds j k).isEmpty && !m.clusterEnded j k

/-- Does some watched wait of a job last since a time (R451)? -/
def Mach.watchedWait (m : Mach) (slot : Nat) (j : Job) (before : Nat) : Bool :=
  let ks := m.jobClusters j
  let cores := ks.flatMap fun k => (List.range 16).map fun i => 16 * k + i
  cores.any (fun q => m.waitsSince j q (m.coresRun j) before) ||
  ks.any fun k =>
    ((m.getTrv k).work.any fun w => w.desc.org.slot == slot && decide (w.since ≤ before)) ||
    ((m.getGth k).work.any fun w => w.desc.org.slot == slot && decide (w.since ≤ before)) ||
    ((m.getSpr k).work.any fun w => w.desc.slot == slot && decide (w.since ≤ before))

/-- Does a link port of the module retry or retrain (R454)? -/
def Mach.retryActive (m : Mach) : Bool := m.lnk.any fun e => e.2.episode.isSome || e.2.state == .retraining

/-- A job's closure watchdog expires: an abort condition with reason WATCHDOG (R452, R453). -/
def Mach.watchdog (m : Mach) (slot : Nat) : Mach :=
  match m.job? slot with
  | none => m
  | some j =>
    let before := m.now - j.watchdogNs
    if j.state == .running && j.phaseBegun && j.waitingSince.isNone && (m.getCtx j.ctx).state != .stopped &&
        decide (j.watchdogNs ≤ m.now) && decide (j.watchdogAt ≤ before) && m.watchedWait slot j before then
      let m := { m with flt := { m.flt with watchdogs := m.flt.watchdogs + 1 } }.event tyFlt 0 2
      let m := m.fault { kind := 8, event := 7, unit := 0, severity := 0, rung := 3, attempt := j.attempt.toNat, domain := j.domain,
                         flags := if m.retryActive then 8 else 0, step := j.step.toNat, job := j.id,
                         station := m.station cmtUnit }
      m.abortCond slot 5
    else m

/-- CLOSURE_WATCHDOG (R453). -/
def execClosureWatchdog (slot : Nat) (s : State) : Host.Outcome State Fault Refusal :=
  .next (s.onMach fun m => m.watchdog slot)

end Sys2Proof.Machine
end

