-- ==== Sys2Proof/Machine/Apply.lean ====
section
/-!
DEFINITION. The apply of a committed step (R316) with the refresh of working copies (R290), preconditioners (R293, R296),
table selects (R142, R143), the stake list (R156 to R158), sketches and width classes (R153 to R155) and migrations (R163);
then DONE and START (R304, R313).
-/
namespace Sys2Proof.Machine

/-! ## The computation of an apply -/

/-- What an apply gathers beside its changes to the module: an unreadable granule was met; an item of orders 1 to 3 was left
undone; refresh writes still out; the status of each carried command. -/
structure ApSt where
  corrupt : Bool := false
  undone : Bool := false
  refresh : List RefreshOut := []
  verdicts : List (List Byte × Nat) := []

/-- A part of an apply: it may need the memory of other modules. -/
abbrev Ap (α : Type) := StateT ApSt Rd α

/-- The module in the course of an apply. -/
def apMach : Ap Mach := (rdMach : Rd Mach)
/-- Change the module. -/
def apMod (g : Mach → Mach) : Ap Unit := (rdMod g : Rd Unit)
/-- Something could not be read; `lasting` says that an item of orders 1 to 3 is left undone. -/
def apCorrupt (lasting : Bool) : Ap Unit := modify fun s => { s with corrupt := true, undone := s.undone || lasting }

/-- Read committed data; none where it fails its second read. -/
def apRead (mod a n : Nat) (lasting : Bool) : Ap (Option (List Byte)) := do
  let r ← (rdBytes mod a n .committed : Rd (List Byte × Bool))
  if r.2 then
    apCorrupt lasting
    return none
  else return some r.1

/-- Write bytes of this module's memory; a partly written granule of committed data that cannot be read halts the job (R380). -/
def apPut (kind : DataKind) (a : Nat) (bs : List Byte) : Ap Unit := do
  let r := (← apMach).writeMem none kind a bs
  apMod fun _ => r.2
  if r.1 && kind == .committed then apCorrupt true

/-- Write a refresh: at once on this module; in pieces that stay with the apply until acknowledged on another (R290). -/
def apRefresh (unit slot mod a : Nat) (bs : List Byte) : Ap Unit := do
  let m ← apMach
  if mod = m.self then apMod fun m => (m.writeMem (m.domOfSlot slot) .working a bs).2
  else
    let r := m.heldWrite unit slot mod a bs
    apMod fun _ => r.2
    modify fun s => { s with refresh := s.refresh ++ r.1 }

/-- The descriptor in the selected slot of a table, where it can be read and is sound. -/
def apTable (j : Job) (slots t : Nat) (lasting : Bool) : Ap (Option TableDesc) := do
  let r ← (readTable j slots j.ctx t : Rd TableRead)
  match r.desc with
  | some d => return some d
  | none =>
    if r.failed then apCorrupt lasting
    return none

/-- The rows that flip in the commit: width migrations of the step and the placement migrations of the plat in force. -/
def Job.flipRows (j : Job) : List (Nat × Nat) :=
  ((j.migrations.filter fun g => !g.flipped).map fun g => (g.table, g.row)) ++
    ((j.plat.map (·.migrations)).getD []).map (fun g => (g.1, g.2.1)) |>.eraseDups

/-- Does an item of the apply depend on a table: lookups, updated rows, replicas, rows that migrate? -/
def Job.itemsOf (j : Job) (t : Nat) : Bool :=
  (j.deltas.any fun x => x.1 == t) || (j.sites.any fun y => y.table == t) || (j.replicas.any fun r => r.table == t) ||
    (j.flipRows.any fun x => x.1 == t)

/-- The descriptor in force of a table of the step; where it cannot be read and no known item depends on the table, nothing
is left undone by it (DEDUCED, R316). -/
def apInForce (j : Job) (slots t : Nat) : Ap (Option TableDesc) := do
  if j.itemsOf t then apTable j slots t true
  else
    let r ← (readTable j slots j.ctx t : Rd TableRead)
    return r.desc

/-- Shard map entry and directory entry of a row (R139, R140). -/
def apRow (d : TableDesc) (x : Nat) (lasting : Bool) : Ap (Option (Shard × DirEntry)) := do
  let at' := d.shardAt x
  match ← apRead at'.1 at'.2 32 lasting with
  | none => return none
  | some sb =>
    let s := Shard.ofBytes sb
    match ← apRead s.module (d.dirAt s x) 8 lasting with
    | none => return none
    | some db => return some (s, DirEntry.ofNat (leNat db))

/-- Write a directory entry of this module (R140). -/
def apSetDir (d : TableDesc) (s : Shard) (x : Nat) (e : DirEntry) : Ap Unit :=
  apPut .committed (d.dirAt s x) (leBytes 8 e.toNat)

/-! ## Table selects (R142, R143) -/

/-- Fields of a TABLE_SELECT: table, slot, version (R428). -/
def selectOf (c : List Byte) : Nat × Nat × Nat := (cmdN c 16 2, cmdN c 18 1, cmdN c 20 2)

/-- Note the status a carried command ends with. -/
def apVerdict (c : List Byte) (status : Nat) : Ap Unit := modify fun s => { s with verdicts := s.verdicts ++ [(c, status)] }

/-- Does a select win over another: the greater VERSION, and slot 1 among equals (R143)? -/
def selectWins (a b : Nat × Nat × Nat) : Bool := decide (b.2.2 < a.2.2) || (a.2.2 == b.2.2 && decide (b.2.1 < a.2.1))

/-- Take the winning select of a table: the exponents in force are carried over, then the select entry changes (R138). A slot in
force that does not translate has no exponents to carry. One participant writes them, as with raises; on another module than this the
write is held until acknowledged (R389). Rows prefetched from the slot in force are dropped. -/
def applySelect (slot : Nat) (j : Job) (slots t k : Nat) : Ap Unit := do
  let m ← apMach
  let take : Ap Unit := apMod fun m =>
    (m.jobClusters j).foldl (fun m c => m.modGth c fun g => { g with area := g.area.filter fun p => p.slot != slot || p.table != t })
      (m.modJob slot fun j => { j with selects := Tab.put 0 j.selects t k })
  match m.xlate j.ctx .read (slotAddr slots t (j.selected t)) 64, m.xlate j.ctx .read (slotAddr slots t k) 64 with
  | some o, some p =>
    match ← apRead o.1 o.2 64 true, ← apRead p.1 p.2 64 true with
    | some os, some bs =>
      let o := TableDesc.ofBytes os
      let n := TableDesc.ofBytes bs
      let pool := max o.poolExp n.poolExp
      let grad := max o.gradExp n.gradExp
      if m.raises j p.1 then
        let bytes := leBytes 2 (wrapN 16 pool) ++ leBytes 2 (wrapN 16 grad)
        if p.1 = m.self then apPut .committed (p.2 + 0x38) bytes else apRefresh cmtUnit slot p.1 (p.2 + 0x38) bytes
      take
    | _, _ => return
  | _, _ => take

/-- The selects of a step (R142, R143): each is checked against the VERSION its slot holds. -/
def applySelects (slot : Nat) (j : Job) (slots : Nat) (cs : List (List Byte)) : Ap Unit := do
  let sel := cs.filter fun c => cmdN c 0 1 == 4
  let good ← sel.filterMapM fun c => do
    let x := selectOf c
    let m ← apMach
    match m.xlate j.ctx .read (slotAddr slots x.1 x.2.1) 64 with
    | none =>
      apVerdict c 8
      return none
    | some p =>
      match ← apRead p.1 p.2 64 true with
      | none =>
        apVerdict c 14
        return none
      | some bs =>
        if cmdN bs 2 2 = x.2.2 then return some c
        else
          apVerdict c 8
          return none
  (good.map fun c => (selectOf c).1).eraseDups.forM fun t => do
    let mine := good.filter fun c => (selectOf c).1 == t
    match mine.find? fun c => !mine.any fun d => selectWins (selectOf d) (selectOf c) with
    | none => return
    | some w =>
      applySelect slot j slots t (selectOf w).2.1
      mine.forM fun c => apVerdict c (if selectOf c = selectOf w then 0 else 9)

/-! ## The stake list (R156 to R158) -/

/-- The replica area of a participant (R157): base and bytes. -/
def Job.replicaArea (j : Job) (module : Nat) : Option (Nat × Nat) :=
  (j.placed.find? fun p => p.kind == 5 && p.id == module).map fun p => (p.addrs.headD 0, p.count)

/-- The lowest offset of an area at which n bytes are free, given the pieces in use. -/
def freePlace (used : List (Nat × Nat)) (n : Nat) : Nat :=
  let cands := 0 :: used.map fun u => u.1 + u.2
  let ok (a : Nat) : Bool := used.all fun u => decide (a + n ≤ u.1) || decide (u.1 + u.2 ≤ a)
  (cands.filter ok).foldl (fun (b : Option Nat) a => match b with
    | none => some a
    | some x => some (min x a)) none |>.getD 0

/-- Stake row x of a table: a replica place on every module, and on the row's module the directory entry (R157). -/
def stakeRow (slot : Nat) (d : TableDesc) (x : Nat) (s : Shard) (e : DirEntry) : Ap Unit := do
  let m ← apMach
  match m.job? slot with
  | none => return
  | some j =>
    let base := ((j.replicaArea m.self).getD (0, 0)).1
    let n := copyBytes 0 d.width
    let r : Replica := { table := d.id, row := x, addr := base + freePlace (j.replicas.map fun r => (r.addr - base, r.bytes)) n, bytes := n }
    apMod fun m => m.modJob slot fun j => { j with replicas := j.replicas ++ [r],
                                                   migrations := j.migrations.filter fun g => g.flipped || g.table != d.id || g.row != x }
    if s.module = m.self then apSetDir d s x { e with staked := true, cls := 0, resident := false, near := 0 }

/-- The stake changes of a step (R156, R158): the rows removed on this module, to which the class rule applies. -/
def applyStakes (slot : Nat) (j : Job) (slots : Nat) (cs : List (List Byte)) : Ap (List (Nat × Nat)) := do
  let stakes := cs.filter fun c => cmdN c 0 1 == 5
  stakes.foldlM (fun (removed : List (Nat × Nat)) c => do
    let t := cmdN c 16 2
    let add := cmdN c 18 1 == 0
    let n := cmdN c 20 4
    let r ← (readTable j slots j.ctx t : Rd TableRead)
    match r.desc with
    | none =>
      -- an unreadable descriptor halts the job; of a table whose descriptor is not sound every row id is out of range
      if r.failed then apCorrupt true
      else match j.carried.find? fun k => k.bytes == c with
        | some k => apMod fun m => m.dropTally k.ctx t n
        | none => pure ()
      apVerdict c (if r.failed then 14 else 0)
      return removed
    | some d =>
      let m ← apMach
      match m.xlate j.ctx .read (cmdN c 24 8) (8 * n) with
      | none =>
        apVerdict c 2
        return removed
      | some p =>
        match ← apRead p.1 p.2 (8 * n) true with
        | none =>
          apVerdict c 14
          return removed
        | some bs =>
          let out ← (words8 bs).foldlM (fun (acc : List (Nat × Nat) × Nat) x => do
            if d.rows ≤ x then return (acc.1, acc.2 + 1)
            else
              match ← apRow d x true with
              | none => return acc
              | some (s, e) =>
                let m ← apMach
                let staked := ((m.job? slot).map fun j => j.replicas.any fun r => r.table == t && r.row == x).getD false
                if e.tomb then return (acc.1, acc.2 + 1)
                else if add then
                  if !staked then stakeRow slot d x s e
                  return acc
                else if staked then
                  apMod fun m => m.modJob slot fun j =>
                    { j with replicas := j.replicas.filter fun r => !(r.table == t && r.row == x) }
                  if s.module = m.self then
                    apSetDir d s x { e with staked := false }
                    return (acc.1 ++ [(t, x)], acc.2)
                  else return acc
                else return acc) (removed, 0)
          match j.carried.find? fun k => k.bytes == c with
          | some k => apMod fun m => m.dropTally k.ctx t out.2
          | none => pure ()
          apVerdict c 0
          return out.1) []

/-! ## Migrations and directory flips (R163) -/

/-- A flip of this commit: the row, where its copy goes, its class. -/
structure Flip where
  table : Nat
  row : Nat
  cls : Nat
  near : Option Nat

/-- Flip the directory entries of the step's migrations on this module (R163): the target class is the one the class rule
chose, or the row's own; without a place for its copy the row is held in its master only (DESIGN CHOICE). -/
def applyFlips (slot : Nat) (j : Job) (slots : Nat) : Ap (List Flip) := do
  let flips ← j.flipRows.foldlM (fun (l : List Flip) x => do
    match ← apTable j slots x.1 true with
    | none => return l
    | some d =>
      match ← apRow d x.2 true with
      | none => return l
      | some (s, e) =>
        let m ← apMach
        if s.module ≠ m.self || e.staked || e.tomb then return l
        else
          let cls := ((j.migrations.find? fun g => !g.flipped && g.table == x.1 && g.row == x.2).map (·.target)).getD e.cls
          let place := (((j.plat.map (·.migrations)).getD []).find? fun g => g.1 == x.1 && g.2.1 == x.2).map (·.2.2.2)
          let near : Option Nat := match place with
            | some p => p
            | none => if cls = e.cls && e.resident then some e.near else none
          apSetDir d s x.2 { e with cls := cls, resident := near.isSome, near := near.getD 0 }
          apMod fun m => m.modJob slot fun j =>
            let rest := j.migrations.filter fun g => g.flipped || g.table != x.1 || g.row != x.2
            { j with migrations := if e.resident then rest ++ [{ table := x.1, row := x.2, target := cls, flipped := true }]
                                   else rest }
          return l ++ [{ table := x.1, row := x.2, cls := cls, near := near }]) []
  apMod fun m => m.modJob slot fun j =>
    { j with plat := j.plat.map fun p => { p with migrations := [] } }
  return flips

/-! ## Sketches and classes (R153 to R155) -/

/-- Add occurrences to one saturating counter; one that cannot be read keeps its contents. -/
def apCount (a n : Nat) : Ap Unit := do
  match ← apRead (← apMach).self a 4 true with
  | none => return
  | some bs => apPut .committed a (leBytes 4 (min 0xFFFFFFFF (leNat bs + n)))

/-- Halve every counter of a sketch of n bytes, rounded down; counters whose granule cannot be read keep their contents. -/
def apHalve (a n : Nat) : Ap Unit := do
  let m ← apMach
  let errs := (m.faulty a n).map (·.1)
  let bad ← errs.filterM fun g => do return (← apRead m.self (64 * g) 64 true).isNone
  apMod fun m =>
    let listed := m.mem.foldl (fun (l : List Nat) e =>
      if decide (e.1 < a) || decide (a + n ≤ e.1) || l.head? == some ((e.1 - a) / 4) then l else (e.1 - a) / 4 :: l) []
    (listed.filter fun i => !bad.contains ((a + 4 * i) / 64)).foldl (fun (m : Mach) i =>
      m.poke (a + 4 * i) (leBytes 4 (m.peekNat (a + 4 * i) 4 / 2))) m

/-- Apply the deltas of a table to its sketch on this module, then halve it where the step calls for it (R154). -/
def applySketch (j : Job) (d : TableDesc) : Ap Unit := do
  let m ← apMach
  if d.sketchStation / 8192 ≠ m.self then return
  else
    (j.deltas.filter fun x => x.1 == d.id).forM fun x =>
      (sketchOffsets x.2.1 d.sketchLog).forM fun o => apCount (d.sketch + o) x.2.2
    if 1 < j.participants.length then
      (Config.sketchElsewhere j.id j.step d.id).forM fun x =>
        apCount (d.sketch + 4 * (x.1 % (4 * 2 ^ d.sketchLog))) x.2
    if d.sketchHalve ≠ 0 && (j.step.toNat + 1) % d.sketchHalve = 0 then
      apHalve d.sketch (16 * 2 ^ d.sketchLog)

/-- est(x), from the sketch on this module or as another module holds it (R153); none where a counter cannot be read. -/
def apEstimate (j : Job) (d : TableDesc) (x : Nat) : Ap (Option Nat) := do
  let m ← apMach
  if d.sketchStation / 8192 = m.self then
    (sketchOffsets x d.sketchLog).foldlM (fun (n : Option Nat) o => do
      match n, ← apRead m.self (d.sketch + o) 4 true with
      | some n, some bs => return some (min n (leNat bs))
      | _, _ => return none) (some 0xFFFFFFFF)
  else return some (Config.sketchEstimate j.id j.step d.id x)

/-- The class rule for one row: where the target differs from its class, a width migration runs in the next step (R155). -/
def classRule (slot : Nat) (j : Job) (d : TableDesc) (x : Nat) : Ap Unit := do
  match ← apRow d x true with
  | none => return
  | some (s, e) =>
    let m ← apMach
    if s.module ≠ m.self || e.staked || e.tomb then return
    else
      match ← apEstimate j d x with
      | none => return
      | some n =>
        let target := if d.hot ≤ n then 0 else if d.warm ≤ n then 1 else 2
        if target = e.cls then return
        else
          apMod fun m => m.modJob slot fun j =>
            { j with migrations := j.migrations ++ [{ table := d.id, row := x, target := target }] }

/-- Rows of a table on this module that had a valid occurrence in a lookup of the step. -/
def Job.lookedRows (j : Job) (t : Nat) : List Nat :=
  let own := (j.deltas.filter fun x => x.1 == t).map (·.2.1)
  let others := if 1 < j.participants.length then
      (j.placed.filter fun p => p.kind == 3 && p.table == t).flatMap fun p => Config.rowsLookedElsewhere j.id j.step t p.shard
    else []
  (own ++ others).eraseDups

/-! ## Preconditioners (R293, R296) -/

/-- The dies whose roots are due at the commit of the job's step and not yet computed (R296). -/
def Mach.rootsPending (m : Mach) (j : Job) : List Nat :=
  ((j.placed.filter fun p => p.kind == 2).filterMap fun p =>
    let x := Tab.get {} j.preconds p.id
    match x.snapshot with
    | some (s, _) =>
      if s.toNat + (m.precondDesc j p.id).lag = j.step.toNat && x.result.isNone then dieOf (p.addrs.headD 0) else none
    | none => none).eraseDups

/-- Flip a due root: X goes to the slot that is not selected, or the root is rejected; the snapshot is discarded. Answers
the adopted X (R296). -/
def applyRoot (slot : Nat) (j : Job) (p : Placed) : Ap (Option (List (BitVec 64))) := do
  let d := (← apMach).precondDesc j p.id
  let x := Tab.get {} j.preconds p.id
  match x.snapshot, x.result with
  | some (s, _), some (r, _) =>
    if s.toNat + d.lag ≠ j.step.toNat then return none
    else
      let die := (dieOf (p.addrs.headD 0)).getD 0
      let now := j.step
      let clear (x : PrecondSt) : PrecondSt := { x with snapshot := none, result := none }
      match r with
      | none =>
        apMod fun m => (m.modJob slot fun j =>
          { j with preconds := Tab.upd {} j.preconds p.id fun x => { clear x with rejects := x.rejects + 1 } }).event tyUpd die 5
        return none
      | some v =>
        let dest := p.addrs.getD (if x.select then 1 else 2) 0
        apMod fun m => (m.writeMem (some j.domain) .committed dest (v.flatMap fun w => leBytes 8 w.toNat)).2
        apMod fun m => m.modJob slot fun j =>
          { j with preconds := Tab.upd {} j.preconds p.id fun x => { clear x with select := !x.select, adopted := now } }
        return some v
  | _, _ => return none

/-- Fold the step's statistic sums into S, and take the snapshot where the step triggers it (R293). -/
def applyFold (slot : Nat) (j : Job) (p : Placed) : Ap Unit := do
  let m ← apMach
  let d := m.precondDesc j p.id
  let die := (dieOf (p.addrs.headD 0)).getD 0
  let at' := p.addrs.headD 0
  let n := d.n * d.n
  match ← apRead m.self at' (8 * n) true with
  | none => apMod fun m => m.event tyUpd die 4
  | some sb =>
    let now := j.step
    match ← (readSums j d.statReduce n .committed : Rd (List Nat × Bool)), ← (readExp j d.statReduce : Rd (Option Int)) with
    | (ns, false), some E =>
      let fold : StateM Tal (List Nat) := (List.zip (words8 sb) ns).mapM fun x => do
        let b ← rd64 d.beta
        let s ← rd64 x.1
        rnd64 ((b.mul s).add (Val.ofInt (sgn 64 x.2) E)).exact
      let r := fold.run {}
      apMod fun m => ((m.writeMem (some j.domain) .committed at' (r.1.flatMap (leBytes 8))).2).updTally die r.2
      if (now.toNat + 1) % max 1 d.interval = 0 then
        let snap : StateM Tal (List Nat) := ((List.range n).zip r.1).mapM fun x => do
          if x.1 / d.n = x.1 % d.n then
            let s ← rd64 x.2
            let e ← rd64 d.epsilon
            rnd64 (s.add e).exact
          else return x.2
        let a := snap.run {}
        apMod fun m => (m.updTally die a.2).modJob slot fun j =>
          { j with preconds := Tab.upd {} j.preconds p.id fun x =>
                     { x with snapshot := some (now, a.1.map (BitVec.ofNat 64)), result := none } }
        apMod fun m => m.modUpd die fun u =>
          { u with rootQueue := u.rootQueue ++ [{ slot := slot, precond := p.id, step := now }] }
    | _, _ =>
      apCorrupt true
      apMod fun m => m.event tyUpd die 4

/-- The tiles of an adopted root, in the slot that the flip has selected: X in binary32, dense tiles as R151 lays them out (R296). -/
def applyRootTiles (slot : Nat) (j : Job) (p : Placed) (v : List (BitVec 64)) : Ap Unit := do
  let m ← apMach
  let d := m.precondDesc j p.id
  let die := (dieOf (p.addrs.headD 0)).getD 0
  let a := v.toArray
  let o := outTiles .f32 0 d.n d.n fun r c => (Ieee.b64.read (a.getD (r * d.n + c) 0).toNat).val
  let dest := p.addrs.getD (3 + b2n (Tab.get {} j.preconds p.id).select) 0
  apRefresh (0x800 + die) slot m.self dest o.1.flatten
  apMod fun m => (m.updTally die o.2).modUpd die fun u => { u with refresh := u.refresh + BitVec.ofNat 48 o.1.length }

/-! ## Refresh of working copies (R290) -/

/-- Master row x of a table on this module, as binary32 patterns. -/
def apMaster (die : Nat) (d : TableDesc) (s : Shard) (x : Nat) : Ap (Option (List Nat)) := do
  let m ← apMach
  match ← apRead m.self (d.masterAt s x) (4 * d.width) false with
  | none =>
    apMod fun m => m.event tyUpd die 4
    return none
  | some bs => return some (splitLe 4 d.width bs)

/-- Build the copy of a row at its class from the updated master (R141). -/
def refreshCopy (slot : Nat) (d : TableDesc) (s : Shard) (x cls near : Nat) : Ap Unit := do
  let die := (dieOf s.master).getD 0
  match ← apMaster die d s x with
  | none => return
  | some row =>
    let w := workRow cls row
    apRefresh (0x800 + die) slot (← apMach).self near (w.bytes cls)
    apMod fun m => (m.updTally die w.tal).modUpd die fun u => { u with refresh := u.refresh + 1 }

/-- Build the replica of a staked row on every participant (R157). -/
def refreshReplica (slot : Nat) (d : TableDesc) (s : Shard) (x : Nat) : Ap Unit := do
  let die := (dieOf s.master).getD 0
  let m ← apMach
  match m.job? slot with
  | none => return
  | some j =>
    match j.replicas.find? (fun r => r.table == d.id && r.row == x), j.replicaArea m.self with
    | some r, some here =>
      match ← apMaster die d s x with
      | none => return
      | some row =>
        let w := workRow 0 row
        apMod fun m => m.updTally die w.tal
        j.participants.forM fun mod => do
          match j.replicaArea mod with
          | none => return
          | some there =>
            apRefresh (0x800 + die) slot mod (there.1 + (r.addr - here.1)) (w.bytes 0)
            apMod fun m => m.modUpd die fun u => { u with refresh := u.refresh + 1 }
    | _, _ => return

/-- The working tiles of a dense share: each 32 × 32 tile converts at the scale of its own largest amax code (R290). -/
def refreshDense (slot : Nat) (j : Job) (p : Placed) : Ap Unit := do
  let m ← apMach
  let g := m.groupDesc j p.id
  let die := (dieOf (p.addrs.headD 0)).getD 0
  let f : Fmt := if g.workFormat % 16 = 0 then .l8 else .l16
  let l : LogFmt := if g.workFormat % 16 = 0 then .l8 else .l16
  match ← apRead m.self (p.addrs.headD 0) (4 * p.count * g.cols) false with
  | none => apMod fun m => m.event tyUpd die 4
  | some bs =>
    let xs := (splitLe 4 (p.count * g.cols) bs).toArray
    let nc := ceilDiv g.cols 32
    let r0 := p.first / 32
    let rows := ceilDiv (p.first + p.count) 32 - r0
    (List.range (rows * nc)).forM fun i => do
      let ins := (List.range 1024).map fun e =>
        let r := 32 * (r0 + i / nc) + e / 32
        let c := 32 * (i % nc) + e % 32
        if p.first ≤ r ∧ r < p.first + p.count ∧ c < g.cols then Fmt.readConv .f32 (xs.getD ((r - p.first) * g.cols + c) 0) 0
        else ({ val := {} }, {})
      let amax := ins.foldl (fun (a : Nat) x => max a x.1.amax) 0
      let o := convertTile f (scaleFromAmax l amax 0) false (List.replicate 1024 .nearest) (ins.map (·.1))
      let t := ins.foldl (fun (t : Tal) x => t.plus x.2) o.tal
      apRefresh (0x800 + die) slot m.self (p.addrs.getD 3 0 + f.stride * i) (leBytes 8 o.hdr ++ denseBody f o.elems.toList)
      apMod fun m => (m.updTally die t).modUpd die fun u => { u with refresh := u.refresh + 1 }

/-! ## The apply (R316) -/

/-- Tables whose descriptors the apply needs for their rows. -/
def Job.applyTables (j : Job) : List Nat :=
  (j.deltas.map (·.1) ++ (j.placed.filter fun p => p.kind == 3).map (·.table)).eraseDups

/-- Tables whose sketch may lie on this module (R154): those whose selected descriptor here names it, and those whose descriptor lies on
another module. -/
def Mach.sketchTables (m : Mach) (j : Job) (slots : Nat) : List Nat :=
  if slots = 0 then []
  else (List.range 4096).filter fun t =>
    match m.xlate j.ctx .read (slotAddr slots t (j.selected t)) 64 with
    | none => false
    | some p => p.1 != m.self || (let d := TableDesc.ofBytes (m.peek p.2 64); !d.bad t && d.sketchStation / 8192 == m.self)

/-- Order 2: positions, amax codes and element counts of a group (R286, R288). -/
def GroupSt.commit (g : GroupSt) (j : Job) (i : Nat) : GroupSt :=
  let many := decide (1 < j.participants.length)
  let any := !g.updated.isEmpty || (many && Config.groupUpdatedElsewhere j.id i j.step)
  let amax := if many then max g.pending.toNat (Config.groupAmaxElsewhere j.id i j.step).toNat else g.pending.toNat
  { g with position := if any then g.position + 1 else g.position, amax := BitVec.ofNat 15 amax, pending := 0,
           elements := g.updated, updated := [] }

/-- Order 2 of the apply: RAISES of a reduction descriptor whose exponent rose (R327); one that cannot be read keeps its contents. -/
def countRaise (j : Job) (i : Nat) : Ap Unit := do
  let a := j.reduceBase.toNat + 32 * i + 0x10
  match ← apRead (← apMach).self a 4 true with
  | none => return
  | some bs => apPut .committed a (leBytes 4 ((leNat bs + 1) % 2 ^ 32))

/-- Order 2 of the apply, apart from tables and raises: staged groups, groups, the step number. -/
def applyScalars (slot : Nat) (j : Job) (n : Nat) : Ap Unit := apMod fun m =>
  let m := (List.range 2).foldl (fun m die =>
    let rows := (m.updItems j die).countP (·.row.isSome)
    let elems := (List.range n).foldl (fun (k : Nat) g => k + Tab.get 0 (Tab.get {} j.groups g).updated die) 0
    m.modUpd die fun u => { u with elements := u.elements + BitVec.ofNat 48 elems, rows := u.rows + BitVec.ofNat 48 rows }) m
  m.modJob slot fun j =>
    { j with groups := (List.range n).foldl (fun t g => Tab.upd {} t g fun x => x.commit j g) j.groups,
             raised := [], logLive := j.logStaged, step := j.step + 1, commits := j.commits + 1 }

/-- The apply as a computation: its orders 1 to 5 for the step in `j` (R316). -/
def applyAll (slot : Nat) (j : Job) (slots groups : Nat) : Ap Unit := do
  let cs := j.part.carriedIn
  let s := j.step.toNat
  -- the descriptors in force in the step
  let tables ← (j.applyTables ++ (← apMach).sketchTables j slots).eraseDups.filterMapM fun t => apInForce j slots t
  -- orders 1 and 2
  let flips ← applyFlips slot j slots
  let removed ← applyStakes slot j slots cs
  applySelects slot j slots cs
  j.raised.forM (countRaise j)
  applyScalars slot j groups
  -- order 3
  tables.forM fun d => applySketch j d
  let pre := j.placed.filter fun p => p.kind == 2
  let roots ← pre.filterMapM fun p => do
    match ← applyRoot slot j p with
    | some v => return some (p, v)
    | none => return none
  pre.forM fun p => applyFold slot j p
  tables.forM fun d => do
    let gone := (removed.filter fun x => x.1 == d.id).map (·.2)
    let rows := (if d.frozen then [] else j.lookedRows d.id) ++ gone
    rows.eraseDups.forM fun x => classRule slot j d x
  -- order 4
  apMod fun m => (m.modJob slot fun j => { j with undo0 := [], undo1 := [], deltas := [] }).freeSites slot
  -- order 5
  tables.forM fun d => do
    let updated := ((← apMach).groupOfTable j d.id).isSome
    let rows := (j.sites.filter fun y => updated && y.table == d.id).map (·.row)
    let fl := flips.filter fun f => f.table == d.id
    let j' := ((← apMach).job? slot).getD j
    let staked := (j'.replicas.filter fun r => r.table == d.id).map (·.row)
    let rebuild (x : Nat) : Bool :=
      (s + 1) % max 1 d.stakeInterval == 0 || !j.replicas.any fun r => r.table == d.id && r.row == x
    (rows ++ (fl.map (·.row)) ++ staked.filter rebuild).eraseDups.forM fun x => do
      match ← apRow d x false with
      | none => return
      | some (sh, e) =>
        if sh.module ≠ (← apMach).self then return
        else if e.staked then
          if rebuild x then refreshReplica slot d sh x
        else if e.resident then refreshCopy slot d sh x e.cls e.near
  (j.placed.filter fun p => p.kind == 0).forM fun p => do
    if bitAt ((← apMach).groupDesc j p.id).flags 0 then refreshDense slot j p
  let j' := ((← apMach).job? slot).getD j
  roots.forM fun x => applyRootTiles slot j' x.1 x.2

/-- The engines forget what a commit ends: prefetched rows of tables without FROZEN and rows still on their way, hints and blocks of the
step, traces of the attempt (R160, R161). -/
def Mach.forgetStep (m : Mach) (slot : Nat) (j : Job) : Mach :=
  let ks := m.jobClusters j
  let m := { m with fetches := m.fetches.filter fun f => match f.owner with
    | .prefetch k => !ks.contains k
    | _ => true }
  let m := ks.foldl (fun m k => m.modGth k fun g =>
    { g with area := g.area.filter fun p => p.slot != slot || p.frozen,
             hints := g.hints.filter fun h => h.slot != slot || decide (j.step.toNat < h.step.toNat) }) m
  m.modJob slot fun j => { j with blocks := j.blocks.filter fun b => decide (j.step.toNat < b.desc.step.toNat) }

/-- Records of the carried commands that this module accepted, once they are applied (R142, R143, R428). -/
def Mach.carriedRecords (m : Mach) (slot : Nat) (step : Nat) (vs : List (List Byte × Nat)) : Mach :=
  match m.job? slot with
  | none => m
  | some j =>
    let now := j.carried.filter fun c => cmdN c.bytes 8 8 == step
    let m := now.foldl (fun m c =>
      let status := ((vs.find? fun v => v.1 == c.bytes).map (·.2)).getD 0
      m.finishCmd c.ctx c.n status (if status = 14 then 5 else 0) 0 step) m
    m.modJob slot fun j => { j with carried := j.carried.filter fun c => cmdN c.bytes 8 8 != step }

/-- Perform the apply once COMMIT and its carried commands have come and no root is waited for (R296, R316). -/
def Mach.tryApply (m : Mach) (slot : Nat) : Mach :=
  match m.job? slot with
  | none => m
  | some j =>
    match j.part.commit with
    | none => m
    | some n =>
      if j.part.applied || decide (j.part.carriedIn.length < n) || j.state == .halted then m
      else if !(m.rootsPending j).isEmpty then
        if j.part.rootWaited then m
        else
          let m := (m.rootsPending j).foldl (fun m d => m.event tyUpd d 6) (m.setDies slot 3)
          m.modJob slot fun j => { j with part := { j.part with rootWaited := true } }
      else
        let x : Rd ApSt := do
          let r ← (applyAll slot j (m.tableSlots j) (m.jobHdr j).groups).run {}
          return r.2
        match m.runRd (.cmt slot) (some j.domain) (m.causeOf slot) x with
        | (none, m) => m
        | (some a, m) =>
          let m := (m.forgetStep slot j).setGuards slot
          let m := { m with cmt := { m.cmt with commits := m.cmt.commits + 1 } }
          let m := (m.thdGlobal j.domain 1 1).trace j.domain 7 j.attempt.toNat j.id (m.station cmtUnit) j.step.toNat 0
          let m := m.setDies slot (if a.refresh.isEmpty then 0 else 2)
          let m := m.modJob slot fun j =>
            { j with inconsistent := j.inconsistent || a.undone,
                     part := { j.part with applied := true, readyEver := false, refresh := a.refresh,
                                           halt := if a.corrupt then 5 else 0 } }
          let m := if a.undone && !j.inconsistent then m.event tyCmt 0 4 else m
          m.carriedRecords slot j.step.toNat a.verdicts

/-- COMMIT at a participant (R316). -/
def Mach.onCommit (m : Mach) (slot : Nat) (j : Job) (c : CommitMsg) : Mach :=
  if j.names c && j.part.commit.isNone && !j.part.aborting then
    (m.modJob slot fun j =>
      { j with state := .applying, part := { j.part with commit := some c.carried } }).tryApply slot
  else m

/-- COMMIT -/
def execStepCommit (p : Packet) (s : State) : Host.Outcome State Fault Refusal :=
  .next (s.onMach fun m => m.onMsg p 4 Mach.onCommit)

/-- CARRY: at the coordinator before its decision it belongs to a vote, afterwards, and at every other module, to COMMIT
(R313, R315). -/
def Mach.onCarry (m : Mach) (slot : Nat) (j : Job) (c : CommitMsg) : Mach :=
  if m.coordinates j && !j.coord.commitSent then
    if j.coord.names c && !j.coord.abortSent then
      (m.modPeer slot c.source fun x => { x with carried := x.carried ++ [c.command] }).tryCommit slot
    else m
  else if j.names c && !j.part.applied && !j.part.aborting then
    (m.modJob slot fun j => { j with part := { j.part with carriedIn := j.part.carriedIn ++ [c.command] } }).tryApply slot
  else m

/-- CARRY -/
def execCarry (p : Packet) (s : State) : Host.Outcome State Fault Refusal :=
  .next (s.onMach fun m => m.onMsg p 13 Mach.onCarry)

/-- ROOT_COMPUTE_DONE: the result stands, and a commit that waited for it goes on (R294, R296). -/
def execRootComputeDone (die : Nat) (s : State) : Host.Outcome State Fault Refusal :=
  .next (s.onMach fun m => (List.range 64).foldl (fun m slot => m.tryApply slot) (m.rootFinish die))

/-- Once every refresh write of the apply is complete the participant sends DONE (R290, R316). -/
def Mach.applyDone (m : Mach) (slot : Nat) : Mach :=
  match m.job? slot with
  | none => m
  | some j =>
    if j.part.applied && j.part.refresh.isEmpty && !j.part.doneSent then
      let m := m.setDies slot 0
      let due := j.monuments.any fun o => o.step + 1 == j.step
      (m.modJob slot fun j => { j with state := if due then .capturing else j.state,
                                       part := { j.part with doneSent := true } }).sendCommit slot j.coordModule 6
        (b2n j.stopAsked) (if j.part.halt = 0 then (if j.noFit then 15 else 0) else 16 + j.part.halt) 0 0 0
        (some (j.step - 1).toNat)
    else m

/-- APPLY_DONE (R290). -/
def execApplyDone (slot : Nat) (s : State) : Host.Outcome State Fault Refusal :=
  .next (s.onMach fun m => m.applyDone slot)

/-- MIGRATION_SOURCE_FREE: the source copy of a flipped migration is freed once the lookup closure of its step is complete
(R163). -/
def Mach.sourceFree (m : Mach) (slot table row : Nat) : Mach :=
  match m.job? slot with
  | none => m
  | some j =>
    if m.lookupClosed j then
      m.modJob slot fun j =>
        { j with migrations := j.migrations.filter fun g => !(g.flipped && g.table == table && g.row == row) }
    else m

/-- MIGRATION_SOURCE_FREE -/
def execMigrationSourceFree (slot table row : Nat) (s : State) : Host.Outcome State Fault Refusal :=
  .next (s.onMach fun m => m.sourceFree slot table row)

/-! ## DONE and START (R304, R313, R322) -/

/-- The coordinator's fresh view of its participants for an attempt. -/
def freshPeers (m : Mach) (j : Job) : List PeerSt :=
  j.participants.map fun d => { module := d, heard := m.now, told := m.now }

/-- The coordinator sends START for a step and attempt (R304). -/
def Mach.sendStart (m : Mach) (slot : Nat) (step : BitVec 64) (attempt : BitVec 2) : Mach :=
  match m.job? slot with
  | none => m
  | some _ =>
    let m := m.modJob slot fun j => { j with coord := { step := step, attempt := attempt, peers := freshPeers m j } }
    m.sendAll slot 7 0 0 0 (some step.toNat) (some attempt.toNat)

/-- Is a monument still to be written before START may be sent (R329)? -/
def Job.monumentDue (j : Job) : Bool :=
  (j.monuments.any fun o => o.step == j.coord.step) || (j.part.monumentDone && j.coord.peers.any fun x => !x.part)

/-- Every participant is done with a step that a monument captures: they are told once that they may capture (R329; DESIGN CHOICE: a
DONE with CARRIED 4 says so). -/
def Mach.sendCapture (m : Mach) (slot : Nat) : Mach :=
  match m.job? slot with
  | none => m
  | some j =>
    if j.coord.captureSent then m
    else (m.modJob slot fun j => { j with coord := { j.coord with captureSent := true } }).sendAll slot 6 0 0 4
      (some j.coord.step.toNat) (some j.coord.attempt.toNat)

/-- Every participant has sent DONE: START, a halt, or the end of the run (R313, R322, R325, R428). -/
def Mach.coordNext (m : Mach) (slot : Nat) : Mach :=
  match m.job? slot with
  | none => m
  | some j =>
    if !m.coordinates j || j.coord.peers.any (fun x => !x.done) || !(j.coord.commitSent || j.coord.abortSent) then m
    else if j.coord.abortSent then
      if j.coord.halt ≠ 0 then m.sendStop slot (b2n j.coord.inconsistent) (16 + j.coord.halt)
      else if j.coord.attempt = 2 || j.state == .halted then m
      else if j.noFit then m.sendStop slot 0 15
      else m.sendStart slot j.coord.step (j.coord.attempt + 1)
    else if j.coord.halt ≠ 0 then m.sendStop slot (b2n j.coord.inconsistent) (16 + j.coord.halt)
    else if j.monumentDue then m.sendCapture slot
    else if j.noFit then m.sendStop slot 0 15
    else if j.stepsLeft == some 0 then m.sendStop slot 0 0
    else if j.stopAsked then m.sendStop slot 1 0
    else m.sendStart slot (j.coord.step + 1) 0

/-- A participant holds an accepted RUN: the run begins once every one says so. With READY 1 it asks for a stop before the run has
begun, and no run begins (R428; DESIGN CHOICE: a DONE with CARRIED 2 says so). -/
def Mach.onRunHeard (m : Mach) (slot : Nat) (c : CommitMsg) : Mach :=
  let m := m.modJob slot fun j => { j with runsHeard := if j.runsHeard.contains c.source then j.runsHeard
                                                        else j.runsHeard ++ [c.source] }
  match m.job? slot with
  | none => m
  | some j =>
    if c.ready && !j.started then
      let stop := commitMsg 6 0 j.id 1 0 1 j.step.toNat 0 0
      let m := j.runsHeard.foldl (fun m d => m.send cmtUnit {
        dst := d * 8192 + cmtUnit, src := 0, tc := 3, op := 0x30, job := j.id, domain := j.domain, len := 32, data := stop }) m
      m.modJob slot fun j => { j with runsHeard := [] }
    else if j.run.isSome && m.coordinates j && !j.started && j.participants.all fun d => j.runsHeard.contains d then
      (m.modJob slot fun j => { j with started := true }).sendStart slot j.step 0
    else m

/-- A participant's DONE at the coordinator (R313, R322). -/
def Mach.onPeerDone (m : Mach) (slot : Nat) (j : Job) (c : CommitMsg) : Mach :=
  if m.coordinates j && j.coord.names c then
    let m := m.modJob slot fun j =>
      { j with stopAsked := j.stopAsked || c.ready, noFit := j.noFit || c.reason == 15,
               coord := { j.coord with inconsistent := j.coord.inconsistent || c.sent == 1, halt := if 16 < c.reason && j.coord.halt = 0 then c.reason - 16 else j.coord.halt } }
    let now := c.reason == 15 && !j.coord.commitSent && !j.coord.abortSent
    let m := m.modPeer slot c.source fun x => { x with done := true }
    if now then m.sendStop slot 0 15 else m.coordNext slot
  else m

/-- A participant's monument part is written (R329; DESIGN CHOICE: a DONE with CARRIED 3 says so). -/
def Mach.onPartWritten (m : Mach) (slot : Nat) (j : Job) (c : CommitMsg) : Mach :=
  if m.coordinates j && j.coord.names c then
    (m.modPeer slot c.source fun x => { x with part := true }).coordNext slot
  else m

/-- The coordinator's word that the job stops, at a participant: a halt, NO_FIT, or the end of the run (R326, R348, R428). FAULT_AFTER_PNR
and the lost ends of R317 leave the job inconsistent, and so does a rollback that is not complete somewhere, which READY 1 says (R325). -/
def Mach.onStop (m : Mach) (slot : Nat) (c : CommitMsg) : Mach :=
  if 16 < c.reason then m.haltJob slot (c.reason - 16) (c.ready || decide (22 ≤ c.reason) && decide (c.reason ≤ 24))
  else if c.reason = 15 then ((m.stopWork slot).freeSites slot).endRun slot 11 0
  else
    match m.job? slot with
    | some j => if j.run.isSome then m.endRun slot (if c.ready then 15 else 0) 0 else m
    | none => m

/-- Every participant is done: this module's monument part may be captured (R329). The step of the apply is behind by now. -/
def Mach.onCapture (m : Mach) (slot : Nat) (j : Job) (c : CommitMsg) : Mach :=
  if c.source = j.coordModule && c.step + 1 == j.step.toNat then
    m.modJob slot fun j => { j with part := { j.part with captureGo := true } }
  else m

/-- Is a packet a participant's word that it holds a RUN, for a job that this module does not hold yet? It stays where it is. -/
def Mach.runTooEarly (m : Mach) (p : Packet) : Bool :=
  let c := CommitMsg.ofPacket p
  c.kind == 6 && c.carried == 2 && (m.slotOfJob c.job).isNone

/-- DONE: what it says follows from CARRIED, which R312 leaves unused in a DONE. -/
def execStepDone (p : Packet) (s : State) : Host.Outcome State Fault Refusal :=
  .next (s.onMach fun m => if m.runTooEarly p then m else m.onMsg p 6 fun m slot j c =>
    match c.carried with
    | 0 => m.onPeerDone slot j c
    | 1 => m.onStop slot c
    | 2 => m.onRunHeard slot c
    | 3 => m.onPartWritten slot j c
    | _ => m.onCapture slot j c)

/-- The preconditioner regions of a job's context name the selected root slots (R296). -/
def Mach.mapRoots (m : Mach) (slot : Nat) : Mach :=
  match m.job? slot with
  | none => m
  | some j =>
    let point (r : Region) : Region :=
      ((j.placed.filter fun p => p.kind == 2).foldl (fun (r : Region) p =>
        let sel := b2n (Tab.get {} j.preconds p.id).select
        let a (i : Nat) : Nat := p.addrs.getD i 0
        if r.target = a (2 - sel) then { r with target := a (1 + sel) }
        else if r.target = a (4 - sel) then { r with target := a (3 + sel) }
        else r) r)
    m.modCtx j.ctx fun x =>
      { x with regions := x.regions.map fun r => if r.size = 0 ∨ r.station / 8192 ≠ m.self then r else point r }

/-- START at a participant: the current tag, the first phase, and what an attempt begins with (R304, R455). -/
def Mach.onStart (m : Mach) (slot : Nat) (j : Job) (c : CommitMsg) : Mach :=
  if j.state == .halted || j.run.isNone || c.source != j.coordModule then m
  else
    let same := c.step = j.step.toNat && j.part.aborting
    let m := (j.monuments.filter fun o => decide (o.step.toNat < c.step)).foldl (fun m o => m.finishCmd o.ctx o.n 7) m
    let m := (m.freeSites slot).modJob slot fun j =>
      { j with monuments := j.monuments.filter fun o => !decide (o.step.toNat < c.step), state := .running, step := BitVec.ofNat 64 c.step, attempt := BitVec.ofNat 2 c.attempt, started := true,
               tag := some (stepTag c.step c.attempt), phase := 0, phaseBegun := false, bound := [], kept := [], waitingSince := none,
               condition := 0,
               sent := 0, applied := 0, updNext := [], undo0 := [], undo1 := [], rangeReduce := [], rangeGrad := [],
               rangePool := [], deltas := [],
               replays := if c.attempt = 0 then j.replays else j.replays + 1,
               stepsLeft := if c.attempt = 0 then j.stepsLeft.map (· - 1) else j.stepsLeft,
               part := { readyEver := same && j.part.readyEver, heard := m.now, told := m.now } }
    let m := (m.mapRoots slot).modCtx j.ctx fun x => { x with state := if x.state == .active then .running else x.state }
    let m := m.trace j.domain 6 c.attempt j.id (m.station cmtUnit) c.step 0
    if j.badBlocks.contains c.step then
      (m.modJob slot fun j => { j with badBlocks := j.badBlocks.filter (· != c.step) }).abortCond slot 2
    else m

/-- START -/
def execStepStart (p : Packet) (s : State) : Host.Outcome State Fault Refusal :=
  .next (s.onMach fun m => m.onMsg p 7 Mach.onStart)

end Sys2Proof.Machine
end

