-- ==== Sys2Proof/Machine/Planner.lean ====
section
/-!
DEFINITION. The planner (chapter 13): which plats it may draw (R337 to R352), their adoption at phase boundaries (R344, R345) with
translation regions (R368, R369), the cleaning of what changes hands (R30, R417) and the plat log (R353 to R355); the binding of
programs to cores and the end of a phase (R187, R188); freezes (R359).
-/
namespace Sys2Proof.Machine

/-! ## Clusters a job may hold (R338, R347, R348, R356, R361, R420) -/

/-- The clusters of the health map, ascending: present, not avoided and not gated (R361, R484, PLN_USABLE). -/
def Mach.usableClusters (m : Mach) : List Nat :=
  (List.range 640).filter fun k => m.clusterPresent k && !m.pln.avoidClusters.contains k && !m.pwr.gate.getLsbD k

/-- Clusters assigned to jobs of a domain, without those of one job. -/
def Mach.assignedTo (m : Mach) (d : Nat) (but : Option Nat) : Nat :=
  (m.clu.filter fun e => e.2.assigned && e.2.domain.toNat == d && some e.2.job.toNat != but).length

/-- Clusters that the easements of other domains keep from a domain (R356); one that is pending counts as reserved. -/
def Mach.keptFrom (m : Mach) (d : Nat) : Nat :=
  ((List.range 16).filter (· != d)).foldl (fun (n : Nat) x =>
    let e := m.getPlnDom x
    let want := match e.pending with
      | some p => p.1
      | none => e.eased.toNat
    n + (want - m.assignedTo x none)) 0

/-- Clusters of the health map that no other job holds. -/
def Mach.freeFor (m : Mach) (j : Job) : List Nat :=
  m.usableClusters.filter fun k => let c := m.getClu k; !c.assigned || c.job.toNat == j.id


/-- Cores of one slot that phase i needs at least: each index of a program without SEQUENTIAL its own, and one where only
programs with SEQUENTIAL run (R347). -/
def phaseNeed (rd : RdN) (h : ImgHdr) (i : Nat) : Nat :=
  let ph := imgPhase rd h i
  let ps := (List.range ph.count).map fun k => imgProg rd h (ph.first + k)
  (List.range 16).foldl (fun (n : Nat) c =>
    let own := ps.filter fun p => p.slot == c
    let wide := (own.filter fun p => !bitAt p.flags 0).foldl (fun (n : Nat) p => n + p.width) 0
    max n (if own.isEmpty then 0 else max 1 wide)) 0

/-- Clusters that a job needs for its widest phase (R347). -/
def Mach.clustersNeeded (m : Mach) (j : Job) : Nat :=
  (List.range (m.jobHdr j).phases).foldl (fun (n : Nat) i => max n (phaseNeed (m.jobRd j) (m.jobHdr j) i)) 0

/-- The most clusters a job may hold on this module beside its context's SIZE (R356). An easement takes from a job with a plat none
that it needs (R357). -/
def Mach.clusterLimit (m : Mach) (j : Job) : Nat :=
  let free := m.freeFor j
  let held := if j.plat.isSome then min (m.clustersNeeded j) ((m.jobClusters j).filter free.contains).length else 0
  min (max held (free.length - m.keptFrom j.domain))
    ((m.getDom j.domain).quotaClusters.toNat - m.assignedTo j.domain (some j.id))

/-- Tract of a cluster (R15). -/
def tractOf (k : Nat) : Nat := k / 160

/-- The clusters of a tract that a class L context occupies when it occupies the tract. -/
def Mach.tractClusters (m : Mach) (t : Nat) : List Nat := m.usableClusters.filter fun k => tractOf k == t

/-- The clusters that a job can be given on this module (R420). -/
def Mach.capacity (m : Mach) (j : Job) : Nat :=
  match (m.getCtx j.ctx).desc with
  | none => 0
  | some c =>
    if !c.classL then min c.size (m.clusterLimit j)
    else
      let free := m.freeFor j
      let whole := (List.range 4).filter fun t =>
        !(m.tractClusters t).isEmpty && (m.tractClusters t).all fun k => free.contains k
      -- the best choice of at most SIZE whole tracts within the limit
      let sums := (List.range 16).map fun b =>
        let ts := whole.filter fun t => bitAt b t
        if c.size < ts.length then 0 else ts.foldl (fun (n : Nat) t => n + (m.tractClusters t).length) 0
      (sums.filter fun n => decide (n ≤ m.clusterLimit j)).foldl max 0

/-- Can the clusters that a job may use hold every phase (R348)? Clusters of other participants are theirs to tell. -/
def Mach.jobFits (m : Mach) (j : Job) : Bool :=
  let others := if 1 < j.participants.length then Config.clustersElsewhere j.id j.step else 0
  decide (0 < m.capacity j) && decide (m.clustersNeeded j ≤ m.capacity j + others)

/-- Do two runs of bytes share one? -/
def spansMeet (a n b k : Nat) : Bool := decide (a < b + k) && decide (b < a + n) && n != 0 && k != 0

/-! ## Which plats the planner draws (R337, R347, R349, R352) -/

/-- Are the clusters of a plat such that the job may hold them? -/
def Mach.platClustersOk (m : Mach) (j : Job) (p : Plat) : Bool :=
  let free := m.freeFor j
  let whole := ((p.clusters.map tractOf).eraseDups)
  match (m.getCtx j.ctx).desc with
  | none => false
  | some c =>
    p.clusters.eraseDups.length == p.clusters.length && !p.clusters.isEmpty && p.clusters.all (fun k => free.contains k) &&
      decide (p.clusters.length ≤ m.clusterLimit j) &&
      (if c.classL then
        decide (whole.length ≤ c.size) && whole.all fun t => (m.tractClusters t).all fun k => p.clusters.contains k
       else decide (p.clusters.length ≤ c.size))

/-- Are the runs of one core in one phase numbered one after another, the indices of one program ascending, and a program
without SEQUENTIAL only the first, so that all its indices run at the same time (R347)? -/
def runsOk (rd : RdN) (h : ImgHdr) (bs : List Bind) : Bool :=
  (List.range bs.length).all fun i => bs.any fun x =>
    x.run == i && (i == 0 || bitAt (imgProg rd h x.program).flags 0) &&
      bs.all fun y => y.program != x.program || decide (y.run ≤ i) || decide (x.index < y.index)

/-- Does a program lie in some phase's range? One that does not never runs (R343). -/
def runsSomewhere (rd : RdN) (h : ImgHdr) (e : Nat) : Bool := (List.range h.phases).any fun i => inPhase (imgPhase rd h i) e

/-- Do the bindings of a plat run each logical core index once (R347, R352)? On a job of one module every index is there. -/
def Mach.platBindsOk (m : Mach) (j : Job) (p : Plat) : Bool :=
  let rd := m.jobRd j
  let h := m.jobHdr j
  p.binds.all (fun b => decide (b.program < h.programs) && p.clusters.contains b.cluster &&
    decide (b.index < (imgProg rd h b.program).width) && (imgProg rd h b.program).slot == b.slot) &&
  ((List.range h.programs).filter (runsSomewhere rd h)).all (fun e =>
    let is := (p.binds.filter fun b => b.program == e).map (·.index)
    is.eraseDups.length == is.length && (decide (1 < j.participants.length) || is.length == (imgProg rd h e).width)) &&
  (List.range h.phases).all fun i =>
    let bs := p.binds.filter fun b => inPhase (imgPhase rd h i) b.program
    (bs.map fun b => (b.cluster, b.slot)).eraseDups.all fun q => runsOk rd h (bs.filter fun b => (b.cluster, b.slot) == q)

/-- What is placed at a run or restore and does not move within the run: of a dense share all but its working tiles (R349). -/
def fixedPart (p : Placed) : Placed := if p.kind = 0 then { p with addrs := p.addrs.take 3 } else p

/-- Is every spread list the clusters of the module that the plat assigns to its phase, in ascending number (R240)? Those are the
clusters on which the phase has a run; a phase that needs none may have no list. -/
def Mach.spreadOk (m : Mach) (j : Job) (p : Plat) : Bool :=
  let rd := m.jobRd j
  let h := m.jobHdr j
  decide (p.spread.length ≤ h.phases) && (List.range p.spread.length).all fun i =>
    let l := p.spread.getD i []
    let used (k : Nat) : Bool := p.binds.any fun b => b.cluster == k && inPhase (imgPhase rd h i) b.program
    l.isEmpty || l == (List.range 640).filter fun k => p.clusters.contains k && used k

/-- Are the pieces of every split sequence consecutive and aligned (R333)? -/
def chainageOk (cs : List (Nat × Nat × Nat × Nat)) : Bool :=
  cs.all fun c =>
    let same := cs.filter fun x => x.1 == c.1
    let stop := c.2.2.1 + c.2.2.2
    c.2.2.1 % 32 == 0 && (c.2.2.1 == 0 || same.any fun x => x.2.2.1 + x.2.2.2 == c.2.2.1) &&
      (!(same.any fun x => decide (c.2.2.1 < x.2.2.1)) || (stop % 32 == 0 && same.any fun x => x.2.2.1 == stop))

/-- Does a plat name modules only of the job's participants, and clusters only of those it assigns (R360, R361)? -/
def Mach.platNamesOk (m : Mach) (j : Job) (p : Plat) : Bool :=
  let mods := if j.participants.isEmpty then [m.self] else j.participants
  let here (st : Nat) : Bool := mods.contains (st / 8192)
  p.homes.all (fun x => here x.2.2.2.1) && p.parcels.all (fun x => here x.2.2.2) && p.chainage.all (fun x => here x.2.1) &&
    p.moves.all (fun v => here v.station && mods.contains v.entryModule) && p.regions.all (fun r => r.size == 0 || here r.station) &&
    p.sram.all (fun x => p.clusters.contains x.1) &&
    p.hints.all fun x => p.clusters.contains x.1 && x.2.all fun y => p.clusters.contains y.1

/-- Does a plat that leaves the job-wide part as it is keep parcels, homes, chainage and this module's share of the indices (R346)? -/
def jobwideKept (old p : Plat) : Bool :=
  let share (x : Plat) : List (Nat × Nat) := x.binds.map fun b => (b.program, b.index)
  p.jobwide || (p.moves.isEmpty && p.parcels == old.parcels && p.homes == old.homes && p.chainage == old.chainage &&
    (share p).all (fun b => (share old).contains b) && (share old).all fun b => (share p).contains b)

/-- Does everything that one update die updates of a shard lie behind it (R276)? -/
def Mach.oneDie (m : Mach) (j : Job) (ps : List Placed) (p : Placed) : Bool :=
  let die := dieOf (p.addrs.headD 0)
  let behind (a n : Nat) : Bool := dieOf a == die && (n == 0 || dieOf (a + n - 1) == die)
  match p.kind with
  | 0 =>
    let g := m.groupDesc j p.id
    let n := p.count * g.cols
    die.isSome && (p.addrs.take 3).all (fun a => behind a (4 * n)) && ps.all fun s =>
      !(s.kind == 1 && s.id == g.reduce && spansMeet s.first s.count (p.first * g.cols) n) || behind (s.addrs.headD 0) (8 * s.count)
  | 3 => die.isSome && behind (p.addrs.headD 0) (p.pitch * p.count) && behind (p.addrs.getD 1 0) (2 * p.pitch * p.count) &&
      behind (p.siteAt 0) (2 ^ p.siteShift * (p.siteBytes + 8))
  | 4 => die == some p.id
  | _ => true

/-- Bytes of the working tiles of a dense share (R290). -/
def Mach.tileBytes (m : Mach) (j : Job) (p : Placed) : Nat :=
  let g := m.groupDesc j p.id
  let rows := ceilDiv (p.first + p.count) 32 - p.first / 32
  rows * ceilDiv g.cols 32 * (if g.workFormat % 16 = 0 then Fmt.l8 else Fmt.l16).stride

/-- Bytes of near tier among the shares of a domain. -/
def Mach.nearShare (m : Mach) (d : Nat) : Nat :=
  (m.getDom d).shares.foldl (fun (n : Nat) s => match tierOf s.1 with
    | .near _ _ => n + s.2
    | _ => n) 0

/-- The keep budget of a job on this module in bytes (R351). -/
def Mach.keepBudget (m : Mach) (j : Job) (p : Plat) : Nat :=
  let taken (x : Placed) : Nat := match x.kind with
    | 0 => if bitAt (m.groupDesc j x.id).flags 0 then m.tileBytes j x else 0
    | 2 => 2 * (Fmt.f32.stride * ceilDiv (m.precondDesc j x.id).n 32 ^ 2)
    | 5 => if x.id = m.self then x.count else 0
    | _ => 0
  let room := (p.keeps.filter fun k => !k.kept).foldl (fun (n : Nat) k => max n k.bytes) 0
  m.nearShare j.domain - (p.copyRoom + p.placed.foldl (fun (n : Nat) x => n + taken x) 0 + room)

/-- Does a tensor come before another in the order of first backward use, lower group first among equals (R351)? -/
def keepBefore (a b : Keep) : Bool :=
  let first (k : Keep) : Nat := k.bwd.foldl min 4096
  decide (first a < first b) || (first a == first b && decide (a.group < b.group))

/-- Are the tensors kept in their order, each that still fits, up to the first that does not (R351)? -/
def keepsFit (budget : Nat) : List Keep → Bool
  | [] => true
  | k :: ks =>
    if k.kept then decide (k.bytes ≤ budget) && keepsFit (budget - k.bytes) ks
    else decide (budget < k.bytes) && ks.all fun x => !x.kept

/-- Are a plat's keeps gather phases of their groups, and kept by the budget's rule (R350, R351)? -/
def Mach.keepsOk (m : Mach) (j : Job) (p : Plat) : Bool :=
  let h := m.jobHdr j
  let gather (g i : Nat) : Option Nat :=
    let ph := imgPhase (m.jobRd j) h i
    if i < h.phases ∧ bitAt ph.flags 0 ∧ ph.gatherGroup = g then some ph.kind else none
  p.budget == m.keepBudget j p &&
    p.keeps.all (fun k => gather k.group k.fwd == some 1 && k.bwd.all fun i => gather k.group i == some 2) &&
    keepsFit p.budget (p.keeps.mergeSort fun a b => !keepBefore b a)

/-- A range without what another one covers. -/
def rangeMinus (r s : Nat × Nat) : List (Nat × Nat) :=
  [(r.1, min (r.1 + r.2) s.1 - r.1), (max r.1 (s.1 + s.2), (r.1 + r.2) - max r.1 (s.1 + s.2))].filter fun q => q.2 != 0

/-- Is the near tier that a plat gives up the domain's own, and named by no region of its contexts afterwards (R357)? -/
def Mach.releasedOk (m : Mach) (j : Job) (p : Plat) : Bool :=
  p.released.isEmpty || (p.reason != 0 && p.released.all fun s =>
    (match tierOf s.1 with
     | .near _ _ => true
     | _ => false) &&
    (m.getDom j.domain).shares.any (fun r => decide (r.1 ≤ s.1) && decide (s.1 + s.2 ≤ r.1 + r.2)) &&
    p.regions.all (fun r => r.station / 8192 != m.self || !spansMeet r.target r.size s.1 s.2) &&
    m.ctx.all fun e => e.1 == j.ctx || m.domOfCtx e.1 != some j.domain ||
      e.2.regions.all fun r => r.station / 8192 != m.self || !spansMeet r.target r.size s.1 s.2)

/-- May the planner draw this plat for a job (R337, R346 to R352, R360, R361)? While a boundary waits, only for the cause that it waits
for. -/
def Mach.platOk (m : Mach) (j : Job) (p : Plat) : Bool :=
  m.platClustersOk j p && m.platBindsOk j p && (j.placed.isEmpty || decide (p.placed.map fixedPart = j.placed.map fixedPart)) &&
    m.spreadOk j p && chainageOk p.chainage && m.platNamesOk j p && p.placed.all (m.oneDie j p.placed) && m.keepsOk j p &&
    m.releasedOk j p && (match j.plat with
      | some old => jobwideKept old p
      | none => true) && decide (p.reason ≤ 6) && (j.waitingSince.isNone || p.reason == j.forced)

/-- A plat is drawn: it is the job's newest (R344). -/
def Mach.platDrawn (m : Mach) (slot : Nat) (p : Plat) : Mach :=
  match m.job? slot with
  | none => m
  | some j =>
    if m.platOk j p then
      let m := { m with pln := { m.pln with draws := m.pln.draws + 1,
                                            drawMax := BitVec.ofNat 32 (max m.pln.drawMax.toNat p.drawNs) } }
      m.modJob slot fun j => { j with newest := some p, newestAt := m.now, newestFrozen := j.frozen }
    else m

/-- PLN_STATE (R362): adopting while a parcel is copied, a forced draw while a boundary waits; whether it draws in the background is left
open. -/
def Mach.planState (m : Mach) : Nat :=
  let adopts := m.fetches.any fun f => match f.owner with
    | .planner s => decide (s < 64)
    | _ => false
  let waits := m.cmt.jobs.any fun e => (e.2.map (·.waitingSince.isSome)).getD false
  if adopts then 3 else if waits then 2 else b2n (Config.drawing m.now)

/-- PLAT_DRAWN (R344). -/
def execPlatDrawn (slot : Nat) (plat : Plat) (s : State) : Host.Outcome State Fault Refusal :=
  .next (s.onMach fun m => m.platDrawn slot plat)

/-! ## Regions (R368, R369, R418) -/

/-- Do ranges cover n bytes from an offset on, walking at most `fuel` of them? -/
def rangesCover (rs : List (Nat × Nat)) : Nat → Nat → Nat → Bool
  | 0, _, n => n == 0
  | fuel + 1, a, n => n == 0 ||
    match rs.find? fun r => decide (r.1 ≤ a) && decide (a < r.1 + r.2) with
    | none => false
    | some r => rangesCover rs fuel (r.1 + r.2) (n - (r.1 + r.2 - a))

/-- Does a range lie within the shares of a domain on this module: its host memory, its tier shares, and the SRAM and local stores of
clusters that are its own (R369)? -/
def Dom.holds (d : Dom) (ks : List Nat) (a n : Nat) : Bool :=
  let rs := (d.hostAt, d.hostmemGib.toNat * 2 ^ 30) :: d.shares ++ ks.flatMap fun k =>
    [(sramBase k, 2 ^ 20), (storeBase (16 * k), 16 * 2 ^ 15)]
  rangesCover rs (rs.length + 1) a n

/-- Does a range lie in the memory windows of R364, of whatever module: with nothing fenced it is all memory? -/
def windowed (a n : Nat) : Bool := Mach.populated {} a n

/-- Is a region entry accepted beside those accepted before it, for a context of domain d to which the plat gives clusters (R368, R369)?
An entry of size 0 is empty. -/
def Mach.regionOk (m : Mach) (d : Nat) (ks : List Nat) (before : List Region) (r : Region) : Bool :=
  r.base % 4096 == 0 && r.size % 4096 == 0 && r.target % 4096 == 0 && decide (r.base + r.size ≤ 2 ^ 48) &&
    decide (r.target + r.size ≤ 2 ^ 48) && !before.any (fun b => spansMeet b.base b.size r.base r.size) &&
    (if r.station / 8192 = m.self then m.populated r.target r.size && (m.getDom d).holds ks r.target r.size
     else windowed r.target r.size && Config.rangeElsewhere d (r.station / 8192) r.target r.size)

/-- Region 0 of every context of a domain (R418). -/
def Mach.hostRegion (m : Mach) (d : Nat) : Region :=
  let x := m.getDom d
  { base := 0, size := x.hostmemGib.toNat * 2 ^ 30, target := x.hostAt, station := m.station (unitOf x.hostAt), read := true,
    write := true, add := false }

/-- The read-only region of a domain's trace buffer, where one is placed (R515). -/
def Mach.traceRegion (m : Mach) (d : Nat) : List Region :=
  let t := m.getThdDom d
  match t.place with
  | some a => [{ base := t.base.toNat, size := t.sizeMib.toNat * 2 ^ 20, target := a, station := m.station (unitOf a), read := true,
                 write := false, add := false }]
  | none => []

/-- The read-only region of a domain's plat log, where a plat places one. -/
def Mach.logRegion (m : Mach) (p : Plat) : List Region :=
  if p.logBase = 0 then []
  else [{ base := p.logBase, size := 2 ^ 26, target := p.logAt, station := m.station (unitOf p.logAt), read := true, write := false,
          add := false }]

/-- Write the regions of a context as a plat gives them: a refused entry is left empty and recorded (R369). Host memory comes first, the
plat log and the trace buffer last; 256 in all. -/
def Mach.setRegions (m : Mach) (slot : Nat) (j : Job) (p : Plat) : Mach :=
  let empty : Region := { base := 0, size := 0, target := 0, station := 0, read := false, write := false, add := false }
  let own := m.logRegion p ++ m.traceRegion j.domain
  let r := (p.regions.take (255 - own.length)).foldl (fun (acc : List Region × Mach) x =>
    if x.size = 0 then (acc.1 ++ [empty], acc.2)
    else if acc.2.regionOk j.domain p.clusters acc.1 x then (acc.1 ++ [x], acc.2)
    else
      (acc.1 ++ [empty], acc.2.fault { kind := 8, event := 0, unit := 0, domain := j.domain, step := j.step.toNat, job := j.id,
                                       station := m.station plnUnit, address := x.target, detail := slot }))
    ([m.hostRegion j.domain], m)
  let own := own.filter fun x => !r.1.any fun b => spansMeet b.base b.size x.base x.size
  (r.2.modCtx j.ctx fun c => { c with regions := r.1 ++ own }).setGuards slot

/-! ## Clusters change hands (R30, R417, R512) -/

/-- Release the Theodolite counters that a domain owns on cluster k (R512). -/
def Mach.releaseCounters (m : Mach) (k d : Nat) : Mach :=
  let free (_ : Nat) (s : ThdSel) : ThdSel := if s.claimed && !s.mgt && s.owner.toNat == d then {} else s
  m.modThdClu k fun t => { t with sel := Tab.mapVals {} free t.sel }

/-- Take a cluster away from its job: its engines hold nothing of the job any more, neither queued and started batches nor hints and
prefetched rows (R134, R160). Its prefetch reservation stays until a plat sets another: no rule ends it (DESIGN CHOICE). -/
def Mach.dropCluster (m : Mach) (k : Nat) : Mach :=
  let c := m.getClu k
  let m := m.releaseCounters k c.domain.toNat
  let m := m.stopCores k
  let m := m.modTrv k fun t => { t with queue := [], work := [] }
  let m := m.modGth k fun g => { g with queue := [], work := [], coal := [], inHints := [], hints := [], area := [] }
  let m := m.modSpr k fun e => { e with routed := [], queue := [], work := [], fwd := [], reports := [] }
  let m := { m with fetches := m.fetches.filter fun f => f.owner.unit != k }
  m.modClu k fun c => { c with assigned := false, domain := 0, job := 0, hashKib := 0 }

/-- Give a cluster to a job: what another domain left in it is zeroed first (R30, R417). -/
def Mach.giveCluster (m : Mach) (k : Nat) (j : Job) : Mach :=
  let c := m.getClu k
  let other := match c.lastDomain with
    | some d => d != j.domain
    | none => false
  let m := if other then
      ((m.zeroMem (sramBase k) (2 ^ 20)).zeroMem (storeBase (16 * k)) (16 * 2 ^ 15)).modClu k fun c => { c with counters := [] }
    else m
  m.modClu k fun c => { c with assigned := true, domain := BitVec.ofNat 4 j.domain, job := BitVec.ofNat 16 j.id,
                               lastDomain := some j.domain }

/-! ## The plat log (R353 to R355) -/

/-- Bytes of a plat log. -/
abbrev logBytes : Nat := 0x4000000

/-- One section of a record: kind and entries. -/
def platSection (kind : Nat) (es : List (List Byte)) : List Byte :=
  if es.isEmpty then []
  else leBytes 2 kind ++ leBytes 2 0 ++ leBytes 4 es.length ++ leBytes 8 (16 * es.length) ++ es.flatten

/-- The sections of the record of a plat (R354): every entry of every kind, and how many sections there are. -/
def Mach.platSections (m : Mach) (j : Job) (p : Plat) : List (List Byte) :=
  let rd := m.jobRd j
  let h := m.jobHdr j
  let e := m.getPlnDom j.domain
  let ease := if e.eased = 0 && e.easeNt = 0 && e.easeLink = 0 then []
    else [leBytes 2 e.eased.toNat ++ leBytes 2 0 ++ leBytes 4 e.easeNt.toNat ++ leBytes 2 e.easeLink.toNat ++ leBytes 6 0]
  [platSection 1 (p.binds.map fun b =>
      leBytes 4 (m.station b.cluster) ++ leBytes 2 (imgProg rd h b.program).id ++ leBytes 1 b.slot ++ leBytes 1 b.run ++
        leBytes 4 b.index ++ leBytes 4 0),
   platSection 2 (p.parcels.map fun x =>
      leBytes 2 x.1 ++ leBytes 1 x.2.1 ++ leBytes 1 0 ++ leBytes 4 x.2.2.1 ++ leBytes 4 x.2.2.2 ++ leBytes 4 0),
   platSection 3 (p.homes.map fun x =>
      leBytes 1 x.1 ++ leBytes 1 x.2.1 ++ leBytes 2 x.2.2.1 ++ leBytes 4 x.2.2.2.1 ++ leBytes 4 x.2.2.2.2.1 ++
        leBytes 4 x.2.2.2.2.2),
   platSection 4 (p.keeps.map fun x => leBytes 2 x.group ++ leBytes 1 (b2n x.kept) ++ leBytes 5 0 ++ leBytes 8 x.bytes),
   platSection 5 (p.chainage.map fun x => leBytes 2 x.1 ++ leBytes 2 0 ++ leBytes 4 x.2.1 ++ leBytes 4 x.2.2.1 ++ leBytes 4 x.2.2.2),
   platSection 6 ease].filter fun s => !s.isEmpty

/-- The record of a plat that is adopted now (R353), under a number. -/
def Mach.platRecord (m : Mach) (j : Job) (p : Plat) (seq : Nat) : List Byte :=
  let ss := m.platSections j p
  let body := ss.flatten
  let flags := b2n j.newestFrozen + 2 + 4 * b2n p.jobwide
  leBytes 2 1 ++ leBytes 2 j.id ++ leBytes 4 (64 + body.length) ++ leBytes 8 seq ++ leBytes 8 j.step.toNat ++ leBytes 2 j.phase ++
    leBytes 1 p.reason ++ leBytes 1 flags ++ leBytes 4 ss.length ++ leBytes 8 j.newestAt ++ leBytes 8 m.now ++
    leBytes 4 j.participants.length ++ leBytes 4 p.clusters.length ++ leBytes 8 0 ++ body

/-- Where a record of n bytes goes: behind the newest, 64-byte aligned, at 0 where it would pass the end. -/
def PlnDom.nextRecord (e : PlnDom) (n : Nat) : Nat :=
  match e.records.getLast? with
  | none => 0
  | some r =>
    let o := (r.2.1 + r.2.2 + 63) / 64 * 64
    if logBytes < o + n then 0 else o

/-- Write the record of a plat: the records it overwrites lose their SEQ first (R355). Answers its number. -/
def Mach.logPlat (m : Mach) (j : Job) (p : Plat) : Nat × Mach :=
  let m := m.modPlnDom j.domain fun e => { e with logAt := p.logAt, logBase := BitVec.ofNat 48 p.logBase }
  let e := m.getPlnDom j.domain
  let seq := e.seq.toNat + 1
  let bs := m.platRecord j p seq
  let at' := e.nextRecord bs.length
  let hit (r : Nat × Nat × Nat) : Bool := spansMeet r.2.1 r.2.2 at' bs.length
  let m := (e.records.filter hit).foldl (fun m r =>
    (m.writeMem (some j.domain) .working (e.logAt + r.2.1 + 8) (leBytes 8 0)).2) m
  let rest := (e.records.filter fun r => !hit r) ++ [(seq, at', bs.length)]
  let m := (m.writeMem (some j.domain) .working (e.logAt + at') bs).2
  (seq, m.modPlnDom j.domain fun e =>
    { e with seq := BitVec.ofNat 64 seq, head := BitVec.ofNat 26 at', records := rest,
             oldest := BitVec.ofNat 64 (rest.headD (seq, 0, 0)).1, budget := BitVec.ofNat 32 (p.budget / 2 ^ 20) })

/-! ## Adoption (R305, R344 to R346) -/

/-- Batches of a job that have started go on reading a moved parcel through its old entry, and its old copy stays (R106). -/
def Mach.keepOldParcel (m : Mach) (slot : Nat) (v : ParcelMove) (entry : Nat) (copies : List Range) : Mach :=
  let keep (w : TrvWork) : TrvWork :=
    if w.desc.org.slot != slot || w.oldMap.any fun x => x.1 == v.entryModule && x.2.1 == v.entryAt then w
    else { w with oldMap := w.oldMap ++ [(v.entryModule, v.entryAt, entry)], oldCopies := w.oldCopies ++ copies }
  { m with trv := Tab.mapVals {} (fun _ (t : Trv) => { t with work := t.work.map keep }) m.trv }

/-- Does a plat move no parcel and no copy to where a batch of the job still reads an old copy (R106)? -/
def Mach.copiesFree (m : Mach) (slot : Nat) (p : Plat) : Bool :=
  let used := m.copiesInUse slot
  let clear (mod a n : Nat) : Bool := used.all fun r => r.1 != mod || !spansMeet r.2.1 r.2.2 a n
  p.moves.all (fun v => clear (v.station / 8192) v.offsets v.offsetBytes && clear (v.station / 8192) v.edges v.edgeBytes) &&
    p.copies.all fun c => clear m.self c.2.1 c.2.2

/-- Copy the parcels that a plat moves and write their map entries (R106); the old copies stay. -/
def moveParcels (slot : Nat) (p : Plat) : Rd Bool :=
  p.moves.foldlM (fun (bad : Bool) v => do
    let e ← rdBytes v.entryModule v.entryAt 16 .working
    let w := leNat e.1
    let old := fld w 104 24 / 8192
    let offs ← rdBytes old (fld w 48 48) v.offsetBytes .working
    let edges ← rdBytes old (fld w 0 48) v.edgeBytes .working
    let entry := v.station * 2 ^ 104 + v.tier % 4 * 2 ^ 102 + v.offsets % 2 ^ 48 * 2 ^ 48 + v.edges % 2 ^ 48
    let dest := v.station / 8192
    rdMod fun m =>
      let w := m.causeOf slot
      let m := (m.putBytes plnUnit w slot dest v.offsets offs.1).2
      let m := (m.putBytes plnUnit w slot dest v.edges edges.1).2
      let m := m.keepOldParcel slot v (leNat e.1) [(old, fld (leNat e.1) 48 48, v.offsetBytes), (old, fld (leNat e.1) 0 48, v.edgeBytes)]
      (m.putBytes plnUnit w slot v.entryModule v.entryAt (leBytes 16 entry)).2
    return bad || e.2 || offs.2 || edges.2) false

/-- SRAM reservations of a plat (R126, R337). -/
def Mach.setSram (m : Mach) (p : Plat) : Mach :=
  p.sram.foldl (fun m x =>
    let m := m.modClu x.1 fun c => { c with hashKib := if x.2.1 then 512 else 0 }
    m.modGth x.1 fun g => { g with prefetchKib := BitVec.ofNat 9 (min 256 x.2.2) }) m

/-- The tiles of a root X given as binary64 patterns: binary32, dense (R151, R296). -/
def rootTiles (n : Nat) (v : List Nat) : List Byte :=
  let a := v.toArray
  (outTiles .f32 0 n n fun r c => (Ieee.b64.read (a.getD (r * n + c) 0)).val).1.flatten

/-- A preconditioner at job start: S is zero, slot 0 holds the identity (R292). -/
def Mach.initRoot (m : Mach) (j : Job) (p : Placed) : Mach :=
  let n := (m.precondDesc j p.id).n
  let one := (List.range (n * n)).map fun i => if i / n = i % n then 0x3FF0000000000000 else 0
  let a (i : Nat) : Nat := p.addrs.getD i 0
  let m := m.zeroMem (a 0) (8 * n * n)
  let m := (m.writeMem (some j.domain) .committed (a 1) (one.flatMap (leBytes 8))).2
  (m.writeMem (some j.domain) .committed (a 3) (rootTiles n one)).2

/-- Working tiles and gathered copies that a later plat of the run moves are copied, all read before any is written (R349); a move to
memory that is not the domain's changes nothing. -/
def Mach.moveCopies (m : Mach) (slot : Nat) (j : Job) (p : Plat) : Mach :=
  let tiles := j.placed.flatMap fun o => match p.placed.find? fun n => o.kind == 0 && fixedPart n == fixedPart o with
    | some n => if n.addrs.getD 3 0 = o.addrs.getD 3 0 then [] else [(o.addrs.getD 3 0, n.addrs.getD 3 0, m.tileBytes j o)]
    | none => []
  let moves := (tiles ++ p.copies).filter fun x => (m.getDom j.domain).holds p.clusters x.2.1 x.2.2 && m.populated x.2.1 x.2.2
  let r := moves.foldl (fun (acc : List (Nat × List Byte) × Mach) x =>
    let b := acc.2.readMem (some j.domain) .working x.1 x.2.2
    (acc.1 ++ [(x.2.1, b.1)], b.2.2.onFail b.2.1 slot .working)) ([], m)
  r.1.foldl (fun m x => (m.writeMem (some j.domain) .working x.1 x.2).2) r.2

/-- A plat comes into force for a job (R337, R344): clusters, regions, placements of a run or restore (R336, R349), reservations,
the record of its adoption. `forced` says that the boundary was forced. -/
def Mach.adoptPlat (m : Mach) (slot : Nat) (p : Plat) (forced : Bool) : Mach :=
  match m.job? slot with
  | none => m
  | some j =>
    let waited := match j.waitingSince with
      | some t => m.now - t
      | none => 0
    let broken := forced && j.frozen && decide (3 ≤ p.reason)
    let m := ((m.jobClusters j).filter fun k => !p.clusters.contains k).foldl (fun m k => m.dropCluster k) m
    let m := (p.clusters.filter fun k => !(m.jobClusters j).contains k).foldl (fun m k => m.giveCluster k j) m
    let m := if j.placed.isEmpty then m else m.moveCopies slot j p
    let m := (m.setSram p).setRegions slot j p
    let m := m.modDom j.domain fun x => { x with shares := p.released.foldl (fun l s => l.flatMap fun r => rangeMinus r s) x.shares }
    let m := m.modCtx j.ctx fun c => { c with clusters := BitVec.ofNat 10 p.clusters.length }
    let fresh := j.placed.isEmpty
    let l := m.logPlat j p
    let m := l.2
    let avoided := p.clusters.any fun k => m.pln.avoidClusters.contains k
    let m := m.modJob slot fun j =>
      { j with plat := some p, newest := none, waitingSince := none, forced := if avoided then 3 else 0,
               placed := p.placed, logPlaced := if fresh then j.logLive else j.logPlaced,
               kept := j.kept.filter fun i => p.keeps.any fun k => k.fwd == i && (k.kept || decide (j.phase ≤ k.last)) }
    let m := if fresh then (p.placed.filter fun x => x.kind == 2).foldl (fun m x => m.initRoot j x) m else m
    let m := m.mapRoots slot
    let m := { m with pln := { m.pln with adopted := m.pln.adopted + 1,
                                          forcedNs := m.pln.forcedNs + BitVec.ofNat 48 waited } }
    let m := if broken then m.event tyPln 0 3 else m
    let m := (m.thdGlobal j.domain 3 1).thdGlobal j.domain 4 waited
    m.trace j.domain 8 j.attempt.toNat j.id (m.station plnUnit) j.step.toNat l.1

/-- The domains' link weights take effect (R408). -/
def Mach.takeWeights (m : Mach) : Mach :=
  (List.range 16).foldl (fun m d => m.modPlnDom d fun e =>
    { e with weight := if e.easeState = 2 ∨ e.easeState = 3 then e.easeLink.toNat else e.weight }) m

/-- Why the boundary of a job must wait for a new plat, as REASON of R353; 0 where it need not (R345). A lost unit forces a draw
only at the first phase of a replay. -/
def Job.forcedNow (j : Job) : Nat :=
  if j.plat.isNone then (if j.forced = 0 then 1 else j.forced)
  else if j.forced = 3 && !(j.phase == 0 && j.attempt != 0) then 0
  else j.forced

/-- The job stops before its next phase, since no plat can hold it (R348): its coordinator hears of it in a DONE with REASON 15
(DESIGN CHOICE). -/
def Mach.noFitStop (m : Mach) (slot : Nat) : Mach :=
  match m.job? slot with
  | none => m
  | some j =>
    if j.noFit then m
    else
      (((m.stopWork slot).modJob slot fun j => { j with noFit := true }).event tyPln 0 5).sendCommit slot j.coordModule 6 0 15

/-- Adopt a plat whose parcels may have to be read from other modules first. -/
def Mach.tryAdopt (m : Mach) (slot : Nat) (j : Job) (p : Plat) (forced : Bool) : Mach × Bool :=
  match m.runRd (.planner slot) (some j.domain) (m.causeOf slot) (moveParcels slot p) with
  | (none, m) => (m, false)
  | (some bad, m) => ((m.onFail bad slot .working).adoptPlat slot p forced, true)

/-- A phase boundary of a job on this module (R344, R345): whether the phase may begin. A plat whose clusters the job may no longer hold
when it would be adopted is dropped, and drawn anew (R356, R361; DEDUCED). -/
def Mach.boundary (m : Mach) (slot : Nat) (j : Job) : Mach × Bool :=
  let m := m.takeWeights
  let why := j.forcedNow
  if why ≠ 0 then
    let m := if j.waitingSince.isSome then m else m.event tyPln 0 1
    let wait (m : Mach) (newest : Option Plat) : Mach × Bool :=
      (m.modJob slot fun j => { j with newest := newest, forced := why, waitingSince := some (j.waitingSince.getD m.now) }, false)
    match j.newest with
    | some p =>
      if p.reason = why && m.platClustersOk j p && m.copiesFree slot p then
        let r := m.tryAdopt slot j p true
        if r.2 then r else wait r.1 j.newest
      else wait m none
    | none => if !m.jobFits j then (m.noFitStop slot, false) else wait m none
  else
    match j.newest with
    | some p =>
      if j.frozen || !m.copiesFree slot p then (m.event tyPln 0 0, true)
      else if !m.platClustersOk j p then ((m.modJob slot fun j => { j with newest := none }).event tyPln 0 0, true)
      else m.tryAdopt slot j p false
    | none => (m.event tyPln 0 0, true)

/-! ## Binding of programs (R187) -/

/-- A core starts a run of a logical core index (R187). -/
def Mach.startCore (m : Mach) (slot : Nat) (j : Job) (b : Bind) : Mach :=
  let rd := m.jobRd j
  let h := m.jobHdr j
  let p := imgProg rd h b.program
  let q := 16 * b.cluster + b.slot
  let args := m.readMem (some j.domain) .working (j.imageAt + p.args + b.index * p.argBytes) p.argBytes
  let m := (((args.2.2.onFail args.2.1 slot .working).zeroMem (storeBase q) (2 ^ 15)).writeMem none .working (storeBase q) args.1).2
  m.modCore q fun c =>
    { s := Tab.ofList 0 [0, BitVec.ofNat 64 b.index, j.step, BitVec.ofNat 64 p.argBytes], ibuf := progWords rd p,
      run := .running, progId := BitVec.ofNat 16 p.id, phase := BitVec.ofNat 16 p.phase, step := j.step, retired := c.retired,
      stalls := c.stalls, waits := c.waits, dmaPc := c.dmaPc, dmaReason := c.dmaReason, since := m.now,
      bind := { slot := slot, ctx := j.ctx, seed := h.seed, k3 := h.sr3, x2 := h.x2, check := h.check,
                index := b.index, run := b.run } }

/-- Bind a phase to cluster k: its engines take the step and the spread list, each core its first run. -/
def Mach.bindCluster (m : Mach) (slot : Nat) (j : Job) (k : Nat) : Mach :=
  let spread := ((j.plat.map (·.spread)).getD []).getD j.phase []
  let m := m.modTrv k fun t => { t with step := j.step }
  let m := m.modGth k fun g => { g with step := j.step }
  let m := m.modSpr k fun e => { e with spread := spread, count := BitVec.ofNat 10 spread.length,
                                        pos := BitVec.ofNat 10 (spread.findIdx (· == k)) }
  let m := if j.phase = 0 then
      let kib := (m.getGth k).prefetchKib
      m.modClu k fun c => { c with prefetchKib := kib }
    else m
  let m := ((m.phaseBinds j k).filter fun b => b.run == 0).foldl (fun m b => m.startCore slot j b) m
  let m := m.trace j.domain 1 j.attempt.toNat j.id (m.station k) j.step.toNat j.phase
  m.modJob slot fun j => { j with bound := j.bound ++ [k], watchdogAt := m.now }

/-- Is phase i a backward gather of a tensor whose copy stands here from the forward gather of the step and is kept (R350)? -/
def Mach.skipsPhase (_ : Mach) (j : Job) (i : Nat) : Bool :=
  ((j.plat.map (·.keeps)).getD []).any fun k => k.kept && k.bwd.contains i && j.kept.contains k.fwd

/-- The first phase from i on that is not skipped. -/
def Mach.nextPhase (m : Mach) (j : Job) : Nat → Nat → Nat
  | 0, i => i
  | fuel + 1, i => if decide (i < (m.jobHdr j).phases) && m.skipsPhase j i then m.nextPhase j fuel (i + 1) else i

/-- The phase of a job has ended on every cluster of this module: the next boundary follows, or the reduce (R188, R308). -/
def Mach.phaseEnd (m : Mach) (slot : Nat) : Mach :=
  match m.job? slot with
  | none => m
  | some j =>
    let ks := ((j.plat.map (·.clusters)).getD []).filter fun k => !(m.phaseBinds j k).isEmpty
    if !j.phaseBegun || !(ks.all fun k => m.clusterEnded j k) then m
    else
      -- a copy that is not kept is freed when the last forward phase that reads it has ended (R350)
      let stays (i : Nat) : Bool :=
        ((j.plat.map (·.keeps)).getD []).any fun k => k.fwd == i && (k.kept || decide (j.phase < k.last))
      let m := m.modJob slot fun j =>
        { j with phase := j.phase + 1, phaseBegun := false, bound := [], kept := (j.kept ++ [j.phase]).filter stays }
      m.tryReduce slot

/-- Do the cores of a job's phase on cluster k take up work (R36)? -/
def Mach.coresTake (m : Mach) (j : Job) (k : Nat) : Bool :=
  (m.phaseBinds j k).all fun b => m.takesWork tyCor (16 * k + b.slot)

/-- May a phase of a job begin, or go on to another cluster: its attempt runs, and its context neither stands nor stops? -/
def Mach.mayPhase (m : Mach) (j : Job) : Bool :=
  let ctx := (m.getCtx j.ctx).state
  let runs := ctx == .running || ctx == .active || ctx == .stopping
  j.state == .running && j.tag.isSome && !m.phasesDone j && runs && !m.ctxHeld j.ctx && !j.part.aborting && !j.noFit

/-- PHASE_START on cluster k: at the first of a phase the boundary comes first (R187, R188, R344). -/
def Mach.phaseStart (m : Mach) (slot k : Nat) : Mach :=
  match m.job? slot with
  | none => m
  | some j =>
    if !m.mayPhase j then m
    else
      let b : Mach × Bool := if j.phaseBegun then (m, true) else m.boundary slot j
      if !b.2 then b.1
      else
        let m := b.1
        match m.job? slot with
        | none => m
        | some j =>
          let i := if j.phaseBegun then j.phase else m.nextPhase j (m.jobHdr j).phases j.phase
          let m := m.modJob slot fun j => { j with phase := i }
          if (m.jobHdr j).phases ≤ i then m.tryReduce slot
          else
            let m := m.modJob slot fun j => { j with phaseBegun := true }
            match m.job? slot with
            | none => m
            | some j =>
              if !((j.plat.map (·.clusters)).getD []).contains k || j.bound.contains k then m.phaseEnd slot
              else if m.coresTake j k then (m.bindCluster slot j k).phaseEnd slot
              else m

/-! ## The end of a phase on a core (R188) -/

/-- The phase's work on core q ends; the core goes on with its next run, or has ended its phase (R188, R347). -/
def Mach.corePhaseEnd (m : Mach) (q : Nat) : Mach :=
  let c := m.getCore q
  let slot := c.bind.slot
  match m.job? slot with
  | none => m
  | some j =>
    if c.run != .halted || c.bind.ended || !c.xfers.isEmpty || !c.held.isEmpty || !m.submissionsDone q j.step || !j.phaseBegun ||
        !j.bound.contains (q / 16) then m
    else
      match (m.phaseBinds j (q / 16)).find? fun b => b.slot == q % 16 && b.run == c.bind.run + 1 with
      | some b => if m.takesWork tyCor q then m.startCore slot j b else m
      | none =>
        let m := m.modCore q fun c => { c with bind := { c.bind with ended := true }, since := m.now }
        let m := if m.clusterEnded j (q / 16) then
            m.trace j.domain 2 j.attempt.toNat j.id (m.station (q / 16)) j.step.toNat j.phase
          else m
        m.phaseEnd slot

/-- CORE_PHASE_END (R188). -/
def execCorePhaseEnd (q : Nat) (s : State) : Host.Outcome State Fault Refusal :=
  .next (s.onMach fun m => m.corePhaseEnd q)

end Sys2Proof.Machine
end

