-- ==== Sys2Proof/Machine/Contexts.lean ====
section
/-!
DEFINITION. Contexts (chapter 16): activation (R421, R422), rings and doorbells (R423, R424), the taking of commands with their form
(R425 to R427), completion records (R430 to R432) and their notifications (R435).
-/
namespace Sys2Proof.Machine

/-! ## Host memory (R418) -/

/-- Does a buffer lie wholly within the host memory of a domain? -/
def Dom.inHost (d : Dom) (a n : Nat) : Bool := decide (a + n ≤ d.hostmemGib.toNat * 2 ^ 30)

/-- Read host memory of domain d; none where a granule fails its second read. -/
def Mach.hostRead (m : Mach) (d a n : Nat) : Option (List Byte) × Mach :=
  let r := m.readMem (some d) .working ((m.getDom d).hostAt + a) n
  (if r.2.1 then none else some r.1, r.2.2)

/-- Write host memory of domain d. -/
def Mach.hostWrite (m : Mach) (d a : Nat) (bs : List Byte) : Mach :=
  (m.writeMem (some d) .working ((m.getDom d).hostAt + a) bs).2

/-! ## Activation (R421, R422) -/

/-- Is n a power of two from 16 to 65,536? -/
def ringSize (n : Nat) : Bool := (List.range 13).any fun i => n == 2 ^ (i + 4)

/-- The descriptor that 256 bytes spell (R421). -/
def CtxDesc.ofBytes (bs : List Byte) : CtxDesc :=
  let n (o k : Nat) : Nat := cmdN bs o k
  { classL := n 2 1 == 1, size := n 3 1, sqBase := n 8 8 % 2 ^ 48, sqEntries := n 16 4, cqEntries := n 20 4,
    cqBase := n 24 8 % 2 ^ 48, dropTally := n 32 8 % 2 ^ 48, notifyCore := fld (n 40 4) 27 5, notifyId := fld (n 40 4) 0 11, coalesceCount := n 44 2,
    coalesceUs := n 46 2 }

/-- Does a descriptor, its rings or its drop tally array leave host memory (R422)? -/
def CtxDesc.outside (c : CtxDesc) (d : Dom) : Bool :=
  !d.inHost c.sqBase (64 * c.sqEntries) || !d.inHost c.cqBase (16 * c.cqEntries) ||
    (c.dropTally != 0 && !d.inHost c.dropTally (4 * 4096))

/-- Is a field out of range or a reserved byte not zero (R421)? -/
def ctxFormatBad (bs : List Byte) : Bool :=
  let n (o k : Nat) : Nat := cmdN bs o k
  let c := CtxDesc.ofBytes bs
  n 0 2 != 1 || decide (1 < n 2 1) || c.size == 0 || decide (4 < c.size) || n 4 4 != 0 || !ringSize c.sqEntries ||
    !ringSize c.cqEntries || c.sqBase % 4096 != 0 || c.cqBase % 4096 != 0 || c.dropTally % 64 != 0 ||
    n 14 2 != 0 || n 30 2 != 0 || n 38 2 != 0 || fld (n 40 4) 11 16 != 0 || c.coalesceCount == 0 || (bs.drop 48).any (· != 0)

/-- Does NOTIFY name a core the domain does not have, or, for a remote host, a core and an identity (R422)? With identity 0 there
is no notification and no core is named. -/
def CtxDesc.notifyBad (c : CtxDesc) (d : Dom) : Bool :=
  c.notifyId != 0 &&
    match d.host with
    | .remote => c.notifyCore != 0
    | _ => !d.cores.getLsbD c.notifyCore

/-- The reason a context is refused for, 0 where it is not (R422). -/
def ctxRefusal (d : Dom) (bs : List Byte) : Nat :=
  let c := CtxDesc.ofBytes bs
  if c.outside d then 1 else if ctxFormatBad bs then 2 else if c.notifyBad d then 3 else 0

/-- A write of 1 to CTX_CONTROL.ACTIVATE (R422). -/
def Mach.ctxActivate (m : Mach) (c : Nat) : Mach :=
  let x := m.getCtx c
  match m.domOfCtx c with
  | none => m
  | some d =>
    if x.state != .inactive && x.state != .refused then m
    else
      let a := x.descAddr.toNat
      let refuse (m : Mach) (why : Nat) : Mach :=
        m.modCtx c fun x => { x with state := .refused, refuse := BitVec.ofNat 8 why, desc := none }
      if !(m.getDom d).inHost a 256 then refuse m 1
      else
        match m.hostRead d a 256 with
        | (none, m) => refuse m 1
        | (some bs, m) =>
          match ctxRefusal (m.getDom d) bs with
          | 0 => m.modCtx c fun x =>
              { x with state := .active, refuse := 0, desc := some (CtxDesc.ofBytes bs), sqTail := 0, sqHead := 0, cqHead := 0,
                       cqTail := 0, taken := [], finished := [], held := [], unnotified := 0, oldestAt := 0 }
          | why => refuse m why

/-- A write of 1 to CTX_CONTROL.DEACTIVATE: only where the context holds no job (R422). -/
def Mach.ctxDeactivate (m : Mach) (c : Nat) : Mach :=
  if (m.getCtx c).job.isSome then m else m.modCtx c fun x => { x with state := .inactive, refuse := 0 }

/-! ## Completion records (R430 to R432) -/

/-- The 16 bytes of record number n (R430, R431). -/
def Record.bytes (r : Record) (n entries : Nat) : List Byte :=
  leBytes 2 r.tag ++ leBytes 1 r.status ++ leBytes 1 r.reason ++ leBytes 4 r.detail ++ leBytes 6 r.value ++
    leBytes 1 r.flags ++ leBytes 1 ((n / max 1 entries + 1) % 2)

/-- Is the completion ring of a context full (R432)? -/
def Ctx.cqFull (x : Ctx) : Bool :=
  match x.desc with
  | some d => (x.cqTail - x.cqHead).toNat == d.cqEntries
  | none => true

/-- Raise the notification of a context (R435, R436). -/
def Mach.ctxNotify (m : Mach) (c : Nat) : Mach :=
  match (m.getCtx c).desc, m.domOfCtx c with
  | some x, some d => (m.modCtx c fun y => { y with unnotified := 0 }).notify d x.notifyCore x.notifyId c
  | _, _ => m

/-- Write one record into the completion ring, count it, and notify where that is due (R431, R435, R444). -/
def Mach.writeRecord (m : Mach) (c : Nat) (r : Record) : Mach :=
  let x := m.getCtx c
  match x.desc, m.domOfCtx c with
  | some e, some d =>
    let n := x.cqTail.toNat
    let m := m.hostWrite d (e.cqBase + 16 * (n % e.cqEntries)) (r.bytes n e.cqEntries)
    -- a remote host also gets the record in a COMPLETE datagram (R438)
    let m := m.sendGram d 8 c 0 (r.bytes n e.cqEntries)
    let m := m.modCtx c fun x =>
      { x with cqTail := x.cqTail + 1, completions := x.completions + 1, unnotified := x.unnotified + 1,
               oldestAt := if x.unnotified = 0 then m.now else x.oldestAt }
    let m := if 1 ≤ r.status ∧ r.status ≤ 6 then m.event tyCtx c 0 else m
    let m := if r.opcode = 2 ∧ r.status = 14 then m.event tyCtx c 4 else m
    let m := if bitAt r.flags 0 then m.event tyCtx c 2 else m
    let m := if (r.opcode = 7 ∨ r.opcode = 13) ∧ r.status = 0 then m.event tyCtx c 6 else m
    if r.notify || decide (e.coalesceCount ≤ (m.getCtx c).unnotified) then m.ctxNotify c else m
  | _, _ => m

/-- The decided record of command n is written, or held in order while the ring is full (R431, R432). -/
def Mach.commandComplete (m : Mach) (c n : Nat) : Mach :=
  let x := m.getCtx c
  match x.finished.find? fun f => f.1 == n with
  | none => m
  | some f =>
    let m := m.modCtx c fun x => { x with finished := x.finished.filter fun g => g.1 != n }
    if x.cqFull || !x.held.isEmpty then (m.modCtx c fun x => { x with held := x.held ++ [f.2] }).event tyCtx c 3
    else m.writeRecord c f.2

/-- COMMAND_COMPLETE (R431). -/
def execCommandComplete (c n : Nat) (s : State) : Host.Outcome State Fault Refusal :=
  .next (s.onMach fun m => m.commandComplete c n)

/-- Held records are written while the ring has room (R432). -/
def Mach.releaseHeldRecords (c : Nat) : Nat → Mach → Mach
  | 0, m => m
  | fuel + 1, m =>
    let x := m.getCtx c
    match x.held with
    | [] => m
    | r :: rest =>
      if x.cqFull then m else Mach.releaseHeldRecords c fuel ((m.modCtx c fun x => { x with held := rest }).writeRecord c r)

/-- COALESCE_US have passed since the oldest record that no notification has followed (R435). -/
def Mach.coalesceTimeout (m : Mach) (c : Nat) : Mach :=
  let x := m.getCtx c
  match x.desc with
  | none => m
  | some d => if x.unnotified ≠ 0 ∧ x.oldestAt + 1000 * d.coalesceUs ≤ m.now then m.ctxNotify c else m

/-- COALESCE_TIMEOUT (R435). -/
def execCoalesceTimeout (c : Nat) (s : State) : Host.Outcome State Fault Refusal :=
  .next (s.onMach fun m => m.coalesceTimeout c)

/-! ## Doorbells (R424) -/

/-- Is a new ring index accepted, given the index that must not fall further behind than the ring is long (R424)? -/
def indexOk (new old behind : BitVec 32) (entries : Nat) : Bool :=
  decide ((new - behind).toNat ≤ entries) && decide ((new - old).toNat < 2 ^ 31)

/-- A write of t to CTX_SQ_TAIL. -/
def Mach.writeSqTail (m : Mach) (c : Nat) (t : BitVec 32) : Mach :=
  let x := m.getCtx c
  if indexOk t x.sqTail x.sqHead ((x.desc.map (·.sqEntries)).getD 0) then m.modCtx c fun x => { x with sqTail := t }
  else m.event tyCtx c 1

/-- A write of h to CTX_CQ_HEAD: the records before h are consumed, and held ones follow. -/
def Mach.writeCqHead (m : Mach) (c : Nat) (h : BitVec 32) : Mach :=
  let x := m.getCtx c
  let entries := (x.desc.map (·.cqEntries)).getD 0
  -- the head may pass no record that is not written
  if decide ((x.cqTail - h).toNat ≤ entries) && decide ((h - x.cqHead).toNat < 2 ^ 31) then
    Mach.releaseHeldRecords c x.held.length (m.modCtx c fun x => { x with cqHead := h })
  else m.event tyCtx c 1

/-! ## The form of commands (R427, R428) -/

/-- Are the bytes of a command from an offset on zero? -/
def zeroFrom (bs : List Byte) (o : Nat) : Bool := (bs.drop o).all (· == 0)

/-- Are the arguments of an opcode in range and its unused bytes zero? False for a reserved opcode. -/
def argsOk (bs : List Byte) : Bool :=
  let n (o k : Nat) : Nat := cmdN bs o k
  match n 0 1 with
  | 0x01 | 0x06 | 0x0C | 0x0D => zeroFrom bs 0x20
  | 0x02 => n 0x1A 6 == 0 && zeroFrom bs 0x28 && decide (1 ≤ n 0x18 2) && decide (n 0x18 2 ≤ 2048)
  | 0x03 | 0x08 | 0x0A | 0x0B => zeroFrom bs 0x10
  | 0x04 => decide (n 0x10 2 < 4096) && decide (n 0x12 1 ≤ 1) && n 0x13 1 == 0 && zeroFrom bs 0x16
  | 0x05 => decide (n 0x10 2 < 4096) && decide (n 0x12 1 ≤ 1) && n 0x13 1 == 0 && decide (1 ≤ n 0x14 4) &&
      decide (n 0x14 4 ≤ 65536) && zeroFrom bs 0x20
  | 0x07 => n 0x2A 6 == 0 && zeroFrom bs 0x3A && decide (1 ≤ n 0x28 2) && decide (n 0x28 2 ≤ 2048) && decide (1 ≤ n 0x38 2) &&
      decide (n 0x38 2 ≤ 2048)
  | 0x09 => n 0x12 2 == 0 && zeroFrom bs 0x1A
  | _ => false

/-- Is an opcode step-bound? -/
def stepBound (op : Nat) : Bool := op == 4 || op == 5 || op == 6

/-- Does a command pass its form check (FORMAT of R429)? -/
def commandOk (bs : List Byte) : Bool :=
  let n (o k : Nat) : Nat := cmdN bs o k
  let op := n 0 1
  argsOk bs && decide (n 1 1 < 4) && n 6 2 == 0 && (stepBound op || n 8 8 == 0) &&
    (n 4 2 == 0 || (op != 9 && op != 12 && op != 13))

/-! ## Taking a command (R425, R426, R432) -/

/-- May context c take its next command? -/
def Mach.mayTake (m : Mach) (c : Nat) (after : Bool) : Bool :=
  let x := m.getCtx c
  let h := m.getHdr (hdrKey tyCtx c)
  x.state != .inactive && x.state != .refused && !h.quiesce && h.enable && x.sqHead != x.sqTail && x.taken.all (·.accepted) &&
    (!after || (x.taken.isEmpty && x.finished.isEmpty)) &&
    decide ((x.sqHead - x.cqHead).toNat < (x.desc.map (·.cqEntries)).getD 0 + 64)

/-- A context takes its next command; one of a wrong form is refused at once. -/
def Mach.commandTake (m : Mach) (c : Nat) : Mach :=
  let x := m.getCtx c
  match x.desc, m.domOfCtx c with
  | some e, some d =>
    let n := x.sqHead.toNat
    let a := e.sqBase + 64 * (n % e.sqEntries)
    if !m.mayTake c (bitAt ((m.peekNat ((m.getDom d).hostAt + a + 1) 1)) 0) then m
    else
      let r := m.hostRead d a 64
      let bs := r.1.getD (m.peek ((m.getDom d).hostAt + a) 64)
      let t : TakenCmd := { n := n, tag := cmdN bs 2 2, opcode := cmdN bs 0 1, notify := bitAt (cmdN bs 1 1) 1, bytes := bs }
      let m := r.2.modCtx c fun x => { x with sqHead := x.sqHead + 1, commands := x.commands + 1, taken := x.taken ++ [t] }
      if r.1.isNone then m.finishCmd c n 2 else if commandOk bs then m else m.finishCmd c n 1
  | _, _ => m

/-- COMMAND_TAKE (R426). -/
def execCommandTake (c : Nat) (s : State) : Host.Outcome State Fault Refusal := .next (s.onMach fun m => m.commandTake c)

/-- The effect of command n of context c where the context has taken it, it is of this opcode, and it has not been accepted
yet: `g` gets the domain and the command's bytes. -/
def Mach.onCommand (m : Mach) (c n op : Nat) (g : Mach → Nat → List Byte → Mach) : Mach :=
  match m.taken? c n, m.domOfCtx c with
  | some t, some d => if t.opcode = op && !t.accepted then g m d t.bytes else m
  | _, _ => m

end Sys2Proof.Machine
end

