-- ==== Sys2Proof/Machine/HostJobs.lean ====
section
/-!
DEFINITION. The commands of hosts about jobs (R427 to R429): LOAD_IMAGE, RUN, STOP, TABLE_SELECT, STAKE, TEARDOWN, FREEZE, UNFREEZE,
EASEMENT with its coming into force (R356, R357), and the end of a job with its context (R508). A refused command completes with the
first status that applies, in the order of R429.
-/
namespace Sys2Proof.Machine

/-! ## The job a command names -/

/-- The slot of a job that some context of domain d holds on this module. -/
def Mach.domJob (m : Mach) (d id : Nat) : Option Nat :=
  match m.slotOfJob id with
  | some slot => if m.domOfSlot slot = some d then some slot else none
  | none => none

/-- The effect of a command on the job it names; UNKNOWN_JOB where the domain holds no such job. -/
def Mach.withJob (m : Mach) (c n d : Nat) (bs : List Byte) (g : Mach → Nat → Job → Mach) : Mach :=
  match m.domJob d (cmdN bs 4 2) with
  | none => m.finishCmd c n 3
  | some slot => match m.job? slot with
    | none => m.finishCmd c n 3
    | some j => g m slot j

/-- Does a halted job refuse a command, or an inconsistent one (R320, R326)? -/
def Job.refuses (j : Job) : Bool := j.state == .halted || j.inconsistent

/-! ## The end of a job (R428, R508) -/

/-- The engines of every cluster forget a job: its traverse work, its prefetched rows and hints (R134, R160). -/
def Mach.forgetJob (m : Mach) (slot : Nat) : Mach :=
  let trv (_ : Nat) (t : Trv) : Trv :=
    { t with queue := t.queue.filter (·.org.slot != slot), work := t.work.filter (·.desc.org.slot != slot) }
  let gth (_ : Nat) (g : Gth) : Gth :=
    { g with inHints := g.inHints.filter (·.slot != slot), hints := g.hints.filter (·.slot != slot),
             area := g.area.filter (·.slot != slot) }
  { m with trv := Tab.mapVals {} trv m.trv, gth := Tab.mapVals {} gth m.gth }

/-- Reads that a job has outstanding on this module. -/
def Owner.ofJob (slot : Nat) (ks : List Nat) : Owner → Bool
  | .trv k _ => ks.contains k
  | .trvStart k => ks.contains k
  | .planner s => s == slot
  | .cmt s => s == slot
  | .upd _ => false
  | o => o.ofAttempt ks

/-- What a slot's page 1 goes on to hold when its job ends: its RW and RWS registers keep what was written (R38, R336). -/
def Job.leaves (j : Job) : FreeSlot :=
  { logLive := j.logLive, logStaged := j.logStaged, reduceBase := j.reduceBase, reduceCount := j.reduceCount }

/-- A job ends on this module: its slot, homes and clusters are freed, and commands that still wait for it end as LATE. -/
def Mach.tearDown (m : Mach) (slot : Nat) : Mach :=
  match m.job? slot with
  | none => m
  | some j =>
    let ks := m.jobClusters j
    let m := (m.stopWork slot).dropLanes slot
    let waits := j.carried.map (fun x => (x.ctx, x.n)) ++ j.monuments.map (fun x => (x.ctx, x.n)) ++ j.stops ++ j.run.toList ++
      j.restore.toList
    let m := waits.foldl (fun m x => m.finishCmd x.1 x.2 7) m
    let m := ks.foldl (fun m k => m.dropCluster k) (m.forgetJob slot)
    let m := (List.range 2).foldl (fun m d => m.modUpd d fun u =>
      { u with rootQueue := u.rootQueue.filter (·.slot != slot),
               rootRunning := u.rootRunning.filter fun r => r.slot != slot }) m
    let m := { m with fetches := m.fetches.filter fun f => !f.owner.ofJob slot ks }
    let m := m.modCtx j.ctx fun x =>
      { x with state := if x.state = .inactive then .inactive else .active, job := none, jobId := 0, clusters := 0, regions := [], guards := [],
               gens := [] }
    let m := if j.updates then m.setDies slot 0 else m
    let m := { m with cmt := { m.cmt with free := Tab.put {} m.cmt.free slot j.leaves } }
    m.setJob slot none

/-- TEARDOWN: not while the job runs or is being restored. -/
def Mach.teardown (m : Mach) (c n : Nat) : Mach :=
  m.onCommand c n 8 fun m d bs => m.withJob c n d bs fun m slot j =>
    if j.run.isSome || j.restore.isSome then m.finishCmd c n 4 else (m.tearDown slot).finishCmd c n 0

/-- TEARDOWN (R428). -/
def execTeardown (c n : Nat) (s : State) : Host.Outcome State Fault Refusal := .next (s.onMach fun m => m.teardown c n)

/-- The context that stands for one that no longer is: commands of a context that was reset have no record. -/
abbrev noCtx : Nat := 16384

/-- Commands of context c that jobs and easements wait with lose their records (R508). -/
def Mach.dropWaits (m : Mach) (c : Nat) : Mach :=
  let off (x : Nat × Nat) : Nat × Nat := if x.1 = c then (noCtx, x.2) else x
  let job (j : Job) : Job :=
    { j with run := j.run.map off, stops := j.stops.map off, restore := j.restore.map off,
             carried := j.carried.map fun x => if x.ctx = c then { x with ctx := noCtx } else x,
             monuments := j.monuments.map fun x => if x.ctx = c then { x with ctx := noCtx } else x }
  let m := { m with cmt := { m.cmt with jobs := Tab.mapVals none (fun _ (x : Option Job) => x.map job) m.cmt.jobs } }
  (List.range 16).foldl (fun m d => m.modPlnDom d fun e =>
    { e with pending := e.pending.map fun p => if p.2.2.2.1 = c then (p.1, p.2.1, p.2.2.1, noCtx, p.2.2.2.2) else p }) m

/-- A write of 1 to CTX_CONTROL.RESET (R508). -/
def Mach.ctxReset (m : Mach) (c : Nat) : Mach :=
  let x := m.getCtx c
  let m := (m.dropWaits c).modCtx c fun x => { x with taken := [], finished := [], held := [], state := .inactive }
  let m := match x.job with
    | some slot => m.tearDown slot
    | none => m
  let m := m.modCtx c fun x => { descAddr := x.descAddr }
  m.modHdr (hdrKey tyCtx c) fun h => { h with tallies := [] }

/-! ## LOAD_IMAGE (R339, R343) -/

/-- May the module's copy of an image of n bytes stand at a place: in memory that is there, and clear of host memories and of other
images? -/
def Mach.imagePlace (m : Mach) (place n : Nat) : Bool :=
  m.populated place n &&
    (List.range 16).all (fun d => let x := m.getDom d; !spansMeet x.hostAt (x.hostmemGib.toNat * 2 ^ 30) place n) &&
    m.cmt.jobs.all fun e => match e.2 with
      | some j => !spansMeet j.imageAt j.imageLen place n
      | none => true

/-- The lowest free job slot of the commit unit. -/
def Mach.freeSlot (m : Mach) : Option Nat := (List.range 64).find? fun s => (m.job? s).isNone

/-- What refuses the image of a LOAD_IMAGE or a RESTORE: status, reason, DETAIL; or the image's bytes (R343, R429). With it, the module
that has read the image. -/
def Mach.checkImage (m : Mach) (c d id a len : Nat) : ((Nat × Nat × Nat) ⊕ List Byte) × Mach :=
  let x := m.getDom d
  if id = 0 then (.inl (1, 0, 0), m)
  else if !x.inHost a len then (.inl (2, 0, 0), m)
  else if (m.getCtx c).job.isSome then (.inl (3, 0, 0), m)
  else if (m.slotOfJob id).isSome then (.inl (4, 0, 0), m)
  else if m.freeSlot.isNone then (.inl (5, 0, 0), m)
  else
    match m.hostRead d a len with
    | (none, m) => (.inl (2, 0, 0), m)
    | (some bs, m) =>
      let rd := rdList bs
      let curve (a n : Nat) : Option (List Byte) := if x.inHost a n then (m.hostRead d a n).1 else none
      if (ImgHdr.ofRd rd).classL != ((m.getCtx c).desc.map (·.classL)).getD false then (.inl (19, 0, 0), m)
      else
        match imageCheck rd len curve with
        | some e => (.inl (6, e.1, e.2), m)
        | none => (.inr bs, m)

/-- Bind a job to a context: the module's copy of its image, its slot, and the lasting state that a new job has (R286, R339). The
slot's undo-log size is as it was last written (R336). This is where the context starts for R92: its generators count as not seeded from
here on, and each is seeded at its first draw; no RUN, replay or plat seeds them again (DESIGN CHOICE). -/
def Mach.bindJob (m : Mach) (c d id place : Nat) (bs : List Byte) : Mach :=
  match m.freeSlot with
  | none => m
  | some slot =>
    let rd := rdList bs
    let h := ImgHdr.ofRd rd
    let free := Tab.get {} m.cmt.free slot
    let groups : Tab GroupSt := (List.range h.groups).foldl (fun (t : Tab GroupSt) g =>
      Tab.put {} t g { position := (GroupDesc.ofRd rd (h.groupTable + 64 * g)).position }) []
    let j : Job := { id := id, ctx := c, domain := d, imageAt := place, imageLen := bs.length, digest := sha512 bs,
                     reduceBase := BitVec.ofNat 48 (place + h.reduceTable), reduceCount := BitVec.ofNat 17 h.reduces,
                     step := h.firstStep, watchdogUs := h.watchdogUs, groups := groups, logLive := free.logLive,
                     logStaged := free.logStaged }
    let m := (m.writeMem (some d) .working place bs).2.setJob slot (some j)
    (m.modCtx c fun x => { x with job := some slot, jobId := BitVec.ofNat 16 id, gens := [] }).setGuards slot

/-- LOAD_IMAGE; `place` is where the planner puts the module's copy. -/
def Mach.loadImage (m : Mach) (c n place : Nat) : Mach :=
  m.onCommand c n 1 fun m d bs =>
    let id := cmdN bs 4 2
    let len := cmdN bs 0x18 8
    match m.checkImage c d id (cmdN bs 0x10 8) len with
    | (.inl e, m) => m.finishCmd c n e.1 e.2.1 e.2.2
    | (.inr img, m) => if m.imagePlace place len then (m.bindJob c d id place img).finishCmd c n 0 else m

/-- LOAD_IMAGE (R343). -/
def execLoadImage (c n place : Nat) (s : State) : Host.Outcome State Fault Refusal :=
  .next (s.onMach fun m => m.loadImage c n place)

/-! ## RUN and STOP (R428) -/

/-- Is a list of participants ascending, of numbers of modules, and with this one in it? -/
def Mach.listOk (m : Mach) (ps : List Nat) : Bool :=
  ps.contains m.self && ps.all (fun p => decide (p < 2048)) && (ps.zip (ps.drop 1)).all fun x => decide (x.1 < x.2)

/-- The participants that a command lists in host memory; none where the list cannot be read. -/
def Mach.readList (m : Mach) (d a k : Nat) : Option (List Nat) × Mach :=
  if !(m.getDom d).inHost a (2 * k) then (none, m)
  else
    match m.hostRead d a (2 * k) with
    | (none, m) => (none, m)
    | (some bs, m) => (some (splitLe 2 k bs), m)

/-- RUN: an accepted one is told to the coordinator, which starts the job once every participant holds one. -/
def Mach.runCmd (m : Mach) (c n : Nat) : Mach :=
  m.onCommand c n 2 fun m d bs =>
    match m.readList d (cmdN bs 0x10 8) (cmdN bs 0x18 2) with
    | (none, m) => m.finishCmd c n 2
    | (some ps, m) =>
      if !m.listOk ps then m.finishCmd c n 1
      else m.withJob c n d bs fun m slot j =>
        let steps := cmdN bs 0x20 8
        if !j.participants.isEmpty && j.participants != ps then m.finishCmd c n 1
        else if j.run.isSome || j.restore.isSome then m.finishCmd c n 4
        else if !m.jobFits { j with participants := ps } then (m.event tyPln 0 5).finishCmd c n 11
        else if j.refuses then m.finishCmd c n 14 j.halt.toNat
        else
          let m := m.modJob slot fun j =>
            { j with run := some (c, n), participants := ps, stepsLeft := if steps = 0 then none else some steps, forced := 1,
                     started := false, runGranted := false, noFit := false }
          (m.acceptCmd c n).sendCommit slot (ps.headD m.self) 6 0 0 2

/-- RUN (R428). -/
def execRun (c n : Nat) (s : State) : Host.Outcome State Fault Refusal := .next (s.onMach fun m => m.runCmd c n)

/-- STOP: the job stops at its next step boundary, and at once where it does not run. -/
def Mach.stopCmd (m : Mach) (c n : Nat) : Mach :=
  m.onCommand c n 3 fun m d bs => m.withJob c n d bs fun m slot j =>
    if j.refuses then m.finishCmd c n 14 j.halt.toNat
    else if j.run.isNone then m.finishCmd c n 0
    else
      let m := (m.acceptCmd c n).modJob slot fun j => { j with stops := j.stops ++ [(c, n)], stopAsked := true }
      if j.started then m else m.sendCommit slot j.coordModule 6 1 0 2

/-- STOP (R428). -/
def execStop (c n : Nat) (s : State) : Host.Outcome State Fault Refusal := .next (s.onMach fun m => m.stopCmd c n)

/-! ## Step-bound commands (R142, R143, R156, R315) -/

/-- Has the module sent a ready VOTE for any attempt of step s (R315)? -/
def Job.lateFor (j : Job) (s : Nat) : Bool := decide (s < j.step.toNat) || (s == j.step.toNat && j.part.readyEver)

/-- Accept a step-bound command: it travels with the votes of its step. -/
def Mach.carryCmd (m : Mach) (c n slot : Nat) (bs : List Byte) : Mach :=
  (m.acceptCmd c n).modJob slot fun j => { j with carried := j.carried ++ [{ bytes := bs, ctx := c, n := n }] }

/-- TABLE_SELECT. -/
def Mach.tableSelect (m : Mach) (c n : Nat) : Mach :=
  m.onCommand c n 4 fun m d bs => m.withJob c n d bs fun m slot j =>
    if j.lateFor (cmdN bs 8 8) then m.finishCmd c n 7
    else if j.refuses then m.finishCmd c n 14 j.halt.toNat
    else m.carryCmd c n slot bs

/-- TABLE_SELECT (R142). -/
def execTableSelect (c n : Nat) (s : State) : Host.Outcome State Fault Refusal := .next (s.onMach fun m => m.tableSelect c n)

/-- The rows that a STAKE lists. -/
def Mach.stakeList (m : Mach) (d : Nat) (bs : List Byte) : List Nat :=
  words8 (m.peek ((m.getDom d).hostAt + cmdN bs 0x18 8) (8 * cmdN bs 0x14 4))

/-- The staked rows after a STAKE: rows of its table added or removed. -/
def stakeSet (old : List (Nat × Nat)) (bs : List Byte) (rows : List Nat) : List (Nat × Nat) :=
  let mine := rows.eraseDups.map fun x => (cmdN bs 0x10 2, x)
  if cmdN bs 0x12 1 = 0 then old ++ mine.filter fun x => !old.contains x else old.filter fun x => !mine.contains x

/-- The WIDTH and ROWS of tables, where their selected descriptors are sound. -/
def tableSizes (j : Job) (slots : Nat) (ts : List Nat) : Rd (List (Nat × Nat × Nat)) :=
  ts.filterMapM fun t => do
    let r ← readTable j slots j.ctx t
    return r.desc.map fun d => (t, d.width, d.rows)

/-- Do replicas of rows fit the area that the planner gives them (R156)? Rows out of range take none. -/
def replicasFit (sizes : List (Nat × Nat × Nat)) (rows : List (Nat × Nat)) (area : Nat) : Bool :=
  decide (rows.foldl (fun (n : Nat) x => match sizes.find? fun s => s.1 == x.1 with
    | some s => if x.2 < s.2.2 then n + copyBytes 0 s.2.1 else n
    | none => n) 0 ≤ area)

/-- STAKE: with the rows that earlier commands stake, the added ones must fit. -/
def Mach.stake (m : Mach) (c n : Nat) : Mach :=
  m.onCommand c n 5 fun m d bs =>
    if !(m.getDom d).inHost (cmdN bs 0x18 8) (8 * cmdN bs 0x14 4) then m.finishCmd c n 2
    else match m.hostRead d (cmdN bs 0x18 8) (8 * cmdN bs 0x14 4) with
    | (none, m) => m.finishCmd c n 2
    | (some _, m) => m.withJob c n d bs fun m slot j =>
      if j.lateFor (cmdN bs 8 8) then m.finishCmd c n 7
      else
        let old := j.replicas.map fun r => (r.table, r.row)
        let before := (j.carried.filter fun x => cmdN x.bytes 0 1 == 5).foldl (fun l x => stakeSet l x.bytes (m.stakeList d x.bytes)) old
        let after := stakeSet before bs (m.stakeList d bs)
        let area := ((j.replicaArea m.self).map (·.2)).getD 0
        match m.runRd (.planner (64 + c)) (some d) (m.causeOf slot) (tableSizes j (m.tableSlots j) (after.map (·.1)).eraseDups) with
        | (none, m) => m
        | (some sizes, m) =>
          if j.plat.isSome && decide (before.length < after.length) && !replicasFit sizes after area then m.finishCmd c n 10
          else if j.refuses then m.finishCmd c n 14 j.halt.toNat
          else m.carryCmd c n slot bs

/-- STAKE (R156). -/
def execStake (c n : Nat) (s : State) : Host.Outcome State Fault Refusal := .next (s.onMach fun m => m.stake c n)

/-! ## FREEZE and UNFREEZE (R359) -/

/-- Set or end the freeze of the job that a command names. -/
def Mach.setFrozen (m : Mach) (c n op : Nat) (on : Bool) : Mach :=
  m.onCommand c n op fun m d bs => m.withJob c n d bs fun m slot j =>
    if j.inconsistent then m.finishCmd c n 14 j.halt.toNat
    else (m.modJob slot fun j => { j with frozen := on }).finishCmd c n 0

/-- FREEZE (R359). -/
def execFreeze (c n : Nat) (s : State) : Host.Outcome State Fault Refusal := .next (s.onMach fun m => m.setFrozen c n 0x0A true)
/-- UNFREEZE (R359). -/
def execUnfreeze (c n : Nat) (s : State) : Host.Outcome State Fault Refusal := .next (s.onMach fun m => m.setFrozen c n 0x0B false)

/-! ## EASEMENT (R356, R357) -/

/-- What an easement reserves of clusters, counted where it is in force or pending. -/
def PlnDom.reserved (e : PlnDom) : Nat × Nat :=
  match e.pending with
  | some p => (p.1, p.2.1)
  | none => (e.eased.toNat, e.easeNt.toNat)

/-- MiB of near tier present on the module. -/
def Mach.nearMib (m : Mach) : Nat := 24 * ((List.range 512).filter m.bankPresent).length

/-- Has the module the near tier that easements reserve, the pending one of domain d with them, beside what other domains hold
(R356, R357)? -/
def Mach.nearReclaimed (m : Mach) (d : Nat) : Bool :=
  let others := ((List.range 16).filter (· != d)).foldl (fun (n : Nat) x => n + max (m.nearShare x) ((m.getPlnDom x).reserved.2 * 2 ^ 20)) 0
  decide ((m.getPlnDom d).reserved.2 * 2 ^ 20 + others ≤ m.nearMib * 2 ^ 20)

/-- Is everything that easements reserve, the pending one of domain d with them, free of other domains' jobs (R357)? -/
def Mach.reclaimed (m : Mach) (d : Nat) : Bool :=
  let free := (m.usableClusters.filter fun k => !(m.getClu k).assigned).length
  let want := (List.range 16).foldl (fun (n : Nat) x => n + ((m.getPlnDom x).reserved.1 - m.assignedTo x none)) 0
  decide (want ≤ free) && m.nearReclaimed d

/-- Does an easement of domain d reclaim clusters or near tier that a job of another domain uses beyond its own domain's easement? Where
a job needs every cluster it holds, their reclaim waits until it ends (R357). -/
def Mach.reclaimsFrom (m : Mach) (d : Nat) (j : Job) : Bool :=
  let e := m.getPlnDom j.domain
  let clusters := decide (e.reserved.1 < m.assignedTo j.domain none) && decide (m.clustersNeeded j < (m.jobClusters j).length)
  let near := !m.nearReclaimed d && decide (e.reserved.2 * 2 ^ 20 < m.nearShare j.domain)
  j.domain != d && j.plat.isSome && (clusters || near)

/-- Jobs from which an easement reclaims must adopt a new plat (R345, R357). A job whose boundary already waits for a new plat waits for
that one, which leaves the reclaimed resources out as well. -/
def Mach.reclaim (m : Mach) (d : Nat) : Mach :=
  let hit (_ : Nat) (x : Option Job) : Option Job := x.map fun j =>
    if m.reclaimsFrom d j && (j.forced == 0 || j.forced == 3) then { j with forced := 4 } else j
  { m with cmt := { m.cmt with jobs := Tab.mapVals none hit m.cmt.jobs } }

/-- The management flash records the easement of a domain, for the next option loading (R358). -/
def Mach.saveEase (m : Mach) (d : Nat) (e : Nat × Nat × Nat) : Mach :=
  { m with mgt := { m.mgt with eases := Tab.put none m.mgt.eases d (some e) } }

/-- A domain's easement is released at once, whatever it held; a pending one never comes in force, and the command that waits for it
completes with the release (R357; DESIGN CHOICE: no rule says with which status, and the model takes 0). -/
def Mach.releaseEase (m : Mach) (d : Nat) : Mach :=
  let m := match (m.getPlnDom d).pending with
    | some p => m.finishCmd p.2.2.2.1 p.2.2.2.2 0
    | none => m
  (m.modPlnDom d fun e => { e with eased := 0, easeNt := 0, easeLink := 0, easeState := 0, weight := 0, pending := none }).saveEase d (0, 0, 0)

/-- EASEMENT: refused, released at once, or pending until what it reserves has been reclaimed. A second grant of the domain waits for
the first; a release does not. -/
def Mach.easement (m : Mach) (c n : Nat) : Mach :=
  m.onCommand c n 9 fun m d bs =>
    let k := cmdN bs 0x10 2
    let nt := cmdN bs 0x14 4
    let w := cmdN bs 0x18 2
    let x := m.getDom d
    let all := ((List.range 16).filter (· != d)).foldl (fun (a : Nat × Nat) e =>
      let r := (m.getPlnDom e).reserved
      (a.1 + r.1, a.2 + r.2)) (k, nt)
    if k = 0 ∧ nt = 0 ∧ w = 0 then (m.releaseEase d).finishCmd c n 0
    else if (m.getPlnDom d).pending.isSome then m
    else if x.quotaClusters.toNat < k ∨ x.quotaNt.toNat < nt then m.finishCmd c n 12
    else if ((List.range 640).filter m.clusterPresent).length < all.1 ∨ m.nearMib < all.2 then m.finishCmd c n 13
    else
      let m := (m.acceptCmd c n).modPlnDom d fun e => { e with pending := some (k, nt, w, c, n), easeState := 1 }
      if m.reclaimed d then m else (m.event tyPln 0 6).reclaim d

/-- EASEMENT (R357). -/
def execEasement (c n : Nat) (s : State) : Host.Outcome State Fault Refusal := .next (s.onMach fun m => m.easement c n)

/-- A pending easement comes in force once every resource it reserves has been reclaimed. -/
def Mach.easementInForce (m : Mach) (d : Nat) : Mach :=
  match (m.getPlnDom d).pending with
  | none => m
  | some (k, nt, w, c, n) =>
    if m.reclaimed d then
      ((m.modPlnDom d fun e =>
        { e with eased := BitVec.ofNat 10 k, easeNt := BitVec.ofNat 32 nt, easeLink := BitVec.ofNat 16 w, easeState := 2,
                 pending := none }).saveEase d (k, nt, w)).finishCmd c n 0
    else m

/-- EASEMENT_IN_FORCE (R357). -/
def execEasementInForce (d : Nat) (s : State) : Host.Outcome State Fault Refusal :=
  .next (s.onMach fun m => m.easementInForce d)

end Sys2Proof.Machine
end

