-- ==== Sys2Proof/Machine/Monument.lean ====
section
/-!
DEFINITION. Monuments: their parts and sections (R330), the capture that a MONUMENT orders (R329), and the restore of a job's lasting
state (R331). What the sections hold byte by byte R330 leaves open: a DESIGN CHOICE (assumption log).
-/
namespace Sys2Proof.Machine

/-! ## Sections (R330) -/

/-- A section behind its 32-byte header. -/
def Sect.bytes (x : Sect) : List Byte :=
  leBytes 2 x.kind ++ leBytes 2 0 ++ leBytes 4 x.id ++ leBytes 8 x.first ++ leBytes 8 x.count ++ leBytes 8 x.body.length ++ x.body

/-- The next n sections that bytes hold. -/
def sectsOf : Nat → List Byte → List Sect
  | 0, _ => []
  | n + 1, bs =>
    let k := cmdN bs 24 8
    { kind := cmdN bs 0 2, id := cmdN bs 4 4, first := cmdN bs 8 8, count := cmdN bs 16 8, body := (bs.drop 32).take k } ::
      sectsOf n (bs.drop (32 + k))

/-- A monument part (R330). -/
def partBytes (job part parts step : Nat) (digest : List Byte) (ss : List Sect) : List Byte :=
  let body := ss.flatMap Sect.bytes
  leBytes 2 1 ++ leBytes 2 job ++ leBytes 2 part ++ leBytes 2 parts ++ leBytes 8 step ++ leBytes 8 (128 + body.length) ++
    leBytes 4 ss.length ++ leBytes 4 0 ++ digest ++ leBytes 32 0 ++ body

/-! ## The capture (R329, R330) -/

/-- A capture: whether a read has failed. -/
abbrev Cap (α : Type) := StateT Bool Rd α

/-- Read committed data of this module. -/
def capRead (a n : Nat) : Cap (List Byte) := do
  let r ← (do let m ← rdMach; rdBytes m.self a n .committed : Rd (List Byte × Bool))
  if r.2 then set true
  return r.1

/-- A table row as a part holds it: master, state1, state2, and its directory word without place and residency; bits [2:0] hold 4
plus the target class of a width migration that is due at the next commit. -/
def capRow (j : Job) (p : Placed) (k : Nat) : Cap (List Byte) := do
  let mb ← capRead (p.addrs.headD 0 + p.pitch * k) (4 * p.width)
  let s1 ← capRead (p.addrs.getD 1 0 + 2 * p.pitch * k) (4 * p.width)
  let s2 ← capRead (p.addrs.getD 1 0 + 2 * p.pitch * k + p.pitch) (4 * p.width)
  let db ← capRead (p.addrs.getD 2 0 + 8 * k) 8
  let e := DirEntry.ofNat (leNat db)
  let due := match j.migrations.find? fun g => !g.flipped && g.table == p.table && g.row == p.first + k with
    | some g => 4 + g.target % 4
    | none => 0
  return mb ++ s1 ++ s2 ++ leBytes 8 (DirEntry.toNat { e with resident := false, near := due })

/-- A table descriptor without the places it names. -/
def descLogical (bs : List Byte) : List Byte :=
  bs.take 0x10 ++ leBytes 12 0 ++ (bs.drop 0x1C).take 4 ++ leBytes 11 0 ++ bs.drop 0x2B

/-- A table's descriptors, its select entry, and its sketch where that lies on this module. -/
def capTable (j : Job) (slots t : Nat) : Cap Sect := do
  let m ← (rdMach : Rd Mach)
  let slot (k : Nat) : Cap (List Byte) := do
    match m.xlate j.ctx .read (slotAddr slots t k) 64 with
    | none =>
      set true
      return leBytes 64 0
    | some p =>
      let r ← (rdBytes p.1 p.2 64 .committed : Rd (List Byte × Bool))
      if r.2 then set true
      return r.1
  let a ← slot 0
  let b ← slot 1
  let d := TableDesc.ofBytes (if j.selected t = 0 then a else b)
  let sk ← (if d.sketchStation / 8192 = m.self then capRead d.sketch (16 * 2 ^ d.sketchLog) else pure [] : Cap (List Byte))
  return { kind := 3, id := t, count := 2, body := descLogical a ++ descLogical b ++ leBytes 8 (j.selected t) ++ sk }

/-- A preconditioner: S, both root slots, select bit, step of adoption, residual, and a snapshot that awaits adoption. -/
def capPrecond (j : Job) (n : Nat) (p : Placed) : Cap Sect := do
  let x := Tab.get {} j.preconds p.id
  let s ← capRead (p.addrs.headD 0) (8 * n * n)
  let r0 ← capRead (p.addrs.getD 1 0) (8 * n * n)
  let r1 ← capRead (p.addrs.getD 2 0) (8 * n * n)
  let snap := match x.snapshot with
    | none => leBytes 8 0
    | some (s, a) => leBytes 8 1 ++ leBytes 8 s.toNat ++ a.flatMap fun w => leBytes 8 w.toNat
  return { kind := 6, id := p.id, count := n, body := s ++ r0 ++ r1 ++ leBytes 8 (b2n x.select) ++ leBytes 8 x.adopted.toNat ++
    leBytes 8 x.residual.toNat ++ snap }

/-- The sections of this module's part. -/
def capAll (j : Job) (slots groups : Nat) (cols : Nat → Nat) (prec : Nat → Nat) : Cap (List Sect) := do
  let dense ← (j.placed.filter fun p => p.kind == 0).mapM fun p => do
    let n := 4 * cols p.id * p.count
    let a ← capRead (p.addrs.headD 0) n
    let b ← capRead (p.addrs.getD 1 0) n
    let c ← capRead (p.addrs.getD 2 0) n
    return ({ kind := 1, id := p.id, first := p.first, count := p.count, body := a ++ b ++ c } : Sect)
  let shards := j.placed.filter fun p => p.kind == 3
  let rows ← shards.mapM fun p => do
    let bs ← (List.range p.count).mapM fun k => capRow j p k
    return ({ kind := 2, id := p.table, first := p.first, count := p.count, body := bs.flatten } : Sect)
  let tables ← (shards.map (·.table)).eraseDups.mapM fun t => capTable j slots t
  let home (r : Replica) : Bool :=
    shards.any fun p => p.table == r.table && decide (p.first ≤ r.row) && decide (r.row < p.first + p.count)
  let reps ← (j.replicas.filter home).mapM fun r => do
    let bs ← capRead r.addr r.bytes
    return ({ kind := 4, id := r.table, first := r.row, count := 1, body := bs } : Sect)
  let pos := (List.range groups).map fun g =>
    let x := Tab.get {} j.groups g
    ({ kind := 5, id := g, count := 1, body := leBytes 8 x.position.toNat ++ leBytes 8 x.amax.toNat } : Sect)
  let pre ← (j.placed.filter fun p => p.kind == 2).mapM fun p => capPrecond j (prec p.id) p
  let red ← capRead j.reduceBase.toNat (32 * j.reduceCount.toNat)
  return dense ++ rows ++ tables ++ reps ++ pos ++ pre ++
    [{ kind := 7, count := j.reduceCount.toNat, body := red },
     { kind := 8, id := tyCmt, count := 1, body := leBytes 4 j.logLive.toNat ++ leBytes 4 j.logStaged.toNat }]

/-- Has the apply of a step begun on this module (R316): COMMIT has come with all its carried commands? -/
def Job.applyBegun (j : Job) (s : Nat) : Bool :=
  decide (s < j.step.toNat) || s == j.step.toNat && match j.part.commit with
    | some n => !j.part.applied && decide (n ≤ j.part.carriedIn.length)
    | none => false

/-- MONUMENT: refused once the apply of step s has begun on this module, and for a halted job; else ordered for the step (R329). -/
def Mach.monument (m : Mach) (c n : Nat) : Mach :=
  m.onCommand c n 6 fun m d bs =>
    let dest := cmdN bs 0x10 8
    let room := cmdN bs 0x18 8
    if !(m.getDom d).inHost dest room then m.finishCmd c n 2
    else m.withJob c n d bs fun m slot j =>
      if j.applyBegun (cmdN bs 8 8) then m.finishCmd c n 7
      else if j.refuses then m.finishCmd c n 14 j.halt.toNat
      else
        (m.acceptCmd c n).modJob slot fun j =>
          { j with monuments := j.monuments ++ [{ step := BitVec.ofNat 64 (cmdN bs 8 8), ctx := c, n := n, dest := dest, bytes := room }] }

/-- MONUMENT (R329). -/
def execMonument (c n : Nat) (s : State) : Host.Outcome State Fault Refusal := .next (s.onMach fun m => m.monument c n)

/-- Write the part that one order asks for, or nothing where it has no room (R330, R429). -/
def Mach.writePart (m : Mach) (slot : Nat) (j : Job) (o : MonOrder) (bs : List Byte) : Mach :=
  if o.bytes < bs.length then m.finishCmd o.ctx o.n 10
  else
    let m := m.hostWrite j.domain o.dest bs
    let m := { m with cmt := { m.cmt with monuments := m.cmt.monuments + 1 } }.event tyCmt 0 5
    (m.modJob slot fun j => { j with monumentStep := j.step }).finishCmd o.ctx o.n 0 0 0 j.step.toNat

/-- MONUMENT_WRITTEN: the part of this module is written once the coordinator has every participant's DONE for the step (R329); a
failed read halts the job (R325). -/
def Mach.monumentWritten (m : Mach) (slot : Nat) : Mach :=
  match m.job? slot with
  | none => m
  | some j =>
    let due := j.monuments.filter fun o => o.step + 1 == j.step
    if j.state != .capturing || due.isEmpty || j.part.monumentDone || !j.part.doneSent || !j.part.captureGo then m
    else
      let x : Rd (List Sect × Bool) :=
        (capAll j (m.tableSlots j) (m.jobHdr j).groups (fun g => (m.groupDesc j g).cols) fun i => (m.precondDesc j i).n).run false
      match m.runRd (.cmt slot) (some j.domain) (m.causeOf slot) x with
      | (none, m) => m
      | (some (ss, bad), m) =>
        let s := (j.step - 1).toNat
        if bad then
          (m.modJob slot fun j => { j with part := { j.part with monumentDone := true } }).sendCommit slot j.coordModule 6 0 (16 + 5) 0
            0 0 (some s)
        else
          let bs := partBytes j.id (j.participants.findIdx (· == m.self)) j.participants.length j.step.toNat j.digest ss
          let m := due.foldl (fun m o => m.writePart slot j o bs) m
          (m.modJob slot fun j =>
            { j with state := .applying, monuments := j.monuments.filter fun o => o.step + 1 != j.step,
                     part := { j.part with monumentDone := true } }).sendCommit slot j.coordModule 6 0 0 3 0 0 (some s)

/-- MONUMENT_WRITTEN (R330). -/
def execMonumentWritten (slot : Nat) (s : State) : Host.Outcome State Fault Refusal :=
  .next (s.onMach fun m => m.monumentWritten slot)

/-! ## RESTORE: its checks (R331, R429) -/

/-- The entries of a list of parts: station and offset (R428). -/
def partList (bs : List Byte) : List (Nat × Nat) :=
  (List.range (bs.length / 16)).map fun i => (cmdN bs (16 * i) 4 % 2 ^ 24, cmdN bs (16 * i + 8) 8)

/-- Read one part wherever it lies; none where it fails its detection codes. -/
def readPart (p : Nat × Nat) : Rd (Option (List Byte)) := do
  let h ← rdBytes (p.1 / 8192) p.2 128 .committed
  let n := cmdN h.1 16 8
  if h.2 then return none
  else if cmdN h.1 0 2 != 1 || decide (n < 128) then return some h.1
  else
    let r ← rdBytes (p.1 / 8192) p.2 n .committed
    return if r.2 then none else some r.1

/-- Read every part. -/
def readParts (ps : List (Nat × Nat)) : Rd (List (Option (List Byte))) := ps.mapM readPart

/-- The status that the parts of a monument are refused with, 0 where they are sound: DIGEST_MISMATCH, PART_MISSING, IMAGE_CORRUPT. -/
def partsStatus (digest : List Byte) (ps : List (Option (List Byte))) : Nat :=
  let good := ps.filterMap id
  let bad := ps.length - good.length
  let step := cmdN (good.headD []) 8 8
  let sound := good.filter fun b => cmdN b 0 2 == 1 && cmdN b 6 2 == ps.length && cmdN b 8 8 == step
  let numbers := ((sound.map fun b => cmdN b 4 2).filter fun n => decide (n < ps.length)).eraseDups
  if good.any fun b => (b.drop 0x20).take 64 != digest then 16
  else if numbers.length + bad < ps.length then 17
  else if bad ≠ 0 then 18
  else 0

/-- The buffers that a RESTORE names: the list of parts and the list of participants. -/
def Mach.restoreLists (m : Mach) (d : Nat) (bs : List Byte) : Option (List (Nat × Nat) × List Nat) × Mach :=
  let n := 16 * cmdN bs 0x28 2
  if !(m.getDom d).inHost (cmdN bs 0x20 8) n then (none, m)
  else
    match m.hostRead d (cmdN bs 0x20 8) n with
    | (none, m) => (none, m)
    | (some ps, m) =>
      match m.readList d (cmdN bs 0x30 8) (cmdN bs 0x38 2) with
      | (none, m) => (none, m)
      | (some mods, m) => (some (partList ps, mods), m)

/-- Sections of a kind that every part holds are taken once. -/
def partSects (ps : List (List Byte)) : List Sect :=
  let all := ps.flatMap fun b => sectsOf (cmdN b 0x18 4) (b.drop 128)
  all.foldl (fun l x => if (x.kind == 4 || x.kind == 6) && l.any (fun y => y.kind == x.kind && y.id == x.id && y.first == x.first) then l
                        else l ++ [x]) []

/-- Does each part named on this module lie in the domain's own memory there? -/
def Mach.partsHeld (m : Mach) (d : Nat) (ps : List (Nat × Nat)) : Bool :=
  ps.all fun p => p.1 / 8192 != m.self || ((m.getDom d).holds [] p.2 128 && m.populated p.2 128)

/-- Can the slow tier of the participants hold the homes of a monument's job: what its parts hold of dense shares, table rows and
preconditioners (R360)? -/
def Mach.homesFit (m : Mach) (j : Job) (ps : List (List Byte)) : Bool :=
  let homes := ((partSects ps).filter fun x => x.kind == 1 || x.kind == 2 || x.kind == 6).foldl (fun (n : Nat) x => n + x.body.length) 0
  let own := (m.getDom j.domain).shares.foldl (fun (n : Nat) s => match tierOf s.1 with
    | .slow _ _ => n + s.2
    | _ => n) 0
  decide (homes ≤ own + (if 1 < j.participants.length then Config.homesElsewhere j.id j.step else 0))

/-- RESTORE: the checks of R429 and R331; an accepted one binds the job, which waits to be restored. `place` is where the planner puts
the copy of the image. -/
def Mach.restore (m : Mach) (c n place : Nat) : Mach :=
  m.onCommand c n 7 fun m d bs =>
    match m.restoreLists d bs with
    | (none, m) => m.finishCmd c n 2
    | (some (ps, mods), m) =>
      let id := cmdN bs 4 2
      let len := cmdN bs 0x18 8
      if !m.listOk mods then m.finishCmd c n 1
      else if !m.partsHeld d ps then m.finishCmd c n 2
      else
        match m.checkImage c d id (cmdN bs 0x10 8) len with
        | (.inl e, m) => m.finishCmd c n e.1 e.2.1 e.2.2
        | (.inr img, m) =>
          if !m.imagePlace place len then m
          else
            match m.runRd (.planner (64 + c)) (some d) { domain := d } (readParts ps) with
            | (none, m) => m
            | (some parts, m) =>
              let slot := (m.freeSlot).getD 0
              let step := cmdN ((parts.headD none).getD []) 8 8
              let b := (m.bindJob c d id place img).modJob slot fun j =>
                { j with participants := mods, state := .restoring, restore := some (c, n), forced := 2, step := BitVec.ofNat 64 step }
              let fit := match b.job? slot with
                | some j => b.jobFits j && b.homesFit j (parts.filterMap fun x => x)
                | none => false
              if !fit then (m.event tyPln 0 5).finishCmd c n 11
              else match partsStatus (sha512 img) parts with
                | 0 => b.acceptCmd c n
                | e => m.finishCmd c n e

/-- RESTORE (R331). -/
def execRestore (c n place : Nat) (s : State) : Host.Outcome State Fault Refusal :=
  .next (s.onMach fun m => m.restore c n place)

/-! ## RESTORE_BEGIN: the lasting state is written (R331) -/

/-- Is a packet of a job anywhere on this module? -/
def Mach.inFlight (m : Mach) (id : Nat) : Bool :=
  m.arrived.any (fun a => a.pkt.job == id) || m.rte.any (fun e => e.2.held.any fun h => h.pkt.job == id) ||
    m.lnk.any fun e => e.2.queue.any (fun p => p.job == id) || (e.2.replay.filterMap TxFrame.packet?).any fun p => p.job == id

/-- k bytes at offset o of a section. -/
def Sect.at' (x : Sect) (o k : Nat) : List Byte := (x.body.drop o).take k

/-- Rows that a section and a placed range share. -/
def Sect.rowsIn (x : Sect) (p : Placed) : List Nat :=
  let lo := max x.first p.first
  (List.range (min (x.first + x.count) (p.first + p.count) - lo)).map (lo + ·)

/-- Write committed data of a job. -/
def Mach.putLasting (m : Mach) (d a : Nat) (bs : List Byte) : Mach := (m.writeMem (some d) .committed a bs).2

/-- A dense share. -/
def Mach.restoreDense (m : Mach) (j : Job) (x : Sect) : Mach :=
  (j.placed.filter fun p => p.kind == 0 && p.id == x.id).foldl (fun m p =>
    let w := 4 * (m.groupDesc j p.id).cols
    (x.rowsIn p).foldl (fun m r => (List.range 3).foldl (fun m i =>
      m.putLasting j.domain (p.addrs.getD i 0 + w * (r - p.first)) (x.at' (w * (i * x.count + (r - x.first))) w)) m) m) m

/-- Table rows: no row is resident until the planner makes it so. -/
def Mach.restoreRows (m : Mach) (slot : Nat) (j : Job) (x : Sect) : Mach :=
  (j.placed.filter fun p => p.kind == 3 && p.table == x.id).foldl (fun m p =>
    let w := 4 * p.width
    (x.rowsIn p).foldl (fun m r =>
      let o := (3 * w + 8) * (r - x.first)
      let k := r - p.first
      let st := p.addrs.getD 1 0 + 2 * p.pitch * k
      let m := m.putLasting j.domain (p.addrs.headD 0 + p.pitch * k) (x.at' o w)
      let m := m.putLasting j.domain st (x.at' (o + w) w)
      let m := m.putLasting j.domain (st + p.pitch) (x.at' (o + 2 * w) w)
      let e := DirEntry.ofNat (leNat (x.at' (o + 3 * w) 8))
      let m := m.putLasting j.domain (p.addrs.getD 2 0 + 8 * k) (leBytes 8 (DirEntry.toNat { e with near := 0 }))
      if e.near < 4 then m
      else m.modJob slot fun j => { j with migrations := j.migrations ++ [{ table := p.table, row := r, target := e.near % 4 }] }) m) m

/-- A table: the descriptors keep the places that the new plat gave them; then the select entry and the sketch. -/
def Mach.restoreTable (m : Mach) (slot : Nat) (j : Job) (x : Sect) : Mach :=
  let one (m : Mach) (k : Nat) : Mach :=
    match m.xlate j.ctx .read (slotAddr (m.tableSlots j) x.id k) 64 with
    | none => m
    | some p =>
      if p.1 ≠ m.self then m
      else
        let r := m.readMem (some j.domain) .committed p.2 64
        let old := r.1
        let m := r.2.2.onFail r.2.1 slot .committed
        let new := x.at' (64 * k) 64
        m.putLasting j.domain p.2
          (new.take 0x10 ++ (old.drop 0x10).take 12 ++ (new.drop 0x1C).take 4 ++ (old.drop 0x20).take 11 ++ new.drop 0x2B)
  let m := one (one m 0) 1
  let sel := leNat (x.at' 128 8)
  let m := m.modJob slot fun j => { j with selects := Tab.put 0 j.selects x.id sel }
  match m.xlate j.ctx .read (slotAddr (m.tableSlots j) x.id sel) 64 with
  | none => m
  | some p =>
    let r := m.readMem (some j.domain) .committed p.2 64
    let d := TableDesc.ofBytes r.1
    let m := r.2.2.onFail (p.1 = m.self && r.2.1) slot .committed
    if p.1 = m.self && d.sketchStation / 8192 = m.self && decide (136 < x.body.length) then
      m.putLasting j.domain d.sketch (x.body.drop 136)
    else m

/-- A staked replica takes a place in this module's replica area. -/
def Mach.restoreReplica (m : Mach) (slot : Nat) (j : Job) (x : Sect) : Mach :=
  match j.replicaArea m.self, m.job? slot with
  | some a, some now =>
    let at' := a.1 + freePlace (now.replicas.map fun r => (r.addr - a.1, r.bytes)) x.body.length
    (m.putLasting j.domain at' x.body).modJob slot fun j =>
      { j with replicas := j.replicas ++ [{ table := x.id, row := x.first, addr := at', bytes := x.body.length }] }
  | _, _ => m

/-- A preconditioner placed on this module: its values, its tiles, and a root computation that was pending (R297). -/
def Mach.restorePrecond (m : Mach) (slot : Nat) (j : Job) (x : Sect) : Mach :=
  (j.placed.filter fun p => p.kind == 2 && p.id == x.id).foldl (fun m p =>
    let k := 8 * x.count * x.count
    let a (i : Nat) : Nat := p.addrs.getD i 0
    let root (m : Mach) (i : Nat) : Mach :=
      let bs := x.at' (k * (i + 1)) k
      (m.putLasting j.domain (a (1 + i)) bs).putLasting j.domain (a (3 + i)) (rootTiles x.count (words8 bs))
    let m := root (root (m.putLasting j.domain (a 0) (x.at' 0 k)) 0) 1
    let n (o : Nat) : Nat := leNat (x.at' (3 * k + o) 8)
    let snap := if n 24 = 0 then none
      else some (BitVec.ofNat 64 (n 32), (words8 (x.at' (3 * k + 40) k)).map (BitVec.ofNat 64))
    let st : PrecondSt := { select := n 0 == 1, adopted := BitVec.ofNat 64 (n 8), residual := BitVec.ofNat 64 (n 16), snapshot := snap }
    let m := m.modJob slot fun j => { j with preconds := Tab.put {} j.preconds p.id st }
    match snap, dieOf (a 0) with
    | some (s, _), some die => m.modUpd die fun u => { u with rootQueue := u.rootQueue ++ [{ slot := slot, precond := p.id, step := s }] }
    | _, _ => m) m

/-- One section. -/
def Mach.restoreSect (m : Mach) (slot : Nat) (j : Job) (x : Sect) : Mach :=
  match x.kind with
  | 1 => m.restoreDense j x
  | 2 => m.restoreRows slot j x
  | 3 => m.restoreTable slot j x
  | 4 => m.restoreReplica slot j x
  | 5 => m.modJob slot fun j =>
      { j with groups := Tab.upd {} j.groups x.id fun g =>
                 { g with position := BitVec.ofNat 64 (leNat (x.at' 0 8)), amax := BitVec.ofNat 15 (leNat (x.at' 8 8)) } }
  | 6 => m.restorePrecond slot j x
  | 7 => m.putLasting j.domain j.reduceBase.toNat (x.body.take (32 * j.reduceCount.toNat))
  | 8 => m.modJob slot fun j =>
      let live := BitVec.ofNat 13 (leNat (x.at' 0 4))
      { j with logLive := live, logStaged := BitVec.ofNat 13 (leNat (x.at' 4 4)), logPlaced := live }
  | _ => m

/-- The restore's end: the job is stopped at STEP, its freeze ended, its free-running generators reseeded (R94, R359). -/
def Mach.restoreDone (m : Mach) (slot : Nat) (j : Job) (c n : Nat) : Mach :=
  let m := (m.modJob slot fun j => { j with state := .idle, restore := none, frozen := false, attempt := 0, forced := 0 }).mapRoots slot
  let m := (m.modCtx j.ctx fun x => { x with gens := [] }).event tyCmt 0 6
  m.finishCmd c n 0 0 0 j.step.toNat 1

/-- Write the lasting state of the parts, and the working tiles of the dense shares. -/
def Mach.restoreWrite (m : Mach) (slot : Nat) (j : Job) (c n : Nat) (parts : List (Option (List Byte))) : Mach :=
  if parts.any (·.isNone) then (m.finishCmd c n 18).tearDown slot
  else
    let m := (partSects (parts.filterMap id)).foldl (fun m x => m.restoreSect slot j x) m
    match m.job? slot with
    | none => m
    | some j =>
      let tiles : Ap Unit := (j.placed.filter fun p => p.kind == 0).forM fun p => do
        if bitAt ((← apMach).groupDesc j p.id).flags 0 then refreshDense slot j p
      let r := m.runRd (.planner slot) (some j.domain) (m.causeOf slot) (do let r ← tiles.run {}; return r.2 : Rd ApSt)
      r.2.restoreDone slot j c n

/-- Do the units that serve a job's context hold no work of it (R331): its cores are idle, its clusters' engines empty? -/
def Mach.ctxQuiet (m : Mach) (slot : Nat) (j : Job) : Bool :=
  let st := (m.getCtx j.ctx).state
  st != .running && st != .stopping && (m.jobClusters j).all fun k =>
    ((List.range 16).all fun i => (m.getCore (16 * k + i)).run == .idle) &&
      !((m.getTrv k).queue.any (·.org.slot == slot)) && !((m.getTrv k).work.any (·.desc.org.slot == slot)) &&
      !((m.getGth k).queue.any (·.org.slot == slot)) && !((m.getGth k).work.any (·.desc.org.slot == slot)) &&
      !((m.getSpr k).queue.any (·.slot == slot)) && !((m.getSpr k).work.any (·.desc.slot == slot)) &&
      (m.getSpr k).routed.isEmpty

/-- RESTORE_BEGIN: with the job's context quiesced and no packet of the job in flight, the plat drawn for the restore is adopted and the lasting state written. -/
def Mach.restoreBegin (m : Mach) (slot : Nat) : Mach :=
  match m.job? slot with
  | none => m
  | some j =>
    match j.restore with
    | none => m
    | some (c, n) =>
      if m.inFlight j.id || !m.ctxQuiet slot j then m
      else
        let b : Mach × Bool := match j.plat, j.newest with
          | some _, _ => (m, true)
          | none, some p => m.tryAdopt slot j p true
          | none, none =>
            if m.jobFits j then
              (m.modJob slot fun j => { j with waitingSince := some (j.waitingSince.getD m.now) }, false)
            else (((m.event tyPln 0 5).finishCmd c n 11).tearDown slot, false)
        if !b.2 then b.1
        else
          let m := b.1
          match m.job? slot with
          | none => m
          | some j =>
            let bs := ((m.taken? c n).map (·.bytes)).getD []
            match m.restoreLists j.domain bs with
            | (none, m) => (m.finishCmd c n 2).tearDown slot
            | (some (ps, _), m) =>
              match m.runRd (.planner (64 + c)) (some j.domain) { domain := j.domain } (readParts ps) with
              | (none, m) => m
              | (some parts, m) => m.restoreWrite slot j c n parts

/-- RESTORE_BEGIN (R331). -/
def execRestoreBegin (slot : Nat) (s : State) : Host.Outcome State Fault Refusal :=
  .next (s.onMach fun m => m.restoreBegin slot)

end Sys2Proof.Machine
end

