-- ==== Sys2Proof/Machine/CtxImage.lean ====
section
/-!
DEFINITION. Context images: SAVE_CONTEXT and the stop it asks for (R440), the image (R441), RESUME_CONTEXT with the binding of what
the image holds to the clusters of the plat (R442) and the free-running generators (R93, R94).
-/
namespace Sys2Proof.Machine

/-! ## What an image holds (R441) -/

/-- A loop stack as four entries of iteration index, count and body start, outermost level first. -/
def loopBytes (ls : List LoopLvl) : List Byte :=
  let bs := ls.reverse.flatMap fun l => leBytes 8 l.idx.toNat ++ leBytes 8 l.count.toNat ++ leBytes 8 l.start
  bs ++ leBytes (96 - bs.length) 0

/-- The state of a core as its section holds it. Bit 63 of the pc says that this logical core has ended its phase (DESIGN CHOICE). -/
def coreImage (c : CoreSt) (store : List Byte) (ended : Bool) : List Byte :=
  ((List.range 32).flatMap fun i => leBytes 8 (c.sreg i).toNat) ++ ((List.range 8).flatMap fun i => leBytes 1 (b2n (c.pred i))) ++
    loopBytes c.loops ++ leBytes 8 (c.pc.toNat + b2n ended * 2 ^ 63) ++ leBytes 8 (c.carry.toNat + b2n c.carryOpen * 2 ^ 32) ++
    leBytes 8 c.amax.toNat ++ leBytes 8 (c.waitTarget.toNat + c.waitCounter.toNat * 2 ^ 32) ++ store ++
    ((List.range 8).flatMap fun r => leBytes 8 (c.tile r).hdr.toNat ++ (c.tile r).slotNats.flatMap (leBytes 4)) ++
    ((List.range 32).flatMap fun i => leBytes 256 (Tab.get 0 c.v i).toNat) ++
    ((List.range 8).flatMap fun i => leBytes 8 (Tab.get 0 c.m i).toNat)

/-- The bytes of a core's section before its local store. -/
abbrev coreHead : Nat := 392

/-- A queued batch descriptor (R108); a reserved bit stands for those that made it wrong. -/
def BatchDesc.bytes (d : BatchDesc) : List Byte :=
  leBytes 8 d.graph ++ leBytes 8 d.batch.toNat ++ leBytes 8 d.step.toNat ++ leBytes 8 d.seeds ++
    leBytes 8 (d.pages * 2 ^ 48 + d.block) ++ leBytes 8 d.queryTime ++ leBytes 8 d.window ++ leBytes 4 d.stream.toNat ++
    leBytes 4 (b2n d.bad * 2 ^ 28 + d.closure * 2 ^ 20 + d.hops * 2 ^ 17 + d.seedCount) ++
    (let hs := d.specs.flatMap fun h => leBytes 2 h.fanout ++ leBytes 1 h.mode ++ leBytes 1 h.edgeData ++ leBytes 2 h.restartP ++
        leBytes 2 h.walkLen ++ leBytes 2 h.returnW ++ leBytes 2 h.inoutW ++ leBytes 2 h.topk ++ leBytes 2 h.reserved
     hs ++ leBytes (64 - hs.length) 0)

/-- A queued lookup or scatter descriptor (R145, R165). -/
def GthDesc.bytes (d : GthDesc) : List Byte :=
  leBytes 2 d.tableId ++ (if d.scatter then leBytes 1 d.kind ++ leBytes 1 d.pool else leBytes 1 d.pool ++ leBytes 1 d.byte3) ++
    leBytes 4 d.shape ++ leBytes 8 d.step.toNat ++ leBytes 8 d.indices ++ leBytes 8 d.bagOffsets ++ leBytes 8 d.weights ++
    leBytes 8 d.data ++ leBytes 8 d.argmax ++ leBytes 1 d.closure ++
    (if d.scatter then leBytes 7 d.reserved else leBytes 1 (wrapN 8 d.outScale) ++ leBytes 6 d.reserved)

/-- A queued segment descriptor (R235); the reserved byte stands for the bits that made it wrong. -/
def SegDesc.bytes (d : SegDesc) : List Byte :=
  leBytes 1 d.kind ++ leBytes 1 d.flags ++ leBytes 2 d.width ++ leBytes 1 d.closure ++ leBytes 1 d.format ++
    leBytes 1 (wrapN 8 d.outScale) ++ leBytes 1 (b2n d.bad) ++ leBytes 8 d.rowFirst ++ leBytes 4 d.rows ++ leBytes 4 d.reduce ++
    leBytes 8 d.offsets ++ leBytes 8 d.columns ++ leBytes 8 d.edgeValues ++ leBytes 8 d.data ++ leBytes 8 d.sums

/-- Who submitted a queued descriptor, in 8 bytes before it: slot of the core, and bit 8 for a scatter (DESIGN CHOICE: R441 names no
place for either). -/
def queuedBy (core : Nat) (scatter : Bool) : List Byte := leBytes 8 (core % 16 + b2n scatter * 256)

/-- Numbers of the free-running generators of a cluster (R83, R92). -/
def clusterGens (k : Nat) : List Nat :=
  (List.range 16).flatMap fun i => (List.range 64).map (laneGen (16 * k + i)) ++ (List.range 16).map (rowGen (16 * k + i))

/-- Does a job mark a stream free-running (R342)? -/
def Mach.hasFree (m : Mach) (j : Job) : Bool :=
  let rd := m.jobRd j
  let h := m.jobHdr j
  (List.range h.streams).any fun i => rd (h.streamTable + 8 * i + 4) 1 == 1

/-- The clusters of a job in the order of their logical numbers. -/
def Job.logical (j : Job) : List Nat := ((j.plat.map (·.clusters)).getD []).mergeSort (· ≤ ·)

/-- Sections of the logical cores on core q: the runs before the one it has, which have ended, and that one. -/
def Mach.coreSects (m : Mach) (j : Job) (slot q : Nat) (classL : Bool) : List Sect :=
  let c := m.getCore q
  if c.bind.slot ≠ slot || c.ibuf.isEmpty || c.run == .idle then []
  else
    let rd := m.jobRd j
    let h := m.jobHdr j
    let id (b : Bind) : Nat := (imgProg rd h b.program).id
    let before := (m.phaseBinds j (q / 16)).filter fun b => b.slot == q % 16 && decide (b.run < c.bind.run)
    let gone := before.map fun b =>
      ({ kind := 1, id := id b, first := b.index, count := 1, body := coreImage {} (leBytes 32768 0) true } : Sect)
    let here : Sect := { kind := 1, id := c.progId.toNat, first := c.bind.index, count := 1,
                         body := coreImage c (m.delivers (storeBase q) 32768) c.bind.ended }
    let acc : List Sect := if classL then
        [{ kind := 2, id := c.progId.toNat, first := c.bind.index, count := 2, body := c.accImage 0 ++ c.accImage 1 }]
      else []
    gone ++ [here] ++ acc

/-- Sections of a logical cluster: counters and SRAM, and what stands unstarted in its engines' queues. -/
def Mach.clusterSects (m : Mach) (slot i k : Nat) : List Sect :=
  let c := m.getClu k
  let q (kind n : Nat) (bs : List Byte) : List Sect := if n = 0 then [] else [{ kind := 4, id := kind, first := i, count := n, body := bs }]
  let t := (m.getTrv k).queue.filter (·.org.slot == slot)
  let g := (m.getGth k).queue.filter (·.org.slot == slot)
  let e := (m.getSpr k).queue.filter (·.slot == slot)
  [{ kind := 3, first := i, count := 1,
     body := ((Tab.toListN 0 c.counters 256).flatMap fun x => leBytes 4 x.toNat) ++ m.delivers (sramBase k) (2 ^ 20) }] ++
    q 1 t.length (t.flatMap fun d => queuedBy d.org.core false ++ d.bytes) ++
    q 2 g.length (g.flatMap fun d => queuedBy d.org.core d.scatter ++ d.bytes) ++
    q 3 e.length (e.flatMap fun d => queuedBy d.core false ++ d.bytes)

/-- The generators of a context by global number (R93). -/
def Mach.genSect (m : Mach) (j : Job) (c : Nat) : List Sect :=
  if !m.hasFree j then []
  else
    let gs := j.logical.flatMap clusterGens
    let st (g : Nat) : BitVec 64 :=
      let x := Tab.get 0 (m.getCtx c).gens g
      if x = 0 then freeSeed (m.jobHdr j).seed (BitVec.ofNat 64 c) g else x
    [{ kind := 5, first := gs.headD 0, count := gs.length, body := gs.flatMap fun g => leBytes 8 g ++ leBytes 8 (st g).toNat }]

/-- Check the detection codes of the SRAM and the local stores that an image reads (R379). -/
def Mach.imageCodes (m : Mach) (slot : Nat) (j : Job) : Mach :=
  j.logical.foldl (fun m k =>
    let r := m.codeCheck .working (sramBase k) (2 ^ 20)
    let r' := r.1.codeCheck .working (storeBase (16 * k)) (16 * 2 ^ 15)
    r'.1.onFail (r.2 || r'.2) slot .working) m

/-- The image of a context (R441). -/
def Mach.contextImage (m : Mach) (slot : Nat) (j : Job) (c : Nat) : List Byte :=
  let classL := ((m.getCtx c).desc.map (·.classL)).getD false
  let ks := j.logical
  let cores := ks.flatMap fun k => (List.range 16).flatMap fun i => m.coreSects j slot (16 * k + i) classL
  let ss := cores ++ ((List.range ks.length).zip ks).flatMap (fun x => m.clusterSects slot x.1 x.2) ++ m.genSect j c
  let body := ss.flatMap Sect.bytes
  leBytes 2 1 ++ leBytes 1 0 ++ leBytes 1 (b2n classL) ++ leBytes 1 64 ++ leBytes 1 j.attempt.toNat ++ leBytes 2 j.id ++
    leBytes 8 j.step.toNat ++ leBytes 8 (128 + body.length) ++ leBytes 4 ss.length ++ leBytes 4 (cores.countP fun x => x.kind == 1) ++
    j.digest ++ leBytes 32 0 ++ body

/-! ## SAVE_CONTEXT (R440) -/

/-- SAVE_CONTEXT: the context begins to stop. -/
def Mach.saveContext (m : Mach) (c n : Nat) : Mach :=
  m.onCommand c n 0x0C fun m d bs =>
    let x := m.getCtx c
    if !(m.getDom d).inHost (cmdN bs 0x10 8) (cmdN bs 0x18 8) then m.finishCmd c n 2
    else
      match x.job.bind m.job? with
      | none => m.finishCmd c n 3
      | some j =>
        if j.refuses then m.finishCmd c n 14 j.halt.toNat
        else if x.save.isSome then m
        else (m.acceptCmd c n).modCtx c fun x => { x with state := .stopping, save := some (n, cmdN bs 0x10 8, cmdN bs 0x18 8) }

/-- SAVE_CONTEXT (R440). -/
def execSaveContext (c n : Nat) (s : State) : Host.Outcome State Fault Refusal :=
  .next (s.onMach fun m => m.saveContext c n)

/-- Has everything that the job started on its clusters completed: transfers, held signals, routed multiplies, descriptors in
progress? -/
def Mach.startedDone (m : Mach) (slot : Nat) (j : Job) : Bool :=
  (m.jobClusters j).all fun k =>
    ((List.range 16).all fun i => let c := m.getCore (16 * k + i); c.xfers.isEmpty && c.held.isEmpty) &&
      (m.getTrv k).work.all (·.desc.org.slot != slot) && (m.getGth k).work.all (·.desc.org.slot != slot) &&
      (m.getSpr k).work.all (·.desc.slot != slot) && (m.getSpr k).routed.isEmpty && (m.getSpr k).fwd.all (·.desc.slot != slot)

/-- CONTEXT_STOPPED: at its stop point and with everything started complete, the context's image is written and it is STOPPED; an
image with too little room writes nothing, and the context runs on. -/
def Mach.contextStopped (m : Mach) (c : Nat) : Mach :=
  let x := m.getCtx c
  match x.save, x.job, m.domOfCtx c with
  | some (n, dest, room), some slot, some d =>
    match m.job? slot with
    | none => m
    | some j =>
      if x.state != .stopping || !m.ctxHeld c || !m.startedDone slot j then m
      else
        let img := m.contextImage slot j c
        if room < img.length then
          (m.modCtx c fun x => { x with save := none, state := if j.run.isSome then .running else .active }).finishCmd c n 10
        else
          (((m.imageCodes slot j).hostWrite d dest img).modCtx c fun x => { x with save := none, state := .stopped }).finishCmd c n 0
  | _, _, _ => m

/-- CONTEXT_STOPPED (R440). -/
def execContextStopped (c : Nat) (s : State) : Host.Outcome State Fault Refusal :=
  .next (s.onMach fun m => m.contextStopped c)

/-! ## RESUME_CONTEXT (R442) -/

/-- The core that a section spells, over one that the phase has just been bound to. With 32 lanes, lanes 0 to 31 are filled. -/
def coreOfImage (bs : List Byte) (lanes : Nat) (base : CoreSt) : CoreSt :=
  let n (o k : Nat) : Nat := leNat ((bs.drop o).take k)
  let tiles := coreHead + 32768
  let vecs := tiles + 8 * 4104
  let masks := vecs + 32 * 4 * lanes
  let lvl (i : Nat) : LoopLvl :=
    let o := 264 + 24 * i
    let start := n (o + 16) 8
    { start := start, len := ((base.ibuf.getD (start - 1) 0).toNat) % 4096, count := BitVec.ofNat 64 (n (o + 8) 8),
      idx := BitVec.ofNat 64 (n o 8) }
  let preds := (List.range 8).foldl (fun (p : Nat) i => p + (n (256 + i) 1 % 2) * 2 ^ i) 0
  { base with
    s := Tab.ofList 0 (0 :: (List.range 31).map fun i => BitVec.ofNat 64 (n (8 * (i + 1)) 8))
    p := BitVec.ofNat 8 (preds / 2 * 2)
    loops := (((List.range 4).map lvl).filter fun l => l.count != 0).reverse
    pc := BitVec.ofNat 11 (n 360 8 % 2 ^ 63)
    carry := BitVec.ofNat 32 (n 368 4)
    carryOpen := n 372 1 % 2 == 1
    amax := BitVec.ofNat 15 (n 376 8)
    t := Tab.ofList {} ((List.range 8).map fun r =>
      Tile.mk' (n (tiles + 4104 * r) 8) (splitLe 4 1024 ((bs.drop (tiles + 4104 * r + 8)).take 4096)))
    v := Tab.ofList 0 ((List.range 32).map fun i => BitVec.ofNat 2048 (n (vecs + 4 * lanes * i) (4 * lanes)))
    m := Tab.ofList 0 ((List.range 8).map fun i => BitVec.ofNat 64 (n (masks + 8 * i) (lanes / 8))) }

/-- The image that bytes spell, none where its header is not one of R441. -/
def CtxImg.ofBytes (bs : List Byte) : Option CtxImg :=
  let n (o k : Nat) : Nat := cmdN bs o k
  if n 0 2 != 1 || decide (1 < n 2 1) || decide (1 < n 3 1) || (n 4 1 != 64 && n 4 1 != 32) || decide (n 16 8 < 128) ||
      decide (bs.length < n 16 8) then none
  else some { lanes := n 4 1, source := n 2 1, cls := n 3 1, attempt := n 5 1, step := n 8 8, digest := (bs.drop 0x20).take 64,
              sects := sectsOf (n 24 4) ((bs.take (n 16 8)).drop 128) }

/-- The core section of a bound logical core. -/
def CtxImg.coreOf (x : CtxImg) (m : Mach) (j : Job) (kind : Nat) (b : Bind) : Option Sect :=
  x.sects.find? fun s => s.kind == kind && s.first == b.index && s.id == (imgProg (m.jobRd j) (m.jobHdr j) b.program).id

/-- Has a logical core ended its phase? -/
def Sect.ended (x : Sect) : Bool := bitAt (leNat (x.at' 360 8)) 63

/-- The runs that cores of the plat have left to do in the phase, by core, in order, without those that the image says have ended. -/
def Mach.runsLeft (m : Mach) (j : Job) (x : CtxImg) (q : Nat) : List Bind :=
  let bs := ((m.phaseBinds j (q / 16)).filter fun b => b.slot == q % 16).mergeSort fun a b => decide (a.run ≤ b.run)
  bs.filter fun b => match x.coreOf m j 1 b with
    | some s => !s.ended
    | none => true

/-- Can the image be bound: no core has to take up more than one run that has begun (R347, R442)? -/
def Mach.imageFits (m : Mach) (j : Job) (x : CtxImg) : Bool :=
  j.logical.all fun k => (List.range 16).all fun i =>
    ((m.runsLeft j x (16 * k + i)).drop 1).all fun b => (x.coreOf m j 1 b).isNone

/-- Bind one core to what the image holds of its runs. -/
def Mach.restoreCore (m : Mach) (slot : Nat) (j : Job) (x : CtxImg) (q : Nat) : Mach :=
  let all := (m.phaseBinds j (q / 16)).filter fun b => b.slot == q % 16
  match m.runsLeft j x q with
  | [] =>
    match all.getLast? with
    | none => m
    | some b => (m.startCore slot j b).modCore q fun c => { c with run := .halted, bind := { c.bind with ended := true } }
  | b :: _ =>
    let m := m.startCore slot j b
    match x.coreOf m j 1 b with
    | none => m
    | some s =>
      let m := (m.writeMem none .working (storeBase q) (s.at' coreHead 32768)).2.modCore q fun c => coreOfImage s.body x.lanes c
      match x.coreOf m j 2 b with
      | none => m
      | some a =>
        m.modCore q fun c =>
          let l0 := (c.accLoad 0 (a.at' 0 8208)).1
          if (l0.acc 0).isPair then l0 else (l0.accLoad 1 (a.at' 8208 8208)).1

/-- Descriptors that a queue section holds: submitting slot, scatter bit, bytes. -/
def queueOf (x : Sect) : List (Nat × Bool × List Byte) :=
  let n := if x.id = 1 then 136 else 72
  (List.range x.count).map fun i =>
    let w := leNat (x.at' (n * i) 8)
    (w % 16, bitAt w 8, x.at' (n * i + 8) (n - 8))

/-- Counters, SRAM and queues of a logical cluster; descriptors of a cluster that the plat no longer has go to another. -/
def Mach.restoreCluster (m : Mach) (slot : Nat) (j : Job) (x : Sect) : Mach :=
  let ks := j.logical
  let org (k i : Nat) (tag : BitVec 16) : Origin := { core := 16 * k + i, ctx := j.ctx, slot := slot, tag := tag }
  let tag := (m.causeOf slot).tag
  if ks.isEmpty then m
  else
    let k := ks.getD (x.first % ks.length) 0
    match x.kind with
    | 3 =>
      if ks.length ≤ x.first then m
      else
        (m.writeMem none .working (sramBase k) (x.at' 1024 (2 ^ 20))).2.modClu k fun c =>
          { c with counters := Tab.ofList 0 ((splitLe 4 256 x.body).map (BitVec.ofNat 32)) }
    | 4 =>
      let qs := queueOf x
      match x.id with
      | 1 => m.modTrv k fun t =>
          { t with queue := t.queue ++ qs.map fun e =>
              BatchDesc.ofBytes (org k e.1 (stepTag (leNat ((e.2.2.drop 16).take 8)) 3)) e.2.2 }
      | 2 => m.modGth k fun g => { g with queue := g.queue ++ qs.map fun e => GthDesc.ofBytes (org k e.1 tag) e.2.1 e.2.2 }
      | _ => m.modSpr k fun s => { s with queue := s.queue ++ qs.map fun e => SegDesc.ofBytes (16 * k + e.1) j.ctx slot tag e.2.2 }
    | _ => m

/-- The generators after a restore: as saved where the context has exactly the clusters it was saved from, seeded anew in every other
case (R94). Says whether they were reseeded. -/
def Mach.restoreGens (m : Mach) (j : Job) (c : Nat) (x : CtxImg) : Mach × Bool :=
  if !m.hasFree j then (m, false)
  else
    let pairs := (x.sects.filter fun s => s.kind == 5).flatMap fun s =>
      (List.range s.count).map fun i => (leNat (s.at' (16 * i) 8), BitVec.ofNat 64 (leNat (s.at' (16 * i + 8) 8)))
    let same := decide (pairs.map (·.1) = j.logical.flatMap clusterGens)
    if same && x.lanes == 64 && x.source == 0 then
      (m.modCtx c fun y => { y with gens := pairs.foldl (fun (t : Tab (BitVec 64)) p => Tab.put 0 t p.1 p.2) [] }, false)
    else (m.modCtx c fun y => { y with gens := [] }, true)

/-- Does an image hold the working state of the attempt that a job is in? That of another step or attempt an abort has discarded (R306). -/
def CtxImg.current (x : CtxImg) (j : Job) : Bool := x.step == j.step.toNat && x.attempt == j.attempt.toNat

/-- The phase that an image was saved in: that of its cores' programs, the job's own where it holds none. -/
def CtxImg.phaseOf (x : CtxImg) (m : Mach) (j : Job) : Nat :=
  let h := m.jobHdr j
  let progs := (List.range h.programs).filter fun e => x.sects.any fun s => s.kind == 1 && s.id == (imgProg (m.jobRd j) h e).id
  ((List.range h.phases).find? fun i => progs.any fun e => inPhase (imgPhase (m.jobRd j) h i) e).getD j.phase

/-- Clusters, queues and cores take what an image holds of the phase that they are in (R442). -/
def Mach.bindImage (m : Mach) (slot : Nat) (j : Job) (x : CtxImg) : Mach :=
  let ks := j.logical
  let m := ks.foldl (fun m k =>
    let m := m.modTrv k fun t => { t with queue := t.queue.filter (·.org.slot != slot) }
    let m := m.modGth k fun g => { g with queue := g.queue.filter (·.org.slot != slot) }
    m.modSpr k fun e => { e with queue := e.queue.filter (·.slot != slot) }) m
  let held (k : Nat) : Bool := (m.phaseBinds j k).any fun b => (x.coreOf m j 1 b).isSome
  let bound := ks.filter held
  let m := bound.foldl (fun m k => (if j.bound.contains k then m else m.bindCluster slot j k).stopCores k) m
  let m := (x.sects.filter fun s => s.kind == 3 || s.kind == 4).foldl (fun m s => m.restoreCluster slot j s) m
  let m := bound.foldl (fun m k => (List.range 16).foldl (fun m i => m.restoreCore slot j x (16 * k + i)) m) m
  m.modJob slot fun j => { j with bound := bound, image := none, watchdogAt := m.now }

/-- What a restore writes: clusters, queues and cores where the phase that the image was saved in has begun, and the generators. A job whose
attempt does not run yet keeps the image until that phase (DESIGN CHOICE: R442 binds the image's cores, and R187 gives a core a program only
in a phase). -/
def Mach.restoreImage (m : Mach) (slot : Nat) (j : Job) (c n : Nat) (x : CtxImg) : Mach :=
  let m := if !x.current j then m
    else if j.phaseBegun then (if x.phaseOf m j = j.phase then m.bindImage slot j x else m)
    else m.modJob slot fun j => { j with image := some x }
  let g := m.restoreGens j c x
  let m := g.1.modJob slot fun j => { j with watchdogAt := m.now }
  (m.modCtx c fun y => { y with state := if j.run.isSome then .running else .active }).finishCmd c n 0 0 0 0 (b2n g.2)

/-- RESUME_CONTEXT into a STOPPED or ACTIVE context that holds the image's job. -/
def Mach.resumeContext (m : Mach) (c n : Nat) : Mach :=
  m.onCommand c n 0x0D fun m d bs =>
    let x := m.getCtx c
    if !(m.getDom d).inHost (cmdN bs 0x10 8) (cmdN bs 0x18 8) then m.finishCmd c n 2
    else
      match x.job with
      | none => m.finishCmd c n 3
      | some slot =>
        match m.job? slot with
        | none => m.finishCmd c n 3
        | some j =>
          if x.state != .stopped && x.state != .active then m.finishCmd c n 4
          else
            match m.hostRead d (cmdN bs 0x10 8) (cmdN bs 0x18 8) with
            | (none, m) => m.finishCmd c n (if j.refuses then 14 else 18) (if j.refuses then j.halt.toNat else 0)
            | (some img, m) =>
              match CtxImg.ofBytes img with
              | none => m.finishCmd c n (if j.refuses then 14 else 18) (if j.refuses then j.halt.toNat else 0)
              | some im =>
                if !m.jobFits j then (m.event tyPln 0 5).finishCmd c n 11
                else if j.refuses then m.finishCmd c n 14 j.halt.toNat
                else if im.digest != j.digest then m.finishCmd c n 16
                else if im.cls != b2n ((x.desc.map (·.classL)).getD false) then m.finishCmd c n 19
                else
                  let b : Mach × Bool := match j.plat, j.newest with
                    | plat, some p => if m.platClustersOk j p && m.copiesFree slot p then m.tryAdopt slot j p false else (m, plat.isSome)
                    | some _, none => (m, true)
                    | none, none => (m, false)
                  if !b.2 then b.1
                  else
                    match b.1.job? slot with
                    | none => b.1
                    | some j =>
                      if j.phaseBegun && !b.1.imageFits j im then (b.1.event tyPln 0 5).finishCmd c n 11
                      else b.1.restoreImage slot j c n im

/-- RESUME_CONTEXT (R442). -/
def execResumeContext (c n : Nat) (s : State) : Host.Outcome State Fault Refusal :=
  .next (s.onMach fun m => m.resumeContext c n)

/-! ## PHASE_START -/

/-- The first phase of a job that was resumed: the phase its image was saved in begins where the image left it, on every cluster at once
(R442). Its boundary comes first; an image that the plat cannot hold stops the job (R348). -/
def Mach.resumePhase (m : Mach) (slot : Nat) (j : Job) (x : CtxImg) : Mach :=
  if !m.mayPhase j then m
  else
    let b := m.boundary slot j
    match b.2, b.1.job? slot with
    | true, some j =>
      let i := max j.phase (x.phaseOf b.1 j)
      let m := b.1.modJob slot fun j => { j with phase := i }
      let now := { j with phase := i }
      if !m.imageFits now x then m.noFitStop slot
      else
        let m := m.modJob slot fun j => { j with phaseBegun := true }
        (m.bindImage slot { now with phaseBegun := true } x).phaseEnd slot
    | _, _ => b.1

/-- PHASE_START on cluster k: a resumed job goes on where its image left it, any other begins its phase. -/
def Mach.beginPhase (m : Mach) (slot k : Nat) : Mach :=
  match m.job? slot with
  | none => m
  | some j =>
    match j.image with
    | none => m.phaseStart slot k
    | some x =>
      if j.phaseBegun || !x.current j then (m.modJob slot fun j => { j with image := none }).phaseStart slot k
      else m.resumePhase slot j x

/-- PHASE_START (R187). -/
def execPhaseStart (slot cluster : Nat) (s : State) : Host.Outcome State Fault Refusal :=
  .next (s.onMach fun m => m.beginPhase slot cluster)

end Sys2Proof.Machine
end

