-- ==== Sys2Proof/Machine/Datagrams.lean ====
section
/-!
DEFINITION. Datagrams of remote hosts (R437 to R439): which are accepted, the sequence windows, SUBMIT, WRITE, READ and ACK,
resends, and the service ports themselves (R446).
-/
namespace Sys2Proof.Machine

/-! ## What is accepted (R437, R439) -/

/-- Is the length of a host's datagram of a type right (R438)? -/
def gramLengthOk (g : Datagram) : Bool :=
  match g.type with
  | 1 => decide (64 ≤ g.length) && decide (g.length ≤ 1024) && g.length % 64 == 0
  | 2 => decide (g.length ≤ 1024)
  | 3 => g.length == 0 && decide (1 ≤ g.addr / 2 ^ 48) && decide (g.addr / 2 ^ 48 ≤ 1024)
  | 5 => g.length == 4 || g.length == 8
  | 6 => g.length == 0
  | 10 => g.length == 0
  | _ => false

/-- Are header, length and source of a datagram right (R437)? -/
def Mach.gramGood (m : Mach) (g : Datagram) : Bool :=
  let x := m.getDom g.domain
  g.version == 1 && decide (g.domain < 16) && g.zero == 0 && g.length == g.data.length && gramLengthOk g &&
    x.host == .remote && g.fromAddr == x.remoteAddr && g.fromPort == x.remotePort

/-- Was a datagram with this SEQ received before (R439)? -/
def Dom.duplicate (x : Dom) (s : BitVec 32) : Bool :=
  match x.rxHigh with
  | none => false
  | some h => (s == h || seqBelow s h) && (decide (1024 ≤ (h - s).toNat) || x.rxSeen.contains s)

/-- The highest SEQ up to which every SEQ has been received, once those in `seen` have. -/
def raiseLow (seen : List (BitVec 32)) : Nat → BitVec 32 → BitVec 32
  | 0, l => l
  | n + 1, l => if seen.contains (l + 1) then raiseLow seen n (l + 1) else l

/-- The receive window after a new datagram. -/
def Dom.received (x : Dom) (s : BitVec 32) : Dom :=
  let h := match x.rxHigh with
    | none => s
    | some h => if seqBelow h s then s else h
  let seen := x.rxSeen ++ [s]
  { x with rxHigh := some h, rxLow := raiseLow seen seen.length x.rxLow,
           rxSeen := seen.filter fun t => decide ((h - t).toNat < 1024) }

/-- The ACK of a host's datagram: every datagram up to it is released, with its trace records (R515), and datagrams that the
window held back are sent. -/
def Mach.takeAck (m : Mach) (d : Nat) (a : BitVec 32) : Mach :=
  let x := m.getDom d
  if decide (2 ^ 31 ≤ (x.txSeq - a).toNat) then m
  else
    let done (o : OutGram) : Bool := o.sent && (o.gram.seq == a || seqBelow o.gram.seq a)
    let freed := (x.out.filter done).foldl (fun (n : Nat) o => n + o.trace) 0
    let m := m.modThdDom d fun t => { t with acked := t.acked + freed }
    let m := m.modDom d fun x => { x with out := x.out.filter fun o => !done o }
    (List.range (m.getDom d).out.length).foldl (fun m i =>
      let x := m.getDom d
      match x.out[i]? with
      | some o =>
        if !o.sent && x.windowOpen o.gram.seq then
          (m.modDom d fun x => { x with out := x.out.set i { o with sent := true, sentAt := m.now } }).modSvc x.lastPort
            fun v => { v with tx := v.tx + 1 }
        else m
      | none => m) m

/-- A datagram arrives at a service port. It is discarded as malformed, as not authentic or as a duplicate; or it is
acknowledged and takes effect. -/
def Mach.onGram (m : Mach) (port type : Nat) (g : Datagram) (eff : Mach → Mach) : Mach :=
  let v := m.getSvc port
  if 2 ≤ port ∨ v.state ≠ 2 ∨ g.toPort ≠ v.udpPort ∨ g.type ≠ type then m
  else
    let m := m.modSvc port fun v => { v with rx := v.rx + 1 }
    if !m.gramGood g then m.event tySvc port 2
    else if gramMac g (m.getDom g.domain).key != g.tag then (m.event tySvc port 0).event tyDom g.domain 1
    else
      let old := (m.getDom g.domain).duplicate g.seq
      let m := (m.modDom g.domain fun x => { x with lastPort := port }).takeAck g.domain g.ack
      if g.type = 10 then eff m
      else if old then (m.event tySvc port 1).sendGram g.domain 10 0 0 []
      else (eff (m.modDom g.domain fun x => x.received g.seq)).sendGram g.domain 10 0 0 []

/-! ## The host's datagrams (R438) -/

/-- The commands of a SUBMIT are written at the tail of the context's ring, or none is (R424, R438). -/
def Mach.submitAll (m : Mach) (d c : Nat) (bs : List Byte) : Mach :=
  if m.domOfCtx c ≠ some d then m.event tyDom d 0
  else
    let x := m.getCtx c
    match x.desc with
    | none => m.event tyCtx c 1
    | some e =>
      let n := bs.length / 64
      let t := x.sqTail + BitVec.ofNat 32 n
      if !indexOk t x.sqTail x.sqHead e.sqEntries then m.event tyCtx c 1
      else
        let m := (List.range n).foldl (fun m i =>
          m.hostWrite d (e.sqBase + 64 * ((x.sqTail.toNat + i) % e.sqEntries)) ((bs.drop (64 * i)).take 64)) m
        m.modCtx c fun x => { x with sqTail := t }

/-- SUBMIT (R438). -/
def execSubmit (port : Nat) (g : Datagram) (s : State) : Host.Outcome State Fault Refusal :=
  .next (s.onMach fun m => m.onGram port 1 g fun m => m.submitAll g.domain g.context g.data)

/-- Bytes are written to host memory; those outside it nowhere. -/
def Mach.gramWrite (m : Mach) (d a : Nat) (bs : List Byte) : Mach :=
  if (m.getDom d).inHost a bs.length then m.hostWrite d a bs else m

/-- DGRAM_WRITE (R438). -/
def execDgramWrite (port : Nat) (g : Datagram) (s : State) : Host.Outcome State Fault Refusal :=
  .next (s.onMach fun m => m.onGram port 2 g fun m => m.gramWrite g.domain g.addr g.data)

/-- A READ is answered by READ_DATA with the bytes asked; a range outside host memory reads as zeros. -/
def Mach.gramRead (m : Mach) (d a : Nat) : Mach :=
  let n := a / 2 ^ 48
  let o := a % 2 ^ 48
  if (m.getDom d).inHost o n then
    let r := m.hostRead d o n
    r.2.sendGram d 4 0 a (r.1.getD (m.peek ((m.getDom d).hostAt + o) n))
  else m.sendGram d 4 0 a (List.replicate n 0)

/-- DGRAM_READ (R438). -/
def execDgramRead (port : Nat) (g : Datagram) (s : State) : Host.Outcome State Fault Refusal :=
  .next (s.onMach fun m => m.onGram port 3 g fun m => m.gramRead g.domain g.addr)

/-- DGRAM_ACK (R439): its ACK is taken; nothing answers it. -/
def execDgramAck (port : Nat) (g : Datagram) (s : State) : Host.Outcome State Fault Refusal :=
  .next (s.onMach fun m => m.onGram port 10 g id)

/-! ## Resends and the ports (R439, R446) -/

/-- A datagram not acknowledged within SVC_RESEND_US is sent again. -/
def Mach.gramResend (m : Mach) (d seq : Nat) : Mach :=
  let x := m.getDom d
  let due (o : OutGram) : Bool :=
    o.sent && o.gram.seq.toNat == seq && decide (o.sentAt + 1000 * (m.getSvc x.lastPort).resendUs.toNat ≤ m.now)
  if x.host != .remote || (m.getSvc x.lastPort).state != 2 || !x.out.any due then m
  else
    let again (o : OutGram) : OutGram := if due o then { o with sentAt := m.now } else o
    ((m.modDom d fun x => { x with out := x.out.map again }).modSvc x.lastPort fun v => { v with tx := v.tx + 1 }).event
      tySvc x.lastPort 3

/-- DATAGRAM_RESEND (R439). -/
def execDatagramResend (d seq : Nat) (s : State) : Host.Outcome State Fault Refusal :=
  .next (s.onMach fun m => m.gramResend d seq)

/-- SVC_LINK_DOWN (R446): a port that was up is lost. -/
def execSvcLinkDown (port : Nat) (s : State) : Host.Outcome State Fault Refusal :=
  .next (s.onMach fun m =>
    if (m.getSvc port).state = 2 then (m.modSvc port fun v => { v with state := 1 }).event tySvc port 4 else m)

/-- SVC_PORT_UP (R446): a port that trains is up. -/
def execSvcPortUp (port : Nat) (s : State) : Host.Outcome State Fault Refusal :=
  .next (s.onMach fun m =>
    if port < 2 ∧ (m.getSvc port).state = 1 then m.modSvc port fun v => { v with state := 2 } else m)

/-! ## Guests (R419) -/

/-- Is a guest-physical address mapped: host memory at 0x8000_0000, or the register-page window? -/
def Dom.guestMapped (x : Dom) (a : Nat) : Bool :=
  (decide (0x80000000 ≤ a) && decide (a < 0x80000000 + x.hostmemGib.toNat * 2 ^ 30)) ||
    (decide (0x0F0000000000 ≤ a) && decide (a < 0x0F0000000000 + 2 ^ 36))

/-- GUEST_FAULT (R419): the G-stage refuses a guest access outside its mappings. -/
def execGuestFault (d addr : Nat) (s : State) : Host.Outcome State Fault Refusal :=
  .next (s.onMach fun m =>
    if (m.getDom d).host != .localHost || (m.getDom d).guestMapped addr then m
    else { m with apc := { m.apc with guestFaults := m.apc.guestFaults + 1 } }.event tyApc 0 1)

end Sys2Proof.Machine
end

