-- ==== Sys2Proof/Machine/Router.lean ====
section
/-!
DEFINITION. The tract routers (chapter 15): candidates and the up-down rule (R395 to R401), versions of the tables and
their drain (R402 to R404), multicast (R406), arbitration (R407), delivery and the duplicate filters (R393, R394), and
the command PACKET_ROUTE.
-/
namespace Sys2Proof.Machine

/-! ## Tables, ranks, neighbours -/

/-- The tables of a version. -/
def Rte.ver (r : Rte) (v : Bool) : RteTables := if v then r.v1 else r.v0

/-- Change the tables of a version. -/
def Rte.modVer (r : Rte) (v : Bool) (f : RteTables → RteTables) : Rte :=
  if v then { r with v1 := f r.v1 } else { r with v0 := f r.v0 }

/-- The neighbour of a tract on the ring T0-T1-T3-T2-T0: by code 12 the next, by code 13 the previous. -/
def ringTo (t code : Nat) : Nat :=
  match t, code with
  | 0, 12 => 1 | 1, 12 => 3 | 3, 12 => 2 | _, 12 => 0
  | 0, _ => 2 | 1, _ => 0 | 3, _ => 1 | _, _ => 3

/-- The rank of the router beyond a hop code under a version (R399). -/
def Mach.hopRank (m : Mach) (t code : Nat) (v : Bool) : BitVec 24 :=
  if code < 12 then (if v then (m.getLnk (12 * t + code)).rank1 else (m.getLnk (12 * t + code)).rank0)
  else ((m.getRte (ringTo t code)).ver v).rank

/-- The state of the link behind a hop code; the ring is always up. -/
def Mach.hopState (m : Mach) (t code : Nat) : LinkState := if code < 12 then (m.getLnk (12 * t + code)).state else .up

/-- Does the up-down rule allow this hop to a packet (R399, R401)? -/
def Mach.hopAllowed (m : Mach) (t code : Nat) (p : Packet) : Bool :=
  let own := ((m.getRte t).ver p.epoch).rank
  let r := m.hopRank t code p.epoch
  r != own && (!p.down || decide (own.toNat < r.toNat))

/-- The header of a packet as one 256-bit value (R390). -/
def Packet.header (p : Packet) : Nat :=
  p.dst % 2 ^ 24 * 2 ^ 232 + p.src % 2 ^ 24 * 2 ^ 208 + b2n p.epoch * 2 ^ 207 + p.tc % 4 * 2 ^ 205 + b2n p.down * 2 ^ 204 +
    p.domain % 16 * 2 ^ 200 + p.op % 2 ^ 8 * 2 ^ 192 + p.seq.toNat * 2 ^ 160 + p.tag.toNat * 2 ^ 144 + p.job % 2 ^ 16 * 2 ^ 128 +
    p.addr % 2 ^ 48 * 2 ^ 80 + p.ctr % 2 ^ 8 * 2 ^ 72 + p.inject % 2 ^ 24 * 2 ^ 48 + p.len % 2 ^ 16 * 2 ^ 32 + p.arg % 2 ^ 32

/-- A packet on the wire: its header, little-endian, and its payload (R390). -/
def packetBytes (p : Packet) : List Byte := leBytes 32 (Packet.header p) ++ p.data

/-- Cells of a packet (R390). -/
def pktCells (p : Packet) : Nat := (32 + p.data.length + 63) / 64

/-- Virtual channel of a packet: its class in its epoch (R407). -/
def pktVc (p : Packet) : Nat := 2 * p.tc + b2n p.epoch

/-- Cells in use at the receiving input of a hop, per virtual channel: by the sender's credit count for a link, by the
packets held for a ring bridge. -/
def Mach.usedCells (m : Mach) (t code vc : Nat) : Nat :=
  if code < 12 then Tab.get 0 (m.getLnk (12 * t + code)).used vc
  else ((m.getRte (ringTo t code)).held.filter fun h => h.input == 25 - code && pktVc h.pkt == vc).foldl
    (fun n h => n + pktCells h.pkt) 0

/-- Free credit of a virtual channel on a hop: 256 reserved cells, and 2,048 that the channels share (R407). -/
def Mach.freeCells (m : Mach) (t code vc : Nat) : Nat :=
  let past := ((List.range 8).map fun c => m.usedCells t code c - 256).foldl (· + ·) 0
  (256 - m.usedCells t code vc) + (2048 - past)

/-! ## Choosing an output (R391, R393, R395 to R397, R403, R406) -/

/-- What a router does with a packet it holds. -/
inductive Decision where
  /-- discarded, with the RTE event it raises -/
  | discard (event : Nat)
  | deliver (code : Nat)
  | hop (code : Nat)
  /-- its only candidates are retraining, or it has no credit -/
  | wait
  | multicast (entry : BitVec 64)
  deriving DecidableEq, Repr

/-- The operations of R391. -/
def opKnown (op : Nat) : Bool :=
  [0x01, 0x02, 0x03, 0x04, 0x05, 0x10, 0x11, 0x12, 0x13, 0x20, 0x21, 0x22, 0x30, 0x31].contains op

/-- Does a local part name an endpoint (R393)? -/
def endpointKnown (l : Nat) : Bool :=
  decide (l < 640) || l == 0x0800 || l == 0x0801 || (decide (0x0A00 ≤ l) && decide (l < 0x0A08)) || l == 0x0900 ||
    l == 0x0910 || l == 0x0920 || l == 0x0930

/-- Module number of a station. -/
def stModule (s : Nat) : Nat := s / 8192
/-- Local part of a station. -/
def stLocal (s : Nat) : Nat := s % 8192

/-- Does delivery at a tract by an output code reach this endpoint of the module, and is its unit present (R14, R27)? -/
def Mach.reachesUnit (m : Mach) (t code l : Nat) : Bool :=
  (tractsOf l).contains t && deliveryCode l == code && m.endpointPresent l

/-- The operations that act on memory. -/
def memOp (op : Nat) : Bool := op == 0x01 || op == 0x02 || op == 0x03 || op == 0x20 || op == 0x21

/-- The request queue that an offset belongs to: 0 to 63 an LPDDR5X channel's, 64 + b that of near-tier bank b (R375). -/
def Mach.queueOf (m : Mach) (a : Nat) : Option Nat :=
  match tierOf a with
  | .slow die o => some (m.channelAt die o).1
  | .near die o => some (64 + 64 * die + (m.bankAt die o).1)
  | _ => none

/-- Memory operations that have come to a channel or bank and are not carried out. -/
def Mach.queued (m : Mach) (q : Nat) : Nat := m.arrived.countP fun a => memOp a.pkt.op && m.queueOf a.pkt.addr == some q

/-- Is a queue full: 64 requests at a channel, 32 at a bank (R375)? -/
def Mach.queueFull (m : Mach) (q : Nat) : Bool := decide ((if q < 64 then 64 else 32) ≤ m.queued q)

/-- Must a request wait for room at the channel or bank that it goes to? A posted packet is consumed all the same (R392). -/
def Mach.awaitsRoom (m : Mach) (p : Packet) : Bool :=
  p.tc == 0 && memOp p.op && match m.queueOf p.addr with
    | some q => m.queueFull q
    | none => false

/-- The output that a mask of output codes gives a packet (R396, R397): the lowest delivery code; otherwise the allowed
hop that is up with the most free credit, the lowest code among equals. A delivery code that does not lead to the destination
is no way to it: the packet is discarded (DESIGN CHOICE). -/
def Mach.choose (m : Mach) (t : Nat) (p : Packet) (ports : BitVec 32) : Decision :=
  match [14, 15, 16].find? fun c => ports.getLsbD c with
  | some c =>
    if stModule p.dst != m.self || !m.reachesUnit t c (stLocal p.dst) then .discard 3
    else if m.awaitsRoom p then .wait
    else .deliver c
  | none =>
    let hops := (List.range 14).filter fun c => ports.getLsbD c && m.hopAllowed t c p
    let up := hops.filter fun c => m.hopState t c == .up
    match up with
    | [] => if hops.any fun c => m.hopState t c == .retraining then .wait else .discard 3
    | c :: cs =>
      let vc := pktVc p
      let best := cs.foldl (fun b c => if m.freeCells t b vc < m.freeCells t c vc then c else b) c
      if pktCells p ≤ m.freeCells t best vc then .hop best else .wait

/-- What router t does with a packet (R391, R393, R395, R396, R403, R406). -/
def Mach.decision (m : Mach) (t : Nat) (p : Packet) : Decision :=
  let r := m.getRte t
  let tb := r.ver p.epoch
  let mod := stModule p.dst
  let loc := stLocal p.dst
  if !opKnown p.op then .discard 3
  else if tb.state = .empty then .discard 2
  else
    let mc := Tab.get 0 tb.mc (loc % 4096)
    if 0x1000 ≤ loc ∧ (mod = m.self ∨ (p.down = true ∧ mc.getLsbD 63 = true)) then
      if mc.getLsbD 63 && (p.op == 0x20 || p.op == 0x22 || p.op == 0x30) then .multicast mc else .discard 3
    else if mod = m.self then
      let e := Tab.get 0 tb.lt loc
      if !e.getLsbD 31 || !endpointKnown loc then .discard 3 else m.choose t p e
    else
      let e := Tab.get 0 tb.mt mod
      if !e.getLsbD 31 || e.getLsbD 16 then .discard 3 else m.choose t p e

/-! ## Arbitration (R407) -/

/-- Is INJECT a older than b, modulo 2^24? -/
def injectOlder (a b : Nat) : Bool := decide (a ≠ b) && decide ((b + 2 ^ 24 - a) % 2 ^ 24 < 2 ^ 23)

/-- The oldest packet of a list; among equal INJECT the lower SRC. -/
def oldest : List Held → Option Held
  | [] => none
  | h :: hs =>
    some (hs.foldl (fun b x =>
      if injectOlder x.pkt.inject b.pkt.inject || (x.pkt.inject == b.pkt.inject && decide (x.pkt.src < b.pkt.src)) then x
      else b) h)

/-- Weight of a domain in link arbitration: its easement's, or 1 (R407, R408). -/
def Mach.linkWeight (m : Mach) (d : Nat) : Nat := max 1 (m.getPlnDom d).weight

/-- The domain that deficit round robin serves next among those of a list, given the domain last served and its packets
left, and the new state of the robin. -/
def Mach.nextDomain (m : Mach) (ds : List Nat) (cur left : Nat) : Nat × Nat × Nat :=
  if ds.contains cur && decide (0 < left) then (cur, cur, left - 1)
  else
    match ((List.range 16).map fun i => (cur + 1 + i) % 16).find? fun d => ds.contains d with
    | some d => (d, d, m.linkWeight d - 1)
    | none => (cur, cur, 0)

/-- The packet an output sends next among those whose choice it is, and the router with its round-robin state moved on:
control first, then round robin over request, response and posted, then domains by deficit, then age (R407). -/
def Mach.pick (m : Mach) (t output : Nat) (hs : List Held) : Option (Held × Rte) :=
  let r := m.getRte t
  let has (c : Nat) : Bool := hs.any fun h => h.pkt.tc == c
  let last := Tab.get 0 r.turn output
  let cls :=
    if has 3 then some 3
    else ((List.range 3).map fun i => (last + 1 + i) % 3).find? fun c => has c
  match cls with
  | none => none
  | some c =>
    let hs := hs.filter fun h => h.pkt.tc == c
    let key := 4 * output + c
    let st := Tab.get 0 r.deficit key
    let (d, cur, left) := m.nextDomain (hs.map (·.pkt.domain)) (st / 65536) (st % 65536)
    match oldest (hs.filter fun h => h.pkt.domain == d) with
    | none => none
    | some h =>
      some (h, { r with turn := if c = 3 then r.turn else Tab.put 0 r.turn output c,
                        deficit := Tab.put 0 r.deficit key (cur * 65536 + left) })

/-! ## Drain of a version (R402, R404) -/

/-- Packets of version v that a router holds, those sent on a link and not acknowledged included: RTE_OLD_COUNT when v is
DRAINING (R404). -/
def Mach.oldCount (m : Mach) (t : Nat) (v : Bool) : Nat :=
  ((m.getRte t).held.countP fun h => h.pkt.epoch == v) +
  ((List.range 12).map fun c =>
    let l := m.getLnk (12 * t + c)
    (l.queue.countP fun p => p.epoch == v) + ((l.replay.filterMap TxFrame.packet?).countP fun p => p.epoch == v)).foldl (· + ·) 0

/-- The virtual channels of version v: one for each of the four traffic classes. -/
def versionVcs (v : Bool) : List Nat := (List.range 4).map fun tc => 2 * tc + b2n v

/-- A marker of the DRAINING version has arrived by an input on its channel of a class; RTE_MARKERS shows the input once the markers of
all its channels have (R404, R413). -/
def Rte.mark (r : Rte) (input tc : Nat) : Rte :=
  let got := r.vcMarkers ||| BitVec.ofNat 56 (2 ^ (4 * input + tc))
  { r with vcMarkers := got,
           markers := if (List.range 4).all fun c => got.getLsbD (4 * input + c) then r.markers ||| BitVec.ofNat 14 (2 ^ input)
                      else r.markers }

/-- Have the markers of version v come in by a hop input? A port that is down, or a neighbour of equal rank, which can send
nothing under v, counts as having delivered its markers (R404). -/
def Mach.markerIn (m : Mach) (t code : Nat) (v : Bool) : Bool :=
  (m.getRte t).markers.getLsbD code || m.hopState t code == .down ||
    m.hopRank t code v == ((m.getRte t).ver v).rank

/-- May the router send the markers of its DRAINING version v on an output (R404)? -/
def Mach.markerReady (m : Mach) (t code : Nat) (v : Bool) : Bool :=
  let own := (((m.getRte t).ver v).rank).toNat
  let out := (m.hopRank t code v).toNat
  let waiting := (m.getRte t).held.any fun h => h.pkt.epoch == v && m.decision t h.pkt == .hop code
  !(m.getRte t).markersSent.getLsbD code && m.hopState t code == .up && out != own && !waiting &&
  (code ≥ 12 || (m.getLnk (12 * t + code)).queue.all fun p => p.epoch != v) &&
  (List.range 14).all fun i =>
    m.markerIn t i v || (decide (out < own) && !decide (own < (m.hopRank t i v).toNat))

/-- Send every marker that may be sent, and make the version EMPTY when all are in and nothing is held (R402, R404). -/
def Mach.drainOne (m : Mach) (t : Nat) (v : Bool) : Mach :=
  if ((m.getRte t).ver v).state != .draining then m
  else
    let m := (List.range 14).foldl (fun m c =>
      if m.markerReady t c v then
        let m := m.modRte t fun r => { r with markersSent := r.markersSent ||| BitVec.ofNat 14 (2 ^ c) }
        if c < 12 then m.modLnk (12 * t + c) fun l => { l with owedMarkers := l.owedMarkers ++ versionVcs v }
        else m.modRte (ringTo t c) fun r => { r with inbox := r.inbox ++ (versionVcs v).map fun vc => (25 - c, vc) }
      else m) m
    if m.oldCount t v = 0 && (List.range 14).all fun i => m.markerIn t i v then
      (m.modRte t fun r =>
        { r.modVer v fun x => { x with state := .empty } with markers := 0, vcMarkers := 0, markersSent := 0 }).event tyRte t 4
    else m

/-- Let the drain of every router go as far as it can. -/
def Mach.drain (m : Mach) : Mach :=
  (List.range 4).foldl (fun m t => (m.drainOne t false).drainOne t true) m

/-! ## Sending and delivering -/

/-- Discard a packet that a router holds, with the event it raises (R396, R403). -/
def Mach.discardHeld (m : Mach) (t event : Nat) : Mach :=
  (m.modRte t fun r => { r with discarded := r.discarded + 1 }).event tyRte t event

/-- Send a new frame: it enters the replay buffer under the next link sequence number (R386, R387). -/
def Lnk.push (l : Lnk) (c : Packet ⊕ CtlFrame) (now : Nat) : Lnk :=
  { l with replay := l.replay ++ [{ seq := l.txSeq, content := c, sentAt := now }], txSeq := l.txSeq + 1, framesTx := l.framesTx + 1 }

/-- Has the replay buffer of a port room (R387)? -/
def Lnk.room (l : Lnk) : Bool := decide (l.replay.length < 2048)

/-- The control frame that a port sends now: all that it owes the other end, and the time (R386, R409). -/
def Mach.controlOf (m : Mach) (port : Nat) : CtlFrame :=
  let l := m.getLnk port
  let r := m.getRte (port / 12)
  { ack := l.owedAck, nack := l.owedNack, credits := l.owedCredit, markers := l.owedMarkers,
    ranks := if l.owedRanks then some (r.v0.rank, r.v1.rank) else none, stamp := m.now, echo := l.echo }

/-- A control frame leaves by a port. -/
def Mach.sendControl (m : Mach) (port : Nat) : Mach :=
  let c := m.controlOf port
  m.modLnk port fun l =>
    if l.room then
      { l.push (.inr c) m.now with owedAck := none, owedNack := none, owedCredit := [], owedMarkers := [], owedRanks := false,
                                   echo := none, sinceControl := 0 }
    else l

/-- Is a packet's way out by a hop code of router t a down hop (R399)? -/
def Mach.downHop (m : Mach) (t code : Nat) (p : Packet) : Bool :=
  decide ((((m.getRte t).ver p.epoch).rank).toNat < (m.hopRank t code p.epoch).toNat)

/-- Frame a packet for a link port, with DOWN set where it is a down hop (R401), after a control frame where 21 packet frames have
gone since the last (R386); with a full buffer it waits unframed, as it came (R387, R398). DESIGN CHOICE: a frame carries the cells of
one packet, at most nine of the nine that fit. -/
def Mach.frame (m : Mach) (port : Nat) (p : Packet) : Mach :=
  let m := if (m.getLnk port).sinceControl < 21 then m else m.sendControl port
  let sent := { p with down := p.down || m.downHop (port / 12) (port % 12) p }
  m.modLnk port fun l =>
    if l.room then { l.push (.inl sent) m.now with sinceControl := l.sinceControl + 1 } else { l with queue := l.queue ++ [p] }

/-- Move packets that wait unframed into the replay buffer while it has room. -/
def Mach.refill (m : Mach) (port : Nat) : Mach :=
  let q := (m.getLnk port).queue
  q.foldl (fun m p => m.frame port p) (m.modLnk port fun l => { l with queue := [] })

/-- Return the credit of a packet that leaves the input buffer of a link port. -/
def Mach.creditBack (m : Mach) (t : Nat) (h : Held) : Mach :=
  if h.input < 12 then
    m.modLnk (12 * t + h.input) fun l => { l with owedCredit := l.owedCredit ++ [(pktVc h.pkt, pktCells h.pkt)] }
  else m

/-- Send a packet on a hop; DOWN is set on a down hop (R401). -/
def Mach.hopOut (m : Mach) (t code : Nat) (p : Packet) : Mach :=
  if code < 12 then
    let port := 12 * t + code
    (m.modLnk port fun l => { l with used := Tab.upd 0 l.used (pktVc p) (· + pktCells p) }).frame port p
  else
    let sent := { p with down := p.down || m.downHop t code p }
    m.modRte (ringTo t code) fun r => { r with held := r.held ++ [{ pkt := sent, input := 25 - code }] }

/-- Take one SEQ through a duplicate filter: accepted or not (R394). -/
def DupFilter.take (f : DupFilter) (seq : BitVec 32) : DupFilter × Bool :=
  let d := (seq - f.floor).toNat
  if 2 ^ 31 ≤ d ∨ f.seen.contains seq then (f, false)
  else
    let f := if 4096 ≤ d then
        let fl := seq - 4095
        { floor := fl, seen := f.seen.filter fun s => decide ((s - fl).toNat < 2 ^ 31) }
      else f
    let seen := seq :: f.seen
    -- F is the lowest SEQ not yet accepted
    let up := (List.range 4097).foldl (fun (fl : BitVec 32) _ => if seen.contains fl then fl + 1 else fl) f.floor
    ({ floor := up, seen := seen.filter fun s => decide ((s - up).toNat < 2 ^ 31) }, true)

/-- Deliver a packet at an endpoint of this module: at the commit unit, the planner and the management processor a control packet
passes the duplicate filter of its flow first (R394). -/
def Mach.deliver (m : Mach) (t target : Nat) (p : Packet) : Mach :=
  if p.tc = 3 ∧ (target = cmtUnit ∨ target = plnUnit ∨ target = mgtUnit) then
    let key := (target * 2 ^ 24 + p.dst) * 2 ^ 24 + p.src
    let r := (Tab.get {} m.filters key).take p.seq
    if r.2 then { m with filters := Tab.put {} m.filters key r.1, arrived := m.arrived ++ [⟨target, p⟩] }
    else m.event tyRte t 5
  else { m with arrived := m.arrived ++ [⟨target, p⟩] }

/-- The copies of a multicast (R406): one on each allowed down hop named in FORWARD, every other dropped with ROUTE_FAULT,
and one delivered when DELIVER is set, to TARGET or to memory; a TARGET that names no present endpoint takes none (R27, R393). -/
def Mach.multicast (m : Mach) (t : Nat) (p : Packet) (e : BitVec 64) : Mach :=
  let m := (List.range 16).foldl (fun m c =>
    if !e.getLsbD c then m
    else
      let down := decide (c < 14) && m.downHop t c p
      if down && m.hopState t c == .up then m.hopOut t c p else m.event tyRte t 3) m
  let target := fld e.toNat 17 13
  if !e.getLsbD 16 then m
  else if target == 0x1FFF || (endpointKnown target && m.endpointPresent target) then m.deliver t target p
  else m.event tyRte t 3

/-- Has every copy of a multicast its credit, and none a port that retrains? -/
def Mach.copiesReady (m : Mach) (t : Nat) (p : Packet) (e : BitVec 64) : Bool :=
  (List.range 14).all fun c =>
    !e.getLsbD c || (m.hopState t c != .retraining && decide (pktCells p ≤ m.freeCells t c (pktVc p)))

/-- A packet has left its router: one that came from a unit of this module may have held a posted slot (R375). -/
def Mach.slotFreed (m : Mach) (h : Held) : Mach := if h.input = 16 then m.freePosted (stLocal h.pkt.src) else m

/-- Router t works on its held packets for one output: codes 0 to 16 send or deliver the packet that arbitration picks;
any other output stands for the packets that go nowhere: the first held packet that is discarded, or a multicast whose
copies can be sent. -/
def Mach.routeStep (m : Mach) (t output : Nat) : Mach :=
  let held := (m.getRte t).held
  if output ≤ 16 then
    let mine := held.filter fun h => m.decision t h.pkt == (if output < 14 then .hop output else .deliver output)
    match m.pick t output mine with
    | none => m
    | some (h, r) =>
      let m := m.modRte t fun _ => { r with held := r.held.erase h, routed := r.routed + 1 }
      let m := m.creditBack t h
      let m := (if output < 14 then m.hopOut t output h.pkt else m.deliver t (stLocal h.pkt.dst) h.pkt).drain
      m.slotFreed h
  else
    match held.find? fun h => match m.decision t h.pkt with
      | .discard _ => true
      | .multicast e => m.copiesReady t h.pkt e
      | _ => false with
    | none => m
    | some h =>
      let m' := (m.modRte t fun r => { r with held := r.held.erase h }).creditBack t h
      match m.decision t h.pkt with
      | .discard ev => (m'.discardHeld t ev).drain.slotFreed h
      | .multicast e => ((m'.modRte t fun r => { r with routed := r.routed + 1 }).multicast t h.pkt e).drain.slotFreed h
      | _ => m

/-- PACKET_ROUTE (R396). -/
def execPacketRoute (tract output : Nat) (s : State) : Host.Outcome State Fault Refusal :=
  .next (s.onMach fun m => if tract < 4 then m.routeStep tract output else m)

end Sys2Proof.Machine
end

