-- ==== Sys2Proof/Machine/Transfer.lean ====
section
/-!
DEFINITION. Transfers of a core (R189 to R192, R194): the descriptor and its checks, the rows moved, tags, and the
completion that raises the counter. XFER is the command; READ_DATA and WRITE_ACK carry a transfer on.
-/
namespace Sys2Proof.Machine

/-- The transfer descriptor that 64 bytes spell (R189). -/
def XferDesc.ofBytes (bs : List Byte) : XferDesc :=
  let n (o k : Nat) : Nat := leNat ((bs.drop o).take k)
  { src := n 0x00 8 % 2 ^ 48, dst := n 0x08 8 % 2 ^ 48, srcAt := n 0x10 4 % 2 ^ 24, dstAt := n 0x14 4 % 2 ^ 24,
    srcGlobal := bitAt (n 0x10 4) 24, dstGlobal := bitAt (n 0x14 4) 24, rowBytes := n 0x18 4, rows := n 0x1C 4,
    srcStride := sgn 64 (n 0x20 8), dstStride := sgn 64 (n 0x28 8), counter := BitVec.ofNat 32 (n 0x30 4),
    increment := BitVec.ofNat 32 (n 0x34 4), op := n 0x38 1,
    bad := n 0x00 8 / 2 ^ 48 != 0 || n 0x08 8 / 2 ^ 48 != 0 || n 0x10 4 / 2 ^ 25 != 0 || n 0x14 4 / 2 ^ 25 != 0 ||
      n 0x39 7 != 0 }

/-- Rows and bytes of a row that the check translates (R192). -/
def XferDesc.checkRows (d : XferDesc) : Nat := min d.rows 65536
/-- Bytes of a row that the check translates (R192). -/
def XferDesc.checkBytes (d : XferDesc) : Nat := min d.rowBytes 16777216

/-- Where row i of the source lands, or none. -/
def Mach.xferSrc (m : Mach) (ctx : Nat) (d : XferDesc) (i : Nat) : Option (Nat × Nat) :=
  let a : Int := d.src + d.srcStride * i
  if a < 0 then none
  else if d.srcGlobal then m.xlateGlobal ctx .read d.srcAt a.toNat d.checkBytes
  else m.xlate ctx .read a.toNat d.checkBytes

/-- Where row i of the destination lands, or none: an add needs ADD, a copy WRITE (R370). -/
def Mach.xferDst (m : Mach) (ctx : Nat) (d : XferDesc) (i : Nat) : Option (Nat × Nat) :=
  let p := if d.op = 1 then Perm.add else .write
  let a : Int := d.dst + d.dstStride * i
  if a < 0 then none
  else if d.dstGlobal then m.xlateGlobal ctx p d.dstAt a.toNat d.checkBytes
  else m.xlate ctx p a.toNat d.checkBytes

/-- The range, reserved-field and alignment rules (R189, R190). -/
def XferDesc.shapeBad (d : XferDesc) : Bool :=
  d.bad || decide (16777216 < d.rowBytes) || d.rows == 0 || decide (65536 < d.rows) || decide (1 < d.op) ||
    (d.op == 1 && (d.rowBytes % 8 != 0 || d.src % 8 != 0 || d.dst % 8 != 0 || d.srcStride % 8 != 0 || d.dstStride % 8 != 0))

/-- Do two runs of n bytes share a byte? -/
def runsMeet (n : Nat) (x y : Nat × Nat) : Bool := x.1 == y.1 && decide (x.2 < y.2 + n) && decide (y.2 < x.2 + n)

/-- The reason a transfer is refused for, 0 where it is not (R192). -/
def Mach.xferRefused (m : Mach) (ctx : Nat) (d : XferDesc) : Nat :=
  let rows := List.range d.checkRows
  if d.rowBytes != 0 && rows.any fun i => (m.xferSrc ctx d i).isNone || (m.xferDst ctx d i).isNone then 1
  else if d.shapeBad then 2
  else if d.rowBytes != 0 && (rows.filterMap (m.xferSrc ctx d)).any fun x =>
      (rows.filterMap (m.xferDst ctx d)).any fun y => runsMeet d.rowBytes x y then 3
  else 0

/-! ## Completion -/

/-- Held SIGNALs of a core whose earlier transfers have all completed are sent (R194). -/
def Mach.releaseHeld (m : Mach) (q : Nat) : Mach :=
  let c := m.getCore q
  let free (h : HeldSignal) : Bool := !c.xfers.any fun x => decide (x.ord < h.before)
  let go := c.held.filter free
  let m := m.modCore q fun c => { c with held := c.held.filter fun h => !free h }
  go.foldl (fun m h => m.counterAdd (q / 16) (m.causeOf c.bind.slot) h.counter h.inc) m

/-- A core in DRAIN goes on once no transfer of it is left. -/
def Mach.endDrain (m : Mach) (q : Nat) : Mach :=
  let c := m.getCore q
  if c.run = .waiting && c.draining && c.xfers.isEmpty then m.wake q else m

/-- A transfer whose every byte is written, or every add applied, completes: its counter rises by INCREMENT, all at once
(R190). -/
def Mach.xferEnd (m : Mach) (q ord : Nat) : Mach :=
  let c := m.getCore q
  match c.xfers.find? fun x => x.ord == ord && x.reads.isEmpty && x.writes.isEmpty && !x.lost with
  | none => m
  | some x =>
    let m := m.modCore q fun c => { c with xfers := c.xfers.filter fun y => y.ord != ord }
    let m := m.counterAdd (q / 16) (m.causeOf c.bind.slot) x.desc.counter x.desc.increment
    let m := (m.thd (q / 16) (some (q % 16)) 0x08 1).thd (q / 16) (some (q % 16)) 0x09 (x.desc.rows * x.desc.rowBytes)
    (m.releaseHeld q).endDrain q

/-- Source bytes of transfer `ord` of core q failed twice: the transfer will not complete, and the step cannot commit (R190, R379). -/
def Mach.xferLost (m : Mach) (q ord : Nat) : Mach :=
  (m.modCore q fun c => { c with xfers := c.xfers.map fun x => if x.ord = ord then { x with lost := true } else x }).readFailed
    (m.getCore q).bind.slot .working

/-- Put one run of source bytes at its destination, for transfer `ord` of core q. -/
def Mach.xferPut (m : Mach) (q ord : Nat) (op mod a : Nat) (bs : List Byte) : Mach :=
  let slot := (m.getCore q).bind.slot
  let w := m.causeOf slot
  let r := if op = 1 then m.putAdds (q / 16) w slot mod a bs else m.putBytes (q / 16) w slot mod a bs
  r.2.modCore q fun c =>
    { c with xfers := c.xfers.map fun x => if x.ord = ord then { x with writes := x.writes ++ r.1 } else x }

/-- Move row i: a local source is read and put at once; a remote one is asked for, piece by piece. -/
def Mach.xferRow (m : Mach) (q ord : Nat) (d : XferDesc) (i : Nat) : Mach :=
  let c := m.getCore q
  match m.xferSrc c.bind.ctx d i, m.xferDst c.bind.ctx d i with
  | some (sm, sa), some (dm, da) =>
    if d.rowBytes = 0 then m
    else if sm = m.self then
      let r := m.readMem (some (m.causeOf c.bind.slot).domain) .working sa d.rowBytes
      if r.2.1 then r.2.2.xferLost q ord
      else r.2.2.xferPut q ord d.op dm da r.1
    else
      (pieces sa d.rowBytes).foldl (fun m p =>
        let (h, m) := m.handle
        let m := m.sendRead (q / 16) (m.causeOf c.bind.slot) sm p.1 p.2 h
        m.modCore q fun c => { c with xfers := c.xfers.map fun x =>
          if x.ord = ord then
            { x with reads := x.reads ++ [{ handle := h, dstModule := dm, dstAddr := da + (p.1 - sa), len := p.2 }] }
          else x }) m
  | _, _ => m

/-- The lowest tag no transfer of a core holds; a tag is held while source bytes are still to be read (R191). -/
def CoreSt.freeTag (c : CoreSt) : Option Nat :=
  let held := (c.xfers.filter fun x => !x.reads.isEmpty).map (·.tag)
  (List.range 64).find? fun t => !held.contains t

/-- XFER (R190 to R192): refused, stalled while 64 tags are held, or started. -/
def Mach.xfer (m : Mach) (q : Nat) (f : CoreFields) : Mach :=
  let c := m.getCore q
  match c.freeTag with
  | none => m.stall q
  | some tag =>
    let r := m.lsRead q (off8 (c.sreg f.a)) 64
    let m := r.2
    let d := XferDesc.ofBytes r.1
    let why := m.xferRefused c.bind.ctx d
    if why ≠ 0 then
      let m := m.modCore q fun c => { c with dmaPc := c.pc, dmaReason := BitVec.ofNat 8 why }
      let m := m.event tyCor q 7
      let m := m.counterAdd (q / 16) (m.causeOf c.bind.slot) d.counter d.increment
      (m.abortCond c.bind.slot (16 + 4)).advance q
    else
      let ord := c.xferOrd
      let x : Xfer := { tag := tag, ord := ord, desc := d, reads := [], writes := [] }
      let m := m.modCore q fun c => { c with xfers := c.xfers ++ [x], xferOrd := ord + 1 }
      let m := (List.range d.rows).foldl (fun m i => m.xferRow q ord d i) m
      (m.xferEnd q ord).advance q

/-- XFER (R190). -/
def execXfer (q : Nat) (f : CoreFields) (s : State) : Host.Outcome State Fault Refusal :=
  .next (s.onMach fun m => m.issue q f 1 0x00 {} fun m => m.xfer q f)

/-- Data of a READ that a transfer of core q waits for (R191): it is put at its destination; failed data is not consumed
(R379). -/
def Mach.xferData (m : Mach) (q h : Nat) (bs : List Byte) (failed : Bool) : Mach :=
  let c := m.getCore q
  match c.xfers.find? fun x => x.reads.any fun r => r.handle == h with
  | none => m
  | some x =>
    let m := m.modCore q fun c => { c with xfers := c.xfers.map fun y =>
      if y.ord = x.ord then { y with reads := y.reads.filter fun r => r.handle != h } else y }
    let m := match x.reads.find? fun r => r.handle == h with
      | none => m
      | some r => if failed then m.xferLost q x.ord
        else m.xferPut q x.ord x.desc.op r.dstModule r.dstAddr (bs.take r.len)
    m.xferEnd q x.ord

/-- An acknowledgement of a write or add that a transfer of core q waits for (R190). -/
def Mach.xferAck (m : Mach) (q key : Nat) : Mach :=
  match (m.getCore q).xfers.find? fun x => x.writes.contains key with
  | none => m
  | some x =>
    (m.modCore q fun c => { c with xfers := c.xfers.map fun y =>
      if y.ord = x.ord then { y with writes := y.writes.erase key } else y }).xferEnd q x.ord

end Sys2Proof.Machine
end

