-- ==== Sys2Proof/Machine/Deliver.lean ====
section
/-!
DEFINITION. What the destination of a packet does with it (R391, R392): reads and writes of memory with their responses,
adds at sites and sums (R167, R374), counts, losses (R388, R389) and control messages; and the comparison of step tags
(R455).
-/
namespace Sys2Proof.Machine

/-! ## Step tags (R455) -/

/-- Does a module's current tag accept a packet's tag (R455)? Traverse work has attempt 3. -/
def tagAccepts (current tag : BitVec 16) (aborting : Bool) : Bool :=
  if tag.toNat % 4 = 3 then decide ((tag.toNat / 4 + 16384 - current.toNat / 4) % 16384 ≤ 5)
  else tag == current && !aborting

/-- Is a packet of the request, response or posted class accepted (R455)? -/
def Mach.accepts (m : Mach) (p : Packet) : Bool :=
  p.job == 0 ||
    match (m.slotOfJob p.job).bind m.job? with
    | none => false
    | some j => match j.tag with
      | none => false
      | some t => tagAccepts t p.tag j.part.aborting

/-- Count a late packet (R455, R514). -/
def Mach.lateDiscard (m : Mach) (p : Packet) : Mach :=
  ({ m with flt := { m.flt with late := m.flt.late + 1 } }.event tyFlt 0 3).thdGlobal p.domain 8 1

/-- The effect of a packet of an operation that has been delivered: it is consumed, and applied where its tag is current. -/
def Mach.onPacket (m : Mach) (p : Packet) (op : Nat) (g : Mach → Nat → Mach) : Mach :=
  match m.arrived.find? fun a => a.pkt == p && p.op == op with
  | none => m
  | some a =>
    let m := { m with arrived := m.arrived.erase a }
    if p.tc = 3 || m.accepts p then g m a.target else m.lateDiscard p

/-- Answer a request: the response goes back to its source with its handle (R391). -/
def Mach.respond (m : Mach) (target : Nat) (p : Packet) (op addr ctr : Nat) (data : List Byte) : Mach :=
  m.send target { dst := p.src, src := 0, tc := 1, op := op, job := p.job, domain := p.domain, tag := p.tag, addr := addr,
                  ctr := ctr, len := data.length, arg := p.arg, data := data }

/-- The job a packet is sent for, for the conditions that it raises. -/
def Mach.slotOfPacket (m : Mach) (p : Packet) : Nat := (m.slotOfJob p.job).getD 64

/-! ## Requests -/

/-- What a granule of a job holds, for a failed access (R379): masters, optimiser states, directories, preconditioners and undo logs
placed on this module are committed data, the rest working data. -/
def Mach.kindAt (m : Mach) (slot a : Nat) : DataKind :=
  match m.job? slot with
  | none => .working
  | some j =>
    let within (lo n : Nat) : Bool := decide (lo ≤ a) && decide (a < lo + n)
    let held (p : Placed) : Bool := match p.kind with
      | 0 => (p.addrs.take 3).any fun lo => within lo (4 * p.count * (m.groupDesc j p.id).cols)
      | 2 => p.addrs.any fun lo => within lo (8 * (m.precondDesc j p.id).n ^ 2)
      | 3 => within (p.addrs.headD 0) (p.pitch * p.count) || within (p.addrs.getD 1 0) (2 * p.pitch * p.count) ||
             within (p.addrs.getD 2 0) (8 * p.count)
      | 4 => within (p.addrs.headD 0) (j.logPlaced.toNat * 2 ^ 24)
      | _ => false
    if j.placed.any held then .committed else .working

/-- Is there memory of this module behind every byte that a packet names (R27, R364, R367)? Of one that names other bytes, the register
window among them, nothing is done and nothing is answered (DESIGN CHOICE). -/
def Mach.serves (m : Mach) (p : Packet) : Bool := m.populated p.addr p.len

/-- A READ: its data, or word that a granule failed twice (R379; DESIGN CHOICE: CTR 1 of READ_DATA says so). -/
def Mach.onRead (m : Mach) (p : Packet) (target : Nat) : Mach :=
  if !m.serves p then m
  else
    let r := m.readMem (some p.domain) (m.kindAt (m.slotOfPacket p) p.addr) p.addr p.len
    r.2.2.respond target p 0x10 p.addr (b2n r.2.1) r.1

/-- READ (R391). -/
def execReadReq (p : Packet) (s : State) : Host.Outcome State Fault Refusal :=
  .next (s.onMach fun m => m.onPacket p 0x01 fun m t => m.onRead p t)

/-- Data of a packet written to memory; a partly written granule that fails its read is reported to the packet's step
(R380). -/
def Mach.packetWrite (m : Mach) (p : Packet) : Mach :=
  let kind := m.kindAt (m.slotOfPacket p) p.addr
  let r := m.writeMem (some p.domain) kind p.addr p.data
  (r.2.onFail r.1 (m.slotOfPacket p) kind).progress p.job

/-- A WRITE: the data, the counter of the cluster where the write came from elsewhere, the acknowledgement. -/
def Mach.onWrite (m : Mach) (p : Packet) (target : Nat) : Mach :=
  if !m.serves p then m
  else
  let m := m.packetWrite p
  let m := if m.clusterPresent target && p.src != m.station target then m.closureAdd target p.ctr 1 else m
  m.respond target p 0x11 p.addr 0 []

/-- WRITE (R391). -/
def execWriteReq (p : Packet) (s : State) : Host.Outcome State Fault Refusal :=
  .next (s.onMach fun m => m.onPacket p 0x02 fun m t => m.onWrite p t)

/-- An ADD_ACKED: each contribution is applied; its acknowledgement names it by its SEQ (DESIGN CHOICE: ARG of an
ADD_ACKED holds the number of contributions and so no handle). -/
def Mach.onAddAcked (m : Mach) (p : Packet) (target : Nat) : Mach :=
  if m.serves p then
    ((m.addWords (m.slotOfPacket p) p.addr (words8 p.data)).progress p.job).respond target p 0x11 p.seq.toNat 1 []
  else m

/-- ADD_ACKED (R391). -/
def execAddAcked (p : Packet) (s : State) : Host.Outcome State Fault Refusal :=
  .next (s.onMach fun m => m.onPacket p 0x03 fun m t => m.onAddAcked p t)

/-! ## Responses -/

/-- What goes on once an owner's data has come: the commit unit's readings, and the lookup closure. The engines go on at
their own commands. -/
def Mach.fetchDone (m : Mach) (o : Owner) : Mach :=
  match o with
  | .cmt slot => ((m.tryUpdate slot).tryRaise slot).tryApply slot
  | .prefetch k => match m.slotOfCluster k with
    | some slot => m.tryReduce slot
    | none => m
  | _ => m

/-- READ_DATA: it fills the read that waits for it, or moves a transfer on. -/
def Mach.onReadData (m : Mach) (p : Packet) (target : Nat) : Mach :=
  let m := m.progress p.job
  match m.fetches.find? fun f => f.handle == p.arg && f.data.isNone with
  | some f =>
    let fill (x : Fetch) : Fetch := if x.handle = f.handle then { x with data := some p.data, failed := p.ctr == 1 } else x
    { m with fetches := m.fetches.map fill }.fetchDone f.owner
  | none =>
    if target < 640 then
      (List.range 16).foldl (fun m i => m.xferData (16 * target + i) p.arg p.data (p.ctr == 1)) m
    else m

/-- READ_DATA (R391). -/
def execReadData (p : Packet) (s : State) : Host.Outcome State Fault Refusal :=
  .next (s.onMach fun m => m.onPacket p 0x10 fun m t => m.onReadData p t)

/-- An acknowledged write of the engines of cluster k is no longer waited for. -/
def Mach.ackEngines (m : Mach) (k key : Nat) : Mach :=
  let m := m.modTrv k fun t => { t with work := t.work.map fun w => { w with writes := w.writes.erase key } }
  let m := m.modGth k fun g => { g with work := g.work.map fun w => { w with writes := w.writes.erase key } }
  m.modSpr k fun e => { e with work := e.work.map fun w => { w with writes := w.writes.erase key } }

/-- An acknowledged write of an apply is no longer held (R389). -/
def Mach.ackRefresh (m : Mach) (key : Nat) : Mach :=
  (List.range 64).foldl (fun m slot => m.modJob slot fun j =>
    { j with part := { j.part with refresh := j.part.refresh.filter fun r => r.handle != key } }) m

/-- WRITE_ACK: the write or add it names is complete. -/
def Mach.onWriteAck (m : Mach) (p : Packet) (target : Nat) : Mach :=
  let key := if p.ctr = 1 then addKey p.src (BitVec.ofNat 32 p.addr) else p.arg
  let m := m.ackRefresh key
  if target < 640 then
    (List.range 16).foldl (fun m i => m.xferAck (16 * target + i) key) (m.ackEngines target key)
  else m

/-- WRITE_ACK (R391). -/
def execWriteAck (p : Packet) (s : State) : Host.Outcome State Fault Refusal :=
  .next (s.onMach fun m => m.onPacket p 0x11 fun m t => m.onWriteAck p t)

/-- REG_ACK: a register write of this module's is complete. -/
def execRegAck (p : Packet) (s : State) : Host.Outcome State Fault Refusal :=
  .next (s.onMach fun m => m.onPacket p 0x13 fun m _ => { m with regOut := m.regOut.filter fun r => r.1 != p.arg })

/-- REG_DATA: a register read of this module's is complete; its data is kept under its handle. -/
def execRegData (p : Packet) (s : State) : Host.Outcome State Fault Refusal :=
  .next (s.onMach fun m => m.onPacket p 0x12 fun m _ =>
    { m with regOut := m.regOut.filter fun r => r.1 != p.arg, regIn := m.regIn ++ [(p.arg, leNat p.data)] })

/-! ## Posted packets -/

/-- POSTED_WRITE (R391). -/
def execPostedWrite (p : Packet) (s : State) : Host.Outcome State Fault Refusal :=
  .next (s.onMach fun m => m.onPacket p 0x20 fun m _ => if m.serves p then m.packetWrite p else m)

/-- The placed shard whose master rows hold an offset, with the row and the element there (R167). -/
def Job.siteOf (j : Job) (a : Nat) : Option (Placed × Nat × Nat) :=
  match j.placed.find? fun p => p.kind == 3 && decide (p.addrs.headD 0 ≤ a) &&
      decide (a < p.addrs.headD 0 + p.pitch * p.count) with
  | none => none
  | some p =>
    let o := a - p.addrs.headD 0
    some (p, p.first + o / p.pitch, o % p.pitch / 4)

/-- Give a row a site: the next of the pool's, its values and its count zero (R167). -/
def Mach.takeSite (m : Mach) (slot : Nat) (p : Placed) (row index : Nat) : Mach :=
  let m := m.zeroMem (p.siteAt index) p.siteBytes
  let r := m.writeMem none .working (p.countAt index) (leBytes 8 0)
  (r.2.onFail r.1 slot .working).modJob slot fun j =>
    { j with sites := j.sites ++ [{ table := p.table, row := row, shard := p.shard, index := index }] }

/-- Apply an add at the site of a table row: the site is taken on its first add of the step; a full pool halts the job
(R167, R168); the words are added, and ARG to the count (R79, R374). -/
def Mach.siteAdd (m : Mach) (slot : Nat) (j : Job) (at' : Placed × Nat × Nat) (count : Nat) (ns : List Nat) : Mach × Bool :=
  let (p, row, elem) := at'
  let mine (x : Site) : Bool := x.table == p.table && x.row == row && x.shard == p.shard
  let here := j.sites.filter fun x => x.table == p.table && x.shard == p.shard
  let index := ((here.find? mine).map (·.index)).getD here.length
  if !here.any mine && decide (2 ^ p.siteShift ≤ here.length) then (m.abortCond slot (16 + 3), false)
  else
    let m := if here.any mine then m else m.takeSite slot p row index
    let m := (m.addWords slot (p.siteAt index + 8 * elem) ns).addWords slot (p.countAt index) [count]
    let past := decide (65536 < m.peekNat (p.countAt index) 8)
    let new := past && !j.rangeGrad.contains p.table
    let m := if past then m.modJob slot fun j =>
        { j with sites := j.sites.map fun x => if mine x then { x with ranged := true } else x,
                 rangeGrad := if new then j.rangeGrad ++ [p.table] else j.rangeGrad }
      else m
    (if new then m.abortCond slot 3 else m, true)

/-- A segment add of a sparse engine of this module has been applied (R242). -/
def Mach.ackAdd (m : Mach) (p : Packet) : Mach :=
  if stModule p.src = m.self && decide (stLocal p.src < 640) then m.ackEngines (stLocal p.src) (redKey p.src p.dst p.seq)
  else m

/-- A record whose count word an add has reached marks GRAD_RANGE once it counts more than 65,536 contributions (R79, R237, R239). -/
def Mach.countRecord (m : Mach) (slot : Nat) (j : Job) (a : Nat) : Mach :=
  match j.recordArrays.find? fun r => decide (r.base ≤ a) && decide (a < r.base + r.pitch * r.rows) && (a - r.base) % r.pitch == 0 with
  | some r => if 65536 < m.peekNat a 8 && !j.rangeReduce.contains r.reduce then m.markReduce slot r.reduce else m
  | none => m

/-- RED64_ADD: applied at the site or the words it names, and counted once in APPLIED (R308). -/
def Mach.onRedAdd (m : Mach) (p : Packet) : Mach :=
  if !m.serves p then m
  else
  let m := (m.progress p.job).ackAdd p
  match m.slotOfJob p.job with
  | none => m.addWords 64 p.addr (words8 p.data)
  | some slot =>
    match m.job? slot with
    | none => m
    | some j =>
      let r := match j.siteOf p.addr with
        | some x => m.siteAdd slot j x p.arg (words8 p.data)
        | none => ((m.addWords slot p.addr (words8 p.data)).countRecord slot j p.addr, true)
      if r.2 then (r.1.modJob slot fun j => { j with applied := j.applied + 1 }).tryReduce slot else r.1

/-- RED64_ADD (R391). -/
def execRed64Add (p : Packet) (s : State) : Host.Outcome State Fault Refusal :=
  .next (s.onMach fun m => m.onPacket p 0x21 fun m _ => m.onRedAdd p)

/-- COUNT (R193, R391): a fenced cluster takes none (R27). -/
def execCount (p : Packet) (s : State) : Host.Outcome State Fault Refusal :=
  .next (s.onMach fun m => m.onPacket p 0x22 fun m t =>
    if m.clusterPresent t then m.closureAdd t p.ctr (BitVec.ofNat 32 p.arg) else m)

/-! ## Control packets -/

/-- Send the held writes of an apply again, each from the unit that sent it: a LINK_LOSS does not say which were lost, and a second
delivery of one that arrived changes nothing (R389). -/
def Mach.resendRefresh (m : Mach) (slot : Nat) : Mach :=
  match m.job? slot with
  | none => m
  | some j =>
    let r := j.part.refresh.foldl (fun (acc : List RefreshOut × Mach) r =>
      let x := acc.2.sendWrite r.unit (m.causeOf slot) r.module r.addr r.data
      (acc.1 ++ [{ r with handle := x.1 }], x.2)) ([], m)
    r.2.modJob slot fun j => { j with part := { j.part with refresh := r.1 } }

/-- One pair of a LINK_LOSS (R388, R389, R454): the current attempt takes an abort condition with reason 4; a step that
commits sends its writes again; traverse work sends its reads again. -/
def Mach.lossOf (m : Mach) (id : Nat) (tag : BitVec 16) : Mach :=
  match m.slotOfJob id with
  | none => m
  | some slot =>
    match m.job? slot with
    | none => m
    | some j =>
      if tag.toNat % 4 = 3 then
        let ks := m.jobClusters j
        let lost (f : Fetch) : Bool := f.data.isNone && match f.owner with
          | .trv k _ => ks.contains k
          | .trvStart k => ks.contains k
          | _ => false
        { m with fetches := m.fetches.filter fun f => !lost f }.abortCond slot 4
      else if j.tag = some tag then
        (if j.state = .applying then m.resendRefresh slot else m).abortCond slot 4
      else m.stale

/-- The pairs of job and step tag that a LINK_LOSS carries. -/
def lossPairs (bs : List Byte) : List (Nat × BitVec 16) :=
  (splitLe 4 (bs.length / 4) bs).map fun w => (w % 65536, BitVec.ofNat 16 (w / 65536))

/-- LINK_LOSS at the commit unit (R388). -/
def execLinkLoss (p : Packet) (s : State) : Host.Outcome State Fault Refusal :=
  .next (s.onMach fun m => m.onPacket p 0x31 fun m t =>
    if t = cmtUnit then (lossPairs p.data).foldl (fun m x => m.lossOf x.1 x.2) m else m)

/-- CONTROL: delivered to the endpoint. A commit message stays for the command of its kind (R312); any other message is
kept for the unit it was sent to. -/
def execControl (p : Packet) (s : State) : Host.Outcome State Fault Refusal :=
  .next (s.onMach fun m =>
    match m.arrived.find? fun a => a.pkt == p && p.op == 0x30 with
    | none => m
    | some a =>
      let kind := cmdN p.data 0 1
      if a.target = cmtUnit && decide (1 ≤ kind) && decide (kind ≤ 13) then m
      else
        let m := { m with arrived := m.arrived.erase a }
        if a.target = cmtUnit then m else { m with inbox := m.inbox ++ [a] })

end Sys2Proof.Machine
end

