-- ==== Sys2Proof/Machine/Link.lean ====
section
/-!
DEFINITION. The link ports (chapter 15): frames and link retry (R386, R387), exhausted episodes (R388), training (R384,
R385), drain markers (R404) and the global time base (R409).
-/
namespace Sys2Proof.Machine

/-- Domains that have a running job on the module, for RETRY records (R517). -/
def Mach.runningDomains (m : Mach) : List Nat :=
  ((m.cmt.jobs.filterMap fun e => e.2).filter fun j => j.started).map (·.domain) |>.eraseDups

/-- A retry episode of a port has ended (R388, R516): its RETRY records. -/
def Mach.episodeEnd (m : Mach) (port resends : Nat) (exhausted : Bool) : Mach :=
  let m := m.modLnk port fun l => { l with episode := none, ninth := false }
  m.runningDomains.foldl (fun m d =>
    m.trace d 4 0 0 (m.self * 8192) 0 (port + resends % 256 * 256 + b2n exhausted * 65536)) m

/-- An acknowledgement of every frame up to link sequence number a (R387). -/
def Mach.ackFrames (m : Mach) (port : Nat) (a : BitVec 12) : Mach :=
  let l := m.getLnk port
  if !l.replay.any fun f => f.seq == a then m
  else
    let gone := l.replay.takeWhile fun f => f.seq != a
    let rest := (l.replay.dropWhile fun f => f.seq != a).drop 1
    let acked := gone ++ (l.replay.filter fun f => f.seq == a)
    let m := m.modLnk port fun l => { l with replay := rest }
    let m := match l.episode with
      | some (f, _) =>
        match acked.find? (fun (x : TxFrame) => x.seq == f) with
        | some x => m.episodeEnd port x.resends false
        | none => m
      | none => m
    m.refill port

/-- Resend go-back-N from frame n (R387): every frame from it on; the first resend of a frame begins an episode (R388). Where the frame of
the episode would need a ninth resend, nothing is sent: the episode is exhausted. -/
def Mach.resendFrom (m : Mach) (port : Nat) (n : BitVec 12) : Mach :=
  let l := m.getLnk port
  if !(l.replay.any fun f => f.seq == n) then m
  else
    let before := l.replay.takeWhile fun f => f.seq != n
    let again := l.replay.dropWhile fun f => f.seq != n
    let k := again.length
    let e := l.episode.getD (n, m.now)
    if again.any fun f => f.seq == e.1 && decide (8 ≤ f.resends) then
      m.modLnk port fun l => { l with episode := some e, ninth := true }
    else
    let m := m.modLnk port fun l =>
      { l with replay := before ++ again.map fun f => { f with resends := f.resends + 1, sentAt := m.now },
               resends := l.resends + BitVec.ofNat 48 k, framesTx := l.framesTx + BitVec.ofNat 48 k, episode := some e }
    (List.range 16).foldl (fun m d => m.thdGlobal d 9 k) m

/-- A negative acknowledgement that names frame n: the frames before it have been accepted (R387). -/
def Mach.nackFrames (m : Mach) (port : Nat) (n : BitVec 12) : Mach :=
  let l := m.getLnk port
  let m := if (l.replay.any fun f => f.seq == n) && (l.replay.any fun f => f.seq == n - 1) then m.ackFrames port (n - 1)
    else m
  m.resendFrom port n

/-- Signed 32-bit form of a time offset. -/
def offsetBits (x : Int) : BitVec 32 := BitVec.ofInt 32 x

/-- A follower takes the four stamps of an exchange on its parent port (R409): t1 and t2 at which the parent sent and the follower took a
frame, t3 and t4 at which the follower sent and the parent took one, so that the offset is the follower's time less the parent's. It is
locked while the offset is within 20 ns, and slews the offset off. -/
def Mach.takeStamps (m : Mach) (t1 t2 t3 t4 : Nat) : Mach :=
  let off : Int := (((t2 : Int) - t1) - ((t4 : Int) - t3)) / 2
  let lock := decide (off.natAbs ≤ 20)
  let lost := m.time.locked && !lock
  let m := { m with time := { m.time with offset := offsetBits off, slew := -off, locked := lock } }
  if lost then m.event tyRte 0 6 else m

/-- What a control frame does (R386, R387, R399, R404, R407, R409). -/
def Mach.takeControl (m : Mach) (port : Nat) (c : CtlFrame) : Mach :=
  let t := port / 12
  let m := match c.ack with
    | some a => m.ackFrames port a
    | none => m
  let m := match c.nack with
    | some n => m.nackFrames port n
    | none => m
  let m := c.credits.foldl (fun m vc => m.modLnk port fun l => { l with used := Tab.upd 0 l.used vc.1 (· - vc.2) }) m
  let m := m.modRte t fun r => { r with inbox := r.inbox ++ c.markers.map fun vc => (port % 12, vc) }
  let m := match c.ranks with
    | some (a, b) => m.modLnk port fun l => { l with rank0 := a, rank1 := b }
    | none => m
  let m := match c.echo with
    | some (sent, taken) =>
      if !m.time.root && t == 0 && port % 12 == m.time.parent.toNat then m.takeStamps c.stamp m.now sent taken else m
    | none => m
  (m.modLnk port fun l => { l with echo := some (c.stamp, m.now) }).drain

/-- The content bytes of a frame: the cells of its packet, or control, filled to 636 bytes (R386; DESIGN CHOICE: with zeros). -/
def frameBytes (c : Packet ⊕ CtlFrame) : List Byte :=
  let bs := match c with
    | .inl p => packetBytes p
    | .inr k => Config.controlBytes k
  (bs ++ List.replicate (636 - bs.length) 0).take 636

/-- The CRC-32C of a frame's content (R386). -/
def frameCrc (c : Packet ⊕ CtlFrame) : BitVec 32 := BitVec.ofNat 32 (crc32c (frameBytes c))

/-- Is a frame accepted: the decoder corrected every symbol error of its codeword, and its CRC matches (R387)? -/
def frameGood (fr : Frame) : Bool := fr.decoded && fr.crc == frameCrc fr.content

/-- How many frames n comes after the next frame to accept. -/
def Lnk.ahead (l : Lnk) (n : BitVec 12) : Nat := (n - l.rxSeq).toNat

/-- The signal lane on which frame n of a port travels (R384). -/
def Lnk.laneOf (l : Lnk) (port : Nat) (n : BitVec 12) : Nat := 8 * port + l.group.toNat + n.toNat % l.width.toNat

/-- Refuse frame n: it and every later frame is discarded until it comes again, and the negative acknowledgement names it. An earlier
refusal stands (R387). -/
def Lnk.refuse (l : Lnk) (n : BitVec 12) : Lnk :=
  let n := match l.refused with
    | some r => if l.ahead n < l.ahead r then n else r
    | none => n
  { l with refused := some n, owedNack := some n, early := l.early.filter fun f => decide (l.ahead f.seq < l.ahead n) }

/-- A port passes on the next frame in its order, if it has come: a packet to its router, control to the port (R384, R387). -/
def Mach.acceptNext (m : Mach) (port : Nat) : Mach :=
  let l := m.getLnk port
  match l.early.find? fun f => f.seq == l.rxSeq with
  | none => m
  | some fr =>
    let m := m.modLnk port fun l =>
      { l with early := l.early.filter fun f => f.seq != fr.seq, framesRx := l.framesRx + 1, rxSeq := l.rxSeq + 1,
               owedAck := some fr.seq }
    match fr.content with
    | .inl p => m.modRte (port / 12) fun r => { r with held := r.held ++ [{ pkt := p, input := port % 12 }] }
    | .inr c => m.takeControl port c

/-- A port takes a frame (R384, R387): an accepted frame goes on in the port's order, which frames of other lanes may have run ahead of; a
frame that fails its decoder or CRC is refused and named in a negative acknowledgement, and so is the next frame where one comes that
its lane carries after it. A frame that has been accepted before is acknowledged again (DESIGN CHOICE). -/
def Mach.takeFrame (m : Mach) (port : Nat) (fr : Frame) : Mach :=
  let l := m.getLnk port
  if l.state != .up then m
  else
    let m := m.modLnk port fun l => { l with corrected := l.corrected + BitVec.ofNat 48 fr.corrected }
    let d := l.ahead fr.seq
    if !frameGood fr then (m.modLnk port fun l => if d < 2048 then l.refuse fr.seq else l).event tyLnk port 0
    else if 2048 ≤ d then m.modLnk port fun l => { l with owedAck := some (l.rxSeq - 1) }
    else
      let later := match l.refused with
        | some r => decide (l.ahead r < d)
        | none => false
      if later then m
      else if max 1 l.width.toNat ≤ d && l.refused != some fr.seq then m.modLnk port fun l => l.refuse l.rxSeq
      else
        let m := m.modLnk port fun l =>
          { l with early := (l.early.filter fun f => f.seq != fr.seq) ++ [fr],
                   refused := if l.refused = some fr.seq then none else l.refused }
        (List.range (l.early.length + 1)).foldl (fun m _ => m.acceptNext port) m

/-- FRAME_RECEIVED (R387). -/
def execFrameReceived (port : Nat) (fr : Frame) (s : State) : Host.Outcome State Fault Refusal :=
  .next (s.onMach fun m => if port < 48 then m.takeFrame port fr else m)

/-- A frame neither acknowledged nor refused 2 µs after it was last sent is resent as if refused (R387). -/
def Mach.ackTimeout (m : Mach) (port : Nat) : Mach :=
  let l := m.getLnk port
  if l.state != .up then m
  else
    match l.replay.find? fun (f : TxFrame) => decide (f.sentAt + 2000 ≤ m.now) with
    | some f => m.resendFrom port f.seq
    | none => m

/-- FRAME_ACK_TIMEOUT (R387). -/
def execFrameAckTimeout (port : Nat) (s : State) : Host.Outcome State Fault Refusal :=
  .next (s.onMach fun m => m.ackTimeout port)

/-- Router t sends a LINK_LOSS packet to the commit unit of a module, for one pair of job and step tag (R388, R391). DESIGN CHOICE: it
bears the station of this module's commit unit and comes in by the router's own code 16. -/
def Mach.sendLoss (m : Mach) (t dest job : Nat) (tag : BitVec 16) : Mach :=
  let r := m.numbered cmtUnit { dst := dest * 8192 + cmtUnit, src := 0, tc := 3, op := 0x31, len := 4, arg := 1,
                                data := leBytes 2 job ++ leBytes 2 tag.toNat }
  r.2.modRte t fun x => { x with held := x.held ++ [{ pkt := { r.1 with epoch := x.inject, inject := fld m.now 4 24 }, input := 16 }] }

/-- A port leaves the up state: control packets and packets not yet framed go back to the router, every other packet of
the replay buffer is discarded with its LINK_LOSS, and the port retrains (R388). -/
def Mach.leaveUp (m : Mach) (port : Nat) : Mach :=
  let l := m.getLnk port
  let t := port / 12
  let framed := l.replay.filterMap TxFrame.packet?
  let gone := framed.filter fun p => p.tc != 3
  let back (m : Mach) (ps : List Packet) : Mach :=
    m.modRte t fun r => { r with held := r.held ++ ps.map fun p => { pkt := p, input := 16 } }
  let m := (back m (framed.filter fun p => p.tc == 3)).event tyLnk port 4 gone.length
  let losses := (gone.map fun p => (stModule p.src, p.job, p.tag)).eraseDups
  let m := back (losses.foldl (fun m x => m.sendLoss t x.1 x.2.1 x.2.2) m) l.queue
  let m := m.modLnk port fun l =>
    { l with state := .retraining, width := 0, replay := [], queue := [], used := [], episode := none, ninth := false, txSeq := 0,
             rxSeq := 0, refused := none, early := [], owedAck := none, owedNack := none, owedCredit := [], owedMarkers := [],
             owedRanks := false, echo := none, sinceControl := 0, retrains := l.retrains + 1 }
  m.drain

/-- Is the retry episode of a port exhausted (R388)? -/
def Mach.episodeSpent (m : Mach) (port : Nat) : Bool :=
  let l := m.getLnk port
  match l.state, l.episode with
  | .up, some (_, t0) => l.ninth || decide (t0 + 40000 ≤ m.now)
  | _, _ => false

/-- RETRY_EXHAUSTED (R388). -/
def Mach.retryExhausted (m : Mach) (port : Nat) : Mach :=
  if m.episodeSpent port then
    let l := m.getLnk port
    let n := match l.episode with
      | some (f, _) => ((l.replay.find? fun x => x.seq == f).map (·.resends)).getD 0
      | none => 0
    let m := (m.event tyLnk port 1).episodeEnd port n true
    (m.leaveUp port).modLnk port fun l => { l with exhausted := true }
  else m

/-- RETRY_EXHAUSTED (R388). -/
def execRetryExhausted (port : Nat) (s : State) : Host.Outcome State Fault Refusal :=
  .next (s.onMach fun m => if port < 48 then m.retryExhausted port else m)

/-- Training of a port ends (R384, R385): up at the widest aligned group of lanes that pass in both directions and are
fenced at neither end, once all six steps have completed, or down at the step that failed. The identity counts from step 4 on. -/
def Mach.trainingDone (m : Mach) (port : Nat) (r : Training) : Mach :=
  let l := m.getLnk port
  let pass (j : Nat) : Bool := r.passing.getLsbD j
  let ok (j : Nat) : Bool := pass j && !r.farFenced.getLsbD j && !m.laneFenced (8 * port + j)
  let g := if 6 ≤ r.steps then widestGroup ok else (0, 0)
  let up := g.1 != 0
  let known := decide (4 ≤ r.steps)
  let changed := known && l.remoteValid &&
    (l.remoteModule != BitVec.ofNat 11 r.remoteModule || l.remotePort != BitVec.ofNat 6 r.remotePort)
  let failing := (List.range 8).filter fun j => !pass j && !m.laneFenced (8 * port + j) && !r.farFenced.getLsbD j
  let m := m.modLnk port fun l =>
    { l with state := if up then .up else .down, width := BitVec.ofNat 4 g.1, group := BitVec.ofNat 3 g.2,
             passing := r.passing, exhausted := false, lastWidth := if up then g.1 else l.lastWidth,
             remoteValid := l.remoteValid || known,
             remoteModule := if known then BitVec.ofNat 11 r.remoteModule else l.remoteModule,
             remotePort := if known then BitVec.ofNat 6 r.remotePort else l.remotePort,
             rank0 := if known then r.rank0 else l.rank0, rank1 := if known then r.rank1 else l.rank1 }
  let m := if up && decide (g.1 < l.lastWidth) then m.event tyLnk port 2 else m
  let m := if up then m else m.event tyLnk port 3
  let m := if changed then m.event tyLnk port 5 else m
  let m := if !up && port / 12 == 0 && port % 12 == m.time.parent.toNat && !m.time.root && m.time.locked then
      { m with time := { m.time with locked := false } }.event tyRte 0 6
    else m
  let m := if decide (6 ≤ r.steps) || r.passing != 0 then failing.foldl (fun m j =>
      m.fault { kind := 3, event := 8, unit := 8 * port + j, severity := 0, station := m.self * 8192 }) m
    else m
  let m := if l.exhausted then
      m.fault { kind := 9, event := 1, unit := port, severity := 0, rung := 3, detail := g.1, station := m.self * 8192 }
    else m
  m.drain

/-- PORT_TRAINING_DONE (R385): for a port that is training or retraining. -/
def execPortTrainingDone (port : Nat) (r : Training) (s : State) : Host.Outcome State Fault Refusal :=
  .next (s.onMach fun m =>
    if port < 48 && ((m.getLnk port).state == .training || (m.getLnk port).state == .retraining) then
      m.trainingDone port r
    else m)

/-- A router whose version is DRAINING takes a drain marker that has come in by a hop input (R404); a marker that comes
before its own FLIP stays until then. The markers of an input have arrived when one has for each of its four virtual channels of the version. -/
def Mach.takeMarker (m : Mach) (t input vc : Nat) : Mach :=
  let r := m.getRte t
  if r.inbox.contains (input, vc) then
    match (r.ver (vc % 2 == 1)).state with
    | .draining => (m.modRte t fun r => { r with inbox := r.inbox.erase (input, vc) }.mark input (vc / 2)).drain
    | .empty => m.modRte t fun r => { r with inbox := r.inbox.erase (input, vc) }
    | _ => m
  else m

/-- DRAIN_MARKER (R404). -/
def execDrainMarker (tract input vc : Nat) (s : State) : Host.Outcome State Fault Refusal :=
  .next (s.onMach fun m => if tract < 4 then m.takeMarker tract input vc else m)

/-- A rising TIME_PPS_IN edge disciplines a root's time base to the nearest whole second, never backward (R409). -/
def Mach.ppsEdge (m : Mach) : Mach :=
  let m := { m with pins := { m.pins with pps := true } }
  if m.time.root && m.time.pps then
    let ns := (m.now + 500000000) / 1000000000 * 1000000000
    let ns := max m.now ns
    { m with time := { m.time with ns := BitVec.ofNat 64 ns, lastPps := ns } }
  else m

/-- TIME_PPS_EDGE (R409). -/
def execTimePpsEdge (s : State) : Host.Outcome State Fault Refusal := .next (s.onMach Mach.ppsEdge)

/-- No PPS edge for 1.5 s (R409, R413): PPS_MISSING, once per missing second. -/
def Mach.ppsMissing (m : Mach) : Mach :=
  if m.time.root && m.time.pps && decide (m.time.lastPps + 1500000000 ≤ m.now) then
    { m with time := { m.time with lastPps := m.time.lastPps + 1000000000 } }.event tyRte 0 7
  else m

/-- PPS_MISSING (R409). -/
def execPpsMissing (s : State) : Host.Outcome State Fault Refusal := .next (s.onMach Mach.ppsMissing)

end Sys2Proof.Machine
end

