-- ==== Sys2Proof/Machine/Manage.lean ====
section
/-!
DEFINITION. The management processor (chapter 18): firmware images, slots, trial and rollback (R467 to R473), measurements and
attestation (R475, R476), management connections (R477), OEM actions on domains and on the fault history (R415, R459, R478), and
the log (R482).
-/
namespace Sys2Proof.Machine

/-- An event of the management page, which the log also records (R482). -/
def Mach.mgtNote (m : Mach) (e detail : Nat) : Mach := (m.event tyMgt 0 e).mgtEvent e detail

/-- Does Redfish answer: from the end of firmware verification on (R500)? -/
def Mach.redfish (m : Mach) : Bool := !m.rst.inReset && m.mgt.portsUp && decide (5 ≤ m.rst.phase.toNat)

/-! ## The log (R482) -/

/-- The records of the SRAM log that the flash log does not hold yet are copied into its ring. -/
def Mach.flushLog (m : Mach) : Mach :=
  let g := m.mgt
  let room := Config.flashLogRoom + 1
  let new := g.log.drop (g.log.length - g.unflushed)
  let all := g.flashLog ++ new
  let n := g.logSeq.toNat
  let wraps := (n + new.length) / room - n / room
  { m with mgt := { g with flashLog := all.drop (all.length - room), logSeq := g.logSeq + BitVec.ofNat 64 new.length,
                           unflushed := 0 } }.event tyMgt 0 5 wraps

/-- LOG_FLUSH (R482). -/
def execLogFlush (s : State) : Host.Outcome State Fault Refusal := .next (s.onMach Mach.flushLog)

/-! ## Images (R469, R470) -/

/-- A digest as a bit vector, byte 0 lowest. -/
def digestBits (bs : List Byte) : BitVec 512 := BitVec.ofNat 512 (leNat bs)

/-- Key and exponent of a signer, as they are digested (R470). -/
def keyDigest (modulus exponent : Nat) : BitVec 512 := digestBits (sha512 (beBytes 512 modulus ++ leBytes 4 exponent))

/-- The OTP key that signed with a modulus and exponent, when it is one of the four and not revoked. -/
def Mgt.keyIndex (g : Mgt) (modulus exponent : Nat) : Option Nat :=
  let d := keyDigest modulus exponent
  (List.range 4).find? fun i => g.keyDigests[i]? == some d && !g.keysRevoked.getLsbD i

/-- The bytes of the header below SIGNATURE, as its signature covers them. -/
def fwHead (f : FwImage) : List Byte :=
  let z (o n : Nat) : List Byte := (List.range n).map fun i => f.zeros.getD (o + i) 0
  leBytes 2 f.format ++ z 0 2 ++ leBytes 1 f.rollback ++ leBytes 1 f.revoke ++ z 2 2 ++ leBytes 4 f.version.toNat ++
    leBytes 4 f.length ++ leBytes 8 f.build.toNat ++ z 4 8 ++ beBytes 512 f.modulus ++ leBytes 4 f.exponent ++ z 12 988

/-- The digest of header and body, which M1 measures (R475). -/
def fwDigest (f : FwImage) : BitVec 512 := digestBits (sha512 (fwHead f ++ beBytes 512 f.signature ++ f.body))

/-- Result code of an image (R470): 1 where it verifies, otherwise the first check that fails. -/
def Mgt.verify (g : Mgt) (f : FwImage) : Nat :=
  if f.format ≠ 1 || f.zeros.any (· != 0) || decide (16 ≤ f.revoke) || decide (64 < f.rollback) || f.length == 0 ||
      decide (25163776 < f.length) || f.body.length != f.length then 2
  else
    match g.keyIndex f.modulus f.exponent with
    | none => 3
    | some i =>
      if bitAt f.revoke i then 3
      else if !rsaPssVerify f.modulus f.exponent f.signature (fwHead f ++ f.body) then 4
      else if f.rollback < g.rollback then 5 else 1

/-- The image in a slot. -/
def Mgt.image (g : Mgt) (slot : Nat) : Option FwImage := if slot = 0 then g.imageA else g.imageB

/-- Result code of a slot; an empty one has no header. -/
def Mgt.verifySlot (g : Mgt) (slot : Nat) : Nat :=
  match g.image slot with
  | some f => g.verify f
  | none => 2

/-- The slot that does not run takes an image, with its result code (R470, R472). -/
def Mgt.putImage (g : Mgt) (f : FwImage) (code : Nat) : Mgt :=
  if g.slot = 0 then { g with imageB := some f, resultB := BitVec.ofNat 8 code, otherVerified := code == 1 }
  else { g with imageA := some f, resultA := BitVec.ofNat 8 code, otherVerified := code == 1 }

/-- FIRMWARE_UPDATE (R472): the image is written into the slot that does not run, and verified there; MGT_BOOT records the result for
the slot (R470). -/
def Mach.firmwareUpdate (m : Mach) (f : FwImage) : Mach :=
  if !m.redfish then m
  else
    let code := m.mgt.verify f
    let m := { m with mgt := m.mgt.putImage f code }
    if code = 1 then m else m.mgtNote 6 code

/-- FIRMWARE_UPDATE (R472). -/
def execFirmwareUpdate (image : FwImage) (s : State) : Host.Outcome State Fault Refusal :=
  .next (s.onMach fun m => m.firmwareUpdate image)

/-- A write of 1 to MGT_FW_CTRL.ACTIVATE: the other slot is preferred, on trial, where it has verified (R472). -/
def Mach.fwActivate (m : Mach) : Mach :=
  if m.mgt.trial || !m.mgt.otherVerified then m
  else { m with mgt := { m.mgt with preferred := 1 - m.mgt.slot, trial := true } }

/-- A write of 1 to MGT_FW_CTRL.COMMIT: the trial ends, the anti-rollback count rises to the running image's ROLLBACK, and the keys
it names are revoked (R472, R473). -/
def Mach.fwCommit (m : Mach) : Mach :=
  if !m.mgt.trial then m
  else
    let raised := decide (m.mgt.rollback < m.mgt.runRollback)
    let m := { m with mgt := { m.mgt with trial := false, rollback := max m.mgt.rollback m.mgt.runRollback,
                                          keysRevoked := m.mgt.keysRevoked ||| m.mgt.runRevoke } }
    if raised then m.mgtNote 2 m.mgt.rollback else m

/-! ## Measurements and attestation (R475, R476) -/

/-- A measurement register extended with a digest. -/
def extend (reg d : BitVec 512) : BitVec 512 := digestBits (sha512 (leBytes 64 reg.toNat ++ leBytes 64 d.toNat))

/-- M3 is extended with the record of a change. -/
def Mach.measure (m : Mach) (d : Nat) (ch : DomChange) : Mach :=
  { m with mgt := { m.mgt with m3 := extend m.mgt.m3 (Config.changeDigest d ch) } }

/-- M3 is extended where something has changed (R475). -/
def Mach.measureIf (m : Mach) (changed : Bool) (d : Nat) (ch : DomChange) : Mach := if changed then m.measure d ch else m

/-- MOD_STEPPING of B0 (R25). -/
abbrev stepping : Nat := 0xB0

/-- The signed bytes of an attestation report (R476). -/
def Mach.reportBody (m : Mach) (nonce : BitVec 512) : List Byte :=
  leBytes 2 1 ++ leBytes 2 4 ++ leBytes 1 m.mgt.rollback ++ leBytes 3 0 ++ leBytes 8 m.serial.toNat ++ leBytes 4 stepping ++
    leBytes 4 0 ++ leBytes 8 m.now ++ leBytes 64 nonce.toNat ++ leBytes 64 m.mgt.m0.toNat ++ leBytes 64 m.mgt.m1.toNat ++
    leBytes 64 m.mgt.m2.toNat ++ leBytes 64 m.mgt.m3.toNat

/-- A report is signed and sent. -/
def Mach.attest (m : Mach) (nonce : BitVec 512) : Mach :=
  if !m.redfish then m
  else
    let b := m.reportBody nonce
    { m with mgt := { m.mgt with reports := (b ++ beBytes 512 (Config.identitySignature m.serial b).toNat) :: m.mgt.reports } }

/-- ATTESTATION (R476). -/
def execAttestation (nonce : BitVec 512) (s : State) : Host.Outcome State Fault Refusal :=
  .next (s.onMach fun m => m.attest nonce)

/-! ## Management connections (R477) -/

/-- Is a connection accepted: TLS 1.3, one of the two suites, and a certificate that chains to the management CA? -/
def helloAccepted (h : TlsHello) (ca : BitVec 512) : Bool := h.version == 13 && h.suite && h.chain == some ca

/-- TLS_CONNECT (R477). -/
def Mach.tlsConnect (m : Mach) (h : TlsHello) : Mach :=
  if !m.redfish then m
  else if helloAccepted h m.mgt.ca then { m with mgt := { m.mgt with sessions := m.mgt.sessions ++ h.chain.toList } }
  else m.mgtNote 4 h.version

/-- TLS_CONNECT (R477). -/
def execTlsConnect (h : TlsHello) (s : State) : Host.Outcome State Fault Refusal := .next (s.onMach fun m => m.tlsConnect h)

/-! ## Memory of domains (R415 to R418) -/

/-- The parts of a range that another domain than d held last, given who held what, newest first; and what no entry covers is
skipped. -/
def foreignParts (d : Nat) : List (Nat × Nat × Nat) → List (Nat × Nat) → List (Nat × Nat)
  | [], _ => []
  | (a, n, x) :: rest, rs =>
    let cut (r : Nat × Nat) : Nat × Nat := (max r.1 a, min (r.1 + r.2) (a + n) - max r.1 a)
    let hit := (rs.map cut).filter fun r => r.2 != 0
    let left := rs.flatMap fun r =>
      [(r.1, min (r.1 + r.2) a - r.1), (max r.1 (a + n), (r.1 + r.2) - max r.1 (a + n))].filter fun q => q.2 != 0
    (if x = d then [] else hit) ++ foreignParts d rest left

/-- Memory is given to a domain: what another one held last is zeroed first (R417). -/
def Mach.giveMemory (m : Mach) (d : Nat) (rs : List (Nat × Nat)) : Mach :=
  let m := (foreignParts d m.lastHeld rs).foldl (fun m r => m.zeroMem r.1 r.2) m
  { m with lastHeld := rs.map (fun r => (r.1, r.2, d)) ++ m.lastHeld }

/-- The ranges of memory that a domain holds: its host memory and its shares. -/
def Dom.ranges (x : Dom) : List (Nat × Nat) :=
  ((x.hostAt, x.hostmemGib.toNat * 2 ^ 30) :: x.shares).filter fun r => r.2 != 0

/-- Bytes of near tier among ranges. -/
def nearBytes (rs : List (Nat × Nat)) : Nat :=
  rs.foldl (fun (n : Nat) r => match tierOf r.1 with
    | .near _ _ => n + r.2
    | _ => n) 0

/-- Does domain d leave the near tier that other domains' easements reserve, when it holds these ranges (R356)? -/
def Mach.nearLeft (m : Mach) (d : Nat) (rs : List (Nat × Nat)) : Bool :=
  let others := ((List.range 16).filter (· != d)).foldl (fun (n : Nat) x =>
    n + max (m.nearShare x) ((m.getPlnDom x).reserved.2 * 2 ^ 20)) 0
  decide (nearBytes rs ≤ m.nearShare d) || decide (nearBytes rs + others ≤ m.nearMib * 2 ^ 20)

/-- May domain d hold these ranges: populated, clear of every other domain's, and with no near tier that is reserved for another (R356,
R369, R416)? -/
def Mach.rangesFree (m : Mach) (d : Nat) (rs : List (Nat × Nat)) : Bool :=
  m.nearLeft d rs && rs.all fun r => m.populated r.1 r.2 && (List.range 16).all fun e =>
    e == d || (m.getDom e).ranges.all fun q => !spansMeet q.1 q.2 r.1 r.2

/-- Does a domain's host memory lie in one update die's part of the slow tier (R418)? -/
def slowRange (a n : Nat) : Bool :=
  n == 0 || match tierOf a with
    | .slow _ _ => true
    | _ => false

/-! ## OEM actions on domains (R415, R419, R420, R478) -/

/-- May domain d own contexts base to base + count − 1: none of them, and none that it gives up, is in use, and no other domain's
range meets them (R420; DEDUCED from R416)? -/
def Mach.ctxRangeOk (m : Mach) (d base count : Nat) : Bool :=
  let x := m.getDom d
  let used (c : Nat) (s : CtxState) : Bool := s != .inactive &&
    ((decide (base ≤ c) && decide (c < base + count)) != (decide (x.ctxBase.toNat ≤ c) && decide (c < x.ctxBase.toNat + x.ctxCount.toNat)))
  decide (base + count ≤ 16384) && m.ctx.all (fun e => !used e.1 e.2.state) && (List.range 16).all fun e =>
    e == d || !spansMeet (m.getDom e).ctxBase.toNat (m.getDom e).ctxCount.toNat base count

/-- Is domain d held in domain reset (R507)? -/
def Mach.domHeld (m : Mach) (d : Nat) : Bool := m.rst.hold.getLsbD d && m.rst.domState.getLsbD d

/-- Application core c goes to a domain, or to none. -/
def Mach.moveCore (m : Mach) (c : Nat) (to' : Option Nat) : Mach :=
  let bit := BitVec.ofNat 32 (2 ^ c)
  let m := (List.range 16).foldl (fun m e => m.modDom e fun x =>
    { x with cores := if to' = some e then x.cores ||| bit else x.cores &&& ~~~bit }) m
  { m with apc := { m.apc with assign := Tab.put 0 m.apc.assign c (match to' with
      | some d => BitVec.ofNat 8 (0x80 + d)
      | none => 0) } }

/-- The domain that holds application core c. -/
def Mach.coreDomain (m : Mach) (c : Nat) : Option Nat := (List.range 16).find? fun d => (m.getDom d).cores.getLsbD c

/-- May core c move: the domains it leaves and comes to are held in reset (R447)? -/
def Mach.coreMoves (m : Mach) (c : Nat) (to' : Option Nat) : Bool :=
  (match m.coreDomain c with
   | some d => m.domHeld d
   | none => true) &&
  match to' with
  | some d => m.domHeld d
  | none => true

/-- A host kind by its code. -/
def hostKindOf (k : Nat) : HostKind :=
  match k with
  | 0 => .unused
  | 1 => .localHost
  | _ => .remote

/-- What an OEM action does to a domain. -/
def Mach.domChange (m : Mach) (d : Nat) (ch : DomChange) : Mach :=
  match ch with
  | .hostKind k =>
    if 2 < k ∨ (m.getDom d).host = hostKindOf k then m
    else (m.modDom d fun x => { x with host := hostKindOf k }).measure d ch
  | .contexts base count =>
    let x := m.getDom d
    if m.ctxRangeOk d base count then
      (m.modDom d fun x => { x with ctxBase := BitVec.ofNat 14 base, ctxCount := BitVec.ofNat 15 count }).measureIf
        (x.ctxBase != BitVec.ofNat 14 base || x.ctxCount != BitVec.ofNat 15 count) d ch
    else m
  | .quotas k nt slow =>
    let x := m.getDom d
    let n := b2n (x.quotaClusters.toNat != k) + b2n (x.quotaNt.toNat != nt) + b2n (x.quotaSlow.toNat != slow)
    if 640 < k ∨ 2 ^ 14 ≤ nt ∨ 2 ^ 11 ≤ slow then m
    else ((m.modDom d fun x => { x with quotaClusters := BitVec.ofNat 10 k, quotaNt := BitVec.ofNat 14 nt,
                                        quotaSlow := BitVec.ofNat 11 slow }).event tyDom d 2 n).measureIf (n != 0) d ch
  | .memory gib at' shares =>
    let rs := ((at', gib * 2 ^ 30) :: shares).filter fun r => r.2 != 0
    if 2 ^ 11 ≤ gib || !m.rangesFree d rs || !slowRange at' (gib * 2 ^ 30) then m
    else (m.giveMemory d rs).modDom d fun x => { x with hostmemGib := BitVec.ofNat 11 gib, hostAt := at', shares := shares }
  | .cores mask =>
    let want (c : Nat) : Option Nat := if mask.getLsbD c then some d else if (m.getDom d).cores.getLsbD c then none else m.coreDomain c
    let moved := (List.range 32).filter fun c => want c != m.coreDomain c
    if moved.isEmpty || !moved.all (fun c => m.coreMoves c (want c)) then m
    else (moved.foldl (fun m c => m.moveCore c (want c)) m).measure d ch
  | .remote port addr => m.modDom d fun x => { x with remotePort := port, remoteAddr := addr }
  | .key bytes => if bytes.length = 64 then m.modDom d fun x => { x with key := bytes } else m
  | .managementCa digest => { m with mgt := { m.mgt with ca := digest } }.measureIf (m.mgt.ca != digest) d ch

/-- CONFIGURE_DOMAIN (R415). -/
def execConfigureDomain (d : Nat) (ch : DomChange) (s : State) : Host.Outcome State Fault Refusal :=
  .next (s.onMach fun m => if m.redfish && decide (d < 16) then m.domChange d ch else m)

/-! ## The fault history (R459) -/

/-- CLEAR_FAULT_HISTORY: a unit's records are cleared; it is fence-pending no longer unless records of its cores make it so. -/
def Mach.clearHistory (m : Mach) (kind unit : Nat) : Mach :=
  if !m.redfish then m
  else
    let m := { m with flt := { m.flt with history := m.flt.history.filter fun r => !(r.kind == kind && r.unit == unit) } }
    { m with flt := { m.flt with pending := m.flt.pending.filter fun u => m.fencePending u.1 u.2 } }

/-- CLEAR_FAULT_HISTORY (R459). -/
def execClearFaultHistory (kind unit : Nat) (s : State) : Host.Outcome State Fault Refusal :=
  .next (s.onMach fun m => m.clearHistory kind unit)

end Sys2Proof.Machine
end

