-- ==== Sys2Proof/Machine/Contacts.lean ====
section
/-!
DEFINITION. The contacts of the package and the rails (chapter 21): which signal or rail each contact carries (R520 to R522), the voltages
and currents of the rails (R526), and where each rail's regulator answers (R527).
-/
namespace Sys2Proof.Machine

/-! ## Rails (R526, R527) -/

/-- A rail of the regulator stage. -/
inductive Rail where
  | vddT (tract : Nat)
  | vddNt | vddU | vddS
  | vddLnk (tract : Nat)
  | vdd2h | vdd2l | vddq | vdd1 | vddIo
  deriving DecidableEq, Repr

/-- The rails in the order in which readings name them: VDD_T0 to VDD_T3 over AVSBus, then the rails of the PMBus by address. -/
def railList : List Rail :=
  [.vddT 0, .vddT 1, .vddT 2, .vddT 3, .vddNt, .vddU, .vddS, .vddLnk 0, .vddLnk 1, .vddLnk 2, .vddLnk 3, .vdd2h, .vdd2l, .vddq, .vdd1, .vddIo]

/-- PMBus address of the regulator of rail n; the four AVSBus rails have none (R527). -/
def pmbusAddress (n : Nat) : Option Nat := if 4 ≤ n ∧ n < 16 then some (0x3C + n) else none

/-- Lowest and highest voltage of rail n in µV (R526): ±3 %, or ±30 mV around a tract's target. The target of a tract's rail is 0.75 V at power-on
(R527), afterwards what AVSBus has commanded, between 0.60 and 0.85 V (DEDUCED: any target of that range is taken). -/
def railWindow (powerOn : Bool) (n : Nat) : Nat × Nat :=
  if 4 ≤ n then (970 * nominalRailMv n, 1030 * nominalRailMv n) else if powerOn then (720000, 780000) else (570000, 880000)

/-- Largest current of a rail in mA, and its largest load step in mA, where one is given (R526). -/
def Rail.maxMa : Rail → Nat × Option Nat
  | .vddT _ => (720000, some 360000)
  | .vddLnk _ => (150000, some 20000)
  | .vddNt => (280000, some 120000)
  | .vddU => (180000, some 60000)
  | .vddS => (100000, some 30000)
  | .vdd2h => (50000, some 20000)
  | .vdd2l => (30000, some 12000)
  | .vddq => (24000, some 10000)
  | .vdd1 => (4000, some 1000)
  | .vddIo => (2000, none)

/-- Does rail n answer with a voltage within tolerance? -/
def railGood (powerOn : Bool) (mvs : List (Option Nat)) (n : Nat) : Bool :=
  match mvs.getD n none with
  | some mv => decide ((railWindow powerOn n).1 ≤ 1000 * mv) && decide (1000 * mv ≤ (railWindow powerOn n).2)
  | none => false

/-- Are all sixteen rails good (R498)? -/
def railsGood (powerOn : Bool) (mvs : List (Option Nat)) : Bool := (List.range 16).all (railGood powerOn mvs)

/-! ## Contacts (R520 to R522) -/

/-- The low-speed signals of column 120, rows 040 to 049, in order. -/
inductive LowSignal where
  | coldResetN | warmResetN | pwrGoodIn | pwrBrakeN | alertN | thermTripN | presentN | timePpsIn | pmbScl | pmbSda
  deriving DecidableEq, Repr

/-- Ports with serial lanes. Lane j of service port i is number 4 × i + j. -/
inductive LaneKind where
  | link | service | management
  deriving DecidableEq, Repr

/-- The signal of a lane at one of its five contacts. -/
inductive LanePin where
  | txP | txN | rxP | rxN
  deriving DecidableEq, Repr

/-- What a contact carries. -/
inductive Contact where
  | lane (kind : LaneKind) (n : Nat) (pin : LanePin)
  | refclkSys (negative : Bool)
  | refclkLnk (tract : Nat) (negative : Bool)
  | low (s : LowSignal)
  | avsClk (tract : Nat) | avsMdata (tract : Nat) | avsSdata (tract : Nat)
  | spiClk | spiCsN (i : Nat) | spiIo (i : Nat)
  | gpio (i : Nat)
  | power (r : Rail)
  | vss
  deriving DecidableEq, Repr

/-- Contact k of the five of a lane: TX_P, TX_N, VSS, RX_P, RX_N. -/
def laneContact (kind : LaneKind) (n k : Nat) : Contact :=
  match k with
  | 0 => .lane kind n .txP
  | 1 => .lane kind n .txN
  | 2 => .vss
  | 3 => .lane kind n .rxP
  | _ => .lane kind n .rxN

/-- The tract of a contact's quadrant by its side (false is the low columns) and its end (false is the low rows). -/
def quadrant (high far : Bool) : Nat := (if high then 1 else 0) + (if far then 2 else 0)

/-- The link bands: band row u div 12 counts from the first row of the band (R521). -/
def bandContact (c row : Nat) (far : Bool) : Contact :=
  let x := (c - 1) % 60
  laneContact .link (96 * quadrant (decide (60 < c)) far + 12 * row + x / 5) (x % 5)

/-- The clock rows 009 and 096: REFCLK_LNK at 29 and 30 columns beyond the band's first (R522). -/
def clockContact (c : Nat) (far : Bool) : Contact :=
  let t := quadrant (decide (60 < c)) far
  if (c - 1) % 60 = 29 then .refclkLnk t false else if (c - 1) % 60 = 30 then .refclkLnk t true else .vss

/-- The left edge: service and management lanes and REFCLK_SYS (R522). -/
def leftContact (c r : Nat) : Contact :=
  if 50 ≤ r ∧ r < 58 then laneContact .service (r - 50) (c - 1)
  else if 58 ≤ r ∧ r < 60 then laneContact .management (r - 58) (c - 1)
  else if r = 64 ∧ c = 1 then .refclkSys false
  else if r = 64 ∧ c = 2 then .refclkSys true
  else .vss

/-- The ten low-speed signals in order. -/
def lowSignals : List LowSignal :=
  [.coldResetN, .warmResetN, .pwrGoodIn, .pwrBrakeN, .alertN, .thermTripN, .presentN, .timePpsIn, .pmbScl, .pmbSda]

/-- The right edge: low-speed signals and VDD_IO (R522). -/
def rightContact (c r : Nat) : Contact :=
  if c = 120 then
    if 40 ≤ r ∧ r < 50 then (lowSignals[r - 40]?.map Contact.low).getD .vss
    else if 50 ≤ r ∧ r < 62 then
      if (r - 50) % 3 = 0 then .avsClk ((r - 50) / 3) else if (r - 50) % 3 = 1 then .avsMdata ((r - 50) / 3) else .avsSdata ((r - 50) / 3)
    else .vss
  else if c = 119 then
    if r = 40 then .spiClk
    else if 41 ≤ r ∧ r < 43 then .spiCsN (r - 41)
    else if 43 ≤ r ∧ r < 47 then .spiIo (r - 43)
    else if 50 ≤ r ∧ r < 58 then .power .vddIo
    else .vss
  else if 40 ≤ r ∧ r < 56 then .gpio (r - 40) else .vss

/-- The rail of a place in the core (R526). -/
def coreRail (c r : Nat) : Rail :=
  if r < 16 then .vddLnk (quadrant (decide (61 < c)) false)
  else if 89 < r then .vddLnk (quadrant (decide (61 < c)) true)
  else if c < 52 ∨ 71 < c then .vddT (quadrant (decide (71 < c)) (decide (52 < r)))
  else if r < 44 then .vddNt
  else if r < 64 then .vddU
  else if r < 76 then .vddS
  else if c < 62 then .vdd2h
  else if c < 67 then .vdd2l
  else if c < 71 then .vddq
  else .vdd1

/-- What the contact of a column and a row carries: every contact has exactly one use (R520), and there is none outside 120 columns by 104
rows. -/
def contactAt (c r : Nat) : Option Contact :=
  if c = 0 ∨ 120 < c ∨ r = 0 ∨ 104 < r then none
  else if r ≤ 8 then some (bandContact c (r - 1) false)
  else if 97 ≤ r then some (bandContact c (r - 97) true)
  else if r = 9 then some (clockContact c false)
  else if r = 96 then some (clockContact c true)
  else if c ≤ 5 then some (leftContact c r)
  else if 118 ≤ c then some (rightContact c r)
  else if (c + r) % 2 = 0 then some .vss
  else some (.power (coreRail c r))

end Sys2Proof.Machine
end

