-- ==== Sys2Proof/Machine/Power.lean ====
section
/-!
DEFINITION. Power (chapter 18): sensors with alert and trip (R480, R486, R487), telemetry (R481), droop (R448), the staged group of
the power page (R484), operating points (R485), power states (R483) and the brake (R488).
-/
namespace Sys2Proof.Machine

/-! ## Operating points (R485, R491) -/

/-- The operating point of tract t in a field of four. -/
def opAt (x : BitVec 8) (t : Nat) : Nat := x.toNat / 4 ^ t % 4

/-- A field of four with tract t at point v. -/
def opPut (x : BitVec 8) (t v : Nat) : BitVec 8 := BitVec.ofNat 8 (x.toNat - opAt x t * 4 ^ t + v * 4 ^ t)

/-- ACLK frequency of an operating point, in MHz (R29). -/
def opMhz (p : Nat) : Nat :=
  match p with
  | 0 => 1200 | 1 => 1000 | 2 => 800 | _ => 500

/-- The point a tract should run at: P3 under the brake, otherwise the commanded one (R488). -/
def Mach.wantedOp (m : Mach) (t : Nat) : Nat := if m.pwr.brake then 3 else opAt m.pwr.opCmd t

/-- Every job on the module waits for a new plat at its next boundary, after a change of operating point (R345). -/
def Mach.forceDraws (m : Mach) : Mach :=
  let force (_ : Nat) (j : Option Job) : Option Job := j.map fun j => if j.forced = 0 ∧ j.plat.isSome then { j with forced := 5 } else j
  { m with cmt := { m.cmt with jobs := Tab.mapVals none force m.cmt.jobs } }

/-- A tract's point in force becomes p (R485). -/
def Mach.setOp (m : Mach) (t p : Nat) : Mach :=
  if opAt m.pwr.actual t = p then m
  else
    let m := { m with pwr := { m.pwr with actual := opPut m.pwr.actual t p } }
    let m := m.modTrc t fun x => { x with mhz := BitVec.ofNat 16 (opMhz p), op := BitVec.ofNat 2 p }
    ((m.event tyTrc t 1).event tyPwr 0 5).forceDraws

/-- Tracts that do not run at the point they should begin to move to it; moves that have not switched and are not wanted any more
are dropped. A module whose tracts do not run moves none. -/
def Mach.moveOps (m : Mach) (commit : Bool) : Mach :=
  if !m.aclkOn then m
  else
    let old := m.pwr.ops.filter (·.switched)
    let new := (List.range 4).filterMap fun t =>
      let p := m.wantedOp t
      if opAt m.pwr.actual t = p then none
      else some { tract := t, op := p,
                  commit := commit || m.pwr.ops.any fun o => o.tract == t && o.commit && !o.switched }
    { m with pwr := { m.pwr with ops := old ++ new } }

/-- ACLK_SWITCH: a tract switches ACLK to the point it moves to. -/
def Mach.aclkSwitch (m : Mach) (t : Nat) : Mach :=
  match m.pwr.ops.find? fun o => o.tract == t && !o.switched with
  | none => m
  | some o =>
    let done (x : OpMove) : OpMove := if x.tract = t then { x with switched := true } else x
    { m with pwr := { m.pwr with ops := m.pwr.ops.map done } }.setOp t o.op

/-- ACLK_SWITCH (R485). -/
def execAclkSwitch (tract : Nat) (s : State) : Host.Outcome State Fault Refusal :=
  .next (s.onMach fun m => if m.aclkOn then m.aclkSwitch tract else m)

/-! ## Power states (R483, R484) -/

/-- Every link port goes down; what it held is given back or lost as when a port leaves the up state (R388). -/
def Mach.portsDown (m : Mach) : Mach :=
  (List.range 48).foldl (fun m p =>
    let m := if (m.getLnk p).state = .up then m.leaveUp p else m
    if (m.getLnk p).state = .down then m else m.modLnk p fun l => { l with state := .down, width := 0 }) m

/-- Every port that has lanes trains again. -/
def Mach.portsTrain (m : Mach) : Mach :=
  (List.range 48).foldl (fun m p =>
    if (m.getLnk p).state = .down && m.portWidth p != 0 then m.modLnk p fun l => { l with state := .training } else m) m

/-- The present LPDDR5X channels take a mode (R382). -/
def Mach.chanMode (m : Mach) (mode : BitVec 2) : Mach :=
  (List.range 64).foldl (fun m n => if m.channelPresent n then m.modChan n fun p => { p with mode := mode } else m) m

/-- The tracts lose their state in PARK: cores, engines, closure counters, cluster SRAM and local stores (R483). -/
def Mach.loseTracts (m : Mach) : Mach :=
  let clu (_ : Nat) (c : Clu) : Clu := { c with counters := [] }
  let m := { m with cores := [], trv := [], gth := [], spr := [], clu := Tab.mapVals {} clu m.clu }
  (m.zeroMem (sramBase 0) (640 * 2 ^ 20)).zeroMem (storeBase 0) (10240 * 2 ^ 15)

/-- The tracts run again: each starts at its commanded point, or at P3 under the brake (R488). -/
def Mach.startTracts (m : Mach) : Mach := (List.range 4).foldl (fun m t => m.setOp t (m.wantedOp t)) m

/-- The module reaches the power state it moves to: 0 RUN, 1 IDLE, 2 PARK, 3 OFF. -/
def Mach.enterState (m : Mach) (t : Nat) : Mach :=
  let parked := m.pwr.state == 2
  let m := { m with pwr := { m.pwr with moving := none } }
  match t with
  | 0 | 1 =>
    let m := { m with pwr := { m.pwr with state := BitVec.ofNat 2 t } }
    let m := if parked then (m.chanMode 1).portsTrain else m
    if t = 0 then m.startTracts else { m with pwr := { m.pwr with ops := [] } }
  | 2 =>
    let m := ((if parked then m else m.loseTracts).portsDown).chanMode 2
    { m with pwr := { m.pwr with state := 2, ops := [] } }
  | _ =>
    let m := (m.loseTracts.portsDown).chanMode 2
    let svcDown (m : Mach) (p : Nat) : Mach :=
      (if (m.getSvc p).state = 2#2 then m.event tySvc p 4 else m).modSvc p fun v => { v with state := 0 }
    let m := svcDown (svcDown m 0) 1
    { m with pwr := { m.pwr with off := true, ops := [] } }

/-- POWER_TRANSITION_DONE: the transition that is in progress completes. -/
def Mach.powerDone (m : Mach) : Mach :=
  let m := { m with pwr := { m.pwr with ops := m.pwr.ops.filter fun o => !o.switched } }
  match m.pwr.moving with
  | some t => m.enterState t
  | none => m

/-- POWER_TRANSITION_DONE (R484). -/
def execPowerTransitionDone (s : State) : Host.Outcome State Fault Refusal := .next (s.onMach Mach.powerDone)

/-- CMT_JOBS.ACTIVE (R335). -/
def Mach.jobsActive (m : Mach) : Nat := (m.cmt.jobs.filter fun e => e.2.isSome).length

/-- PWR_STATE.BUSY: a transition of a commit is in progress. -/
def Pwr.busy (p : Pwr) : Bool := p.moving.isSome || p.ops.any (·.commit)

/-- The reason a commit of the staged group is refused for, 0 where it is not (R484). FAULT cannot be staged. -/
def Mach.pwrRefusal (m : Mach) : Nat :=
  let p := m.pwr
  let gated := m.clu.any fun e => e.2.assigned && p.gateStaged.getLsbD e.1
  if p.busy then 1
  else if p.off || p.fault then 2
  else if (p.stateStaged != 0 && m.jobsActive != 0) || gated then 3 else 0

/-- A commit of the power page's staged group (R45, R484). -/
def Mach.pwrCommit (m : Mach) : Mach :=
  match m.pwrRefusal with
  | 0 =>
    let p := m.pwr
    let target := p.stateStaged.toNat
    let m := { m with pwr := { p with stateCmd := p.stateStaged, opCmd := p.opStaged, gate := p.gateStaged,
                                      moving := if target = p.state.toNat then none else some target } }
    let m := if target = 3 then m.flushLog else m
    if target = 0 then m.moveOps true else m
  | why =>
    { m with pwr := { m.pwr with stateStaged := m.pwr.stateCmd, opStaged := m.pwr.opCmd, gateStaged := m.pwr.gate,
                                 refuse := BitVec.ofNat 8 why } }.event tyPwr 0 4

/-! ## The brake (R488) -/

/-- PWR_BRAKE_N falls: every tract that runs goes to P3. -/
def Mach.brakeOn (m : Mach) : Mach :=
  if !m.pins.brakeN then m
  else
    let m := { m with pins := { m.pins with brakeN := false }, pwr := { m.pwr with brake := true } }.event tyPwr 0 2
    let m := if m.aclkOn then
        let m := { m with pwr := { m.pwr with ops := m.pwr.ops.filter (·.switched) } }
        (List.range 4).foldl (fun m t => m.setOp t 3) m
      else m
    m.forceDraws

/-- PWR_BRAKE_ASSERT (R488). -/
def execPwrBrakeAssert (s : State) : Host.Outcome State Fault Refusal := .next (s.onMach Mach.brakeOn)

/-- PWR_BRAKE_N rises: every tract moves to its commanded point. -/
def Mach.brakeOff (m : Mach) : Mach :=
  if m.pins.brakeN then m
  else
    (({ m with pins := { m.pins with brakeN := true }, pwr := { m.pwr with brake := false } } : Mach).moveOps false).forceDraws

/-- PWR_BRAKE_RELEASE (R488). -/
def execPwrBrakeRelease (s : State) : Host.Outcome State Fault Refusal := .next (s.onMach Mach.brakeOff)

/-! ## Droop (R448) -/

/-- A droop monitor stretches the ACLK of a tract; the fault is counted and exported. -/
def Mach.droop (m : Mach) (t : Nat) : Mach :=
  if 4 ≤ t || !m.aclkOn then m
  else
    let m := m.modTrc t fun x => { x with stretched := x.stretched + BitVec.ofNat 48 (Config.droopCycles t m.now) }
    ((m.event tyTrc t 0).event tyPwr 0 3).fault { kind := 8, event := 0x0C, unit := 0, station := m.self * 8192 }

/-- DROOP (R448). -/
def execDroop (tract : Nat) (s : State) : Host.Outcome State Fault Refusal := .next (s.onMach fun m => m.droop tract)

/-! ## Sensors, alert and trip (R480, R486, R487) -/

/-- Degrees Celsius as a sensor reads them. -/
def celsius (c : Int) : Int := 16 * c

/-- The tract of a cluster's or a hot spot's sensor. -/
def sensorTract (i : Nat) : Option Nat := if i < 640 then some (i / 160) else if i < 656 then some ((i - 640) / 4) else none

/-- Is a sensor read: it is no fenced cluster's? -/
def Mach.sensorRead (m : Mach) (i : Nat) : Bool := decide (640 ≤ i) || m.clusterPresent i

/-- A sensor is marked failed; a cluster's sensor makes its cluster suspect. -/
def Mach.sensorFailed (m : Mach) (i : Nat) : Mach :=
  let m := { m with pwr := { m.pwr with sensors := Tab.upd {} m.pwr.sensors i fun s => { s with failed := true } } }.event tyPwr 0 6
  if i < 640 then (m.event tyClu i 1).suspect i else m

/-- The sensors that fail their bring-up check are marked failed, each once (R480). -/
def Mach.sensorsFail (m : Mach) (is : List Nat) : Mach :=
  is.foldl (fun m i => if decide (i < 672) && !(Tab.get {} m.pwr.sensors i).failed then m.sensorFailed i else m) m

/-- One sensor is sampled: its reading, and whether it is marked failed. -/
def Mach.sampleOne (m : Mach) (i : Nat) (x : Int) : Mach :=
  let old := Tab.get {} m.pwr.sensors i
  let bad := decide (x < celsius (-40)) || decide (celsius 150 < x)
  let m := { m with pwr := { m.pwr with sensors := Tab.put {} m.pwr.sensors i { old with temp := BitVec.ofInt 16 x } } }
  if bad && !old.failed then m.sensorFailed i
  else if !bad && !old.failed && decide (640 ≤ i) && decide (i < 656) && decide (celsius 105 ≤ x) &&
      decide (old.temp.toInt < celsius 105) then
    m.event tyTrc ((i - 640) / 4) 2
  else m

/-- Readings that count: sensors that are read and have not failed. -/
def Mach.readings (m : Mach) : List (Nat × Int) :=
  (List.range 672).filterMap fun i =>
    let s := Tab.get {} m.pwr.sensors i
    if m.sensorRead i && !s.failed then some (i, s.temp.toInt) else none

/-- The highest of some readings, the lowest sensor among equals. -/
def hottest : List (Nat × Int) → Option (Nat × Int)
  | [] => none
  | r :: rs => some (rs.foldl (fun (b : Nat × Int) x => if b.2 < x.2 then x else b) r)

/-- Entry into FAULT on a trip (R487). -/
def Mach.trip (m : Mach) : Mach :=
  let m := { m with pins := { m.pins with tripN := false },
                    pwr := { m.pwr with fault := true, moving := none, ops := [] } }.event tyPwr 0 1
  let m := (m.portsDown).chanMode 2
  (m.fault { kind := 8, event := 0x0E, unit := 0, severity := 1, station := m.self * 8192 }).flushLog

/-- ALERT_N and THERM_TRIP_N follow the readings; the supply check waits for a cool module and trips none (R498). -/
def Mach.thermal (m : Mach) : Mach :=
  let rs := m.readings.map (·.2)
  let m :=
    if !m.pwr.alert && rs.any (fun x => decide (celsius 105 ≤ x)) then
      ({ m with pins := { m.pins with alertN := false }, pwr := { m.pwr with alert := true } }.event tyPwr 0 0).fault
        { kind := 8, event := 0x0D, unit := 0, station := m.self * 8192 }
    else if m.pwr.alert && rs.all (fun x => decide (x ≤ celsius 100)) then
      { m with pins := { m.pins with alertN := true }, pwr := { m.pwr with alert := false } }
    else m
  if !m.pwr.fault && decide (2 ≤ m.rst.phase.toNat) && rs.any (fun x => decide (celsius 115 ≤ x)) then m.trip else m

/-- SENSOR_SAMPLE: every sensor that is read takes its reading. TRC_TEMP_MAX keeps its last value while every sensor that counts for it
has failed; R29 gives none for that case (DESIGN CHOICE). -/
def Mach.sampleAll (m : Mach) (temps : List Int) : Mach :=
  if m.rst.inReset then m
  else
    let m := (List.range (min 672 temps.length)).foldl (fun m i =>
      if m.sensorRead i then m.sampleOne i (temps.getD i 0) else m) m
    let rs := m.readings
    let m := (List.range 4).foldl (fun m t =>
      match hottest (rs.filter fun r => sensorTract r.1 == some t) with
      | some r => m.modTrc t fun x => { x with tempMax := BitVec.ofInt 16 r.2 }
      | none => m) m
    m.thermal

/-- SENSOR_SAMPLE (R480). -/
def execSensorSample (temps : List Int) (s : State) : Host.Outcome State Fault Refusal :=
  .next (s.onMach fun m => m.sampleAll temps)

/-- Rail n is read: its voltage and power stand until the next reading. A regulator that does not answer leaves them, and is logged once it
has not answered for 10 ms (R527), as a management event that MGT's EVENT has no bit for (code 8: DESIGN CHOICE). -/
def Mach.readRail (m : Mach) (n : Nat) (mv : Option Nat) (mw : Nat) : Mach :=
  let p := m.pwr
  match mv, Tab.get none p.railSilent n with
  | some mv, _ => { m with pwr := { p with volt := Tab.put 0 p.volt n (BitVec.ofNat 16 mv), railMw := Tab.put 0 p.railMw n mw,
                                                 railSilent := Tab.put none p.railSilent n none } }
  | none, none => { m with pwr := { p with railSilent := Tab.put none p.railSilent n (some (m.now, false)) } }
  | none, some (t, false) =>
    if m.now < t + 10000000 then m
    else { m with pwr := { p with railSilent := Tab.put none p.railSilent n (some (t, true)) },
                  mgt := { m.mgt with log := m.mgt.log ++ [.event 8 n m.now], unflushed := m.mgt.unflushed + 1 } }
  | none, some (_, true) => m

/-- All rails are read, and the module's power in watts is the sum of theirs (R481). -/
def Mach.readRails (m : Mach) (mv : List (Option Nat)) (mw : List Nat) : Mach :=
  if m.rst.inReset then m
  else
    let m := (List.range 16).foldl (fun m n => m.readRail n (mv.getD n none) (mw.getD n 0)) m
    let all := (List.range 16).foldl (fun w n => w + Tab.get 0 m.pwr.railMw n) 0
    { m with pwr := { m.pwr with moduleW := BitVec.ofNat 16 (all / 1000) } }

/-- RAIL_TELEMETRY (R481): by rail, in the order of `railList`, its voltage in mV, none where its regulator does not answer, and its power in
mW averaged over 1 ms. -/
def execRailTelemetry (mv : List (Option Nat)) (mw : List Nat) (s : State) : Host.Outcome State Fault Refusal :=
  .next (s.onMach fun m => m.readRails mv mw)

end Sys2Proof.Machine
end

