-- ==== Sys2Proof/Machine/Reset.lean ====
section
/-!
DEFINITION. Resets and bring-up (chapter 19): the sources of a module reset and what survives it (R492 to R497), the phases of
bring-up (R498 to R501), the reset-command frame (R504 to R506), and domain resets (R507).
-/
namespace Sys2Proof.Machine

/-! ## The SPI contacts (R502, R525) -/

/-- The SPI contacts: high-impedance while COLD_RESET_N or PWR_GOOD_IN is low, then driven from phase 2 on, and through a warm reset and in
FAULT. -/
def Mach.spi (m : Mach) : SpiState :=
  let up := m.pwr.fault || m.rst.source == 3 || m.rst.source == 5 || m.rst.source == 6 || (!m.rst.inReset && decide (2 ≤ m.rst.phase.toNat))
  if m.pins.pwrGood && m.pins.coldN && up then .driven else .highImpedance

/-- Can an external programmer reach the flash devices (R525)? -/
def Mach.flashOpen (m : Mach) : Bool := !m.pins.coldN || !m.pins.pwrGood

/-- An external programmer writes the flash devices, where it can reach them. It is no command of the table: it stands for what is done to
the module before bring-up (R525). -/
def Mach.programFlash (m : Mach) (f : Flash) : Mach :=
  if m.flashOpen then
    { m with flt := { m.flt with history := f.history }
             mgt := { m.mgt with imageA := f.imageA, imageB := f.imageB, option0 := f.option0, option1 := f.option1,
                                 preferred := f.preferred, trial := f.trial, flashLog := f.flashLog } }
  else m

/-! ## Module resets (R492 to R496) -/

/-- Scope of a module reset by its SOURCE: 3 power-on, 2 cold, 1 warm (R494). -/
def resetScope (source : Nat) : Nat :=
  match source with
  | 1 => 3 | 2 => 2 | 4 => 2 | _ => 1

/-- Is the last module reset a warm one, which holds outputs? -/
def Mach.warmSource (m : Mach) : Bool := resetScope m.rst.source.toNat == 1

/-- PMB_SCL, PMB_SDA, AVS_CLK and AVS_MDATA (R502): idle in a warm reset, released in another until bring-up drives them, which its
first phase does. -/
def Mach.serialBuses (m : Mach) : BusState :=
  if m.pwr.fault || !m.rst.inReset then .driven else if m.warmSource then .idle else .released

/-- The lanes of a link or service port, which is down or not (R502): idle until phase 7 after a power-on or cold reset and in FAULT;
through a warm reset they send frames without packets until phase 7. -/
def Mach.lanes (m : Mach) (down : Bool) : LaneState :=
  if m.pwr.fault then .electricalIdle
  else if m.rst.inReset || decide (m.rst.phase.toNat < 7) then if m.warmSource then .framesOnly else .electricalIdle
  else if down then .electricalIdle else .active

/-- The lanes of a link port. -/
def Mach.linkLanes (m : Mach) (port : Nat) : LaneState := m.lanes ((m.getLnk port).state == .down)

/-- The lanes of a service port. -/
def Mach.serviceLanes (m : Mach) (port : Nat) : LaneState := m.lanes ((m.getSvc port).state == 0)

/-- The management lanes (R502): up from the end of phase 3, and through a warm reset and in FAULT. -/
def Mach.managementLanes (m : Mach) : LaneState :=
  if m.mgt.portsUp || m.pwr.fault || m.warmSource then .active else .electricalIdle

/-- The management processor's state that survives a module reset: OTP, flash and PTIME; the SRAM log too in a warm reset, and M0
where the fuse load stands (R493, R496). -/
def Mgt.kept (g : Mgt) (warm fuses : Bool) : Mgt :=
  { preferred := g.preferred, trial := g.trial, trialFailed := g.trialFailed, wdogExpired := g.wdogExpired, imageA := g.imageA,
    imageB := g.imageB, option0 := g.option0, option1 := g.option1, keyDigests := g.keyDigests, keysRevoked := g.keysRevoked,
    rollback := g.rollback, otpGood := g.otpGood, flashLog := g.flashLog, logSeq := g.logSeq, ptime := g.ptime,
    ptimeNs := g.ptimeNs, log := if warm then g.log else [], unflushed := if warm then g.unflushed else 0,
    m0 := if fuses then g.m0 else 0, eases := g.eases }

/-- The module held in reset by a source: everything at its reset value but what survives (R493). Until option loading the fence list is
empty, so that MOD_CONFIG, MOD_NT_CONFIG and the maps show every unit present; R26 gives them no value before it (DESIGN CHOICE). -/
def Mach.held (m : Mach) (source resume : Nat) (option : BitVec 4) : Mach :=
  let warm := resetScope source == 1
  let inputs : Pins := { pwrGood := m.pins.pwrGood, coldN := m.pins.coldN, warmN := m.pins.warmN, brakeN := m.pins.brakeN,
                         pps := m.pins.pps }
  { serial := m.serial
    mem := if source = 1 then [] else m.mem
    granErr := if source = 1 then [] else m.granErr
    time := { ns := if warm then m.time.ns else 0 }
    flt := { history := m.flt.history, cperSeq := m.flt.cperSeq, pending := m.flt.pending }
    mgt := m.mgt.kept warm (resume == 3)
    pwr := { brake := !m.pins.brakeN, alert := warm && !m.pins.alertN }
    pins := if warm then { inputs with alertN := m.pins.alertN, tripN := m.pins.tripN, gpioDir := m.pins.gpioDir,
                                       gpioOut := m.pins.gpioOut } else inputs
    rst := { inReset := true, resume := resume, phase := BitVec.ofNat 4 resume, source := BitVec.ofNat 4 source, option := option,
             resets := if source = 1 then 0 else m.rst.resets + 1, unit := if resume = 3 then m.rst.unit else 0,
             lastSeq := if source = 1 then m.rst.flashSeq else m.rst.lastSeq, flashSeq := m.rst.flashSeq } }

/-- A module reset is recognised (R494, R496). One of a narrower scope than the reset in progress changes only RESETS, and under a
power-on reset nothing. -/
def Mach.moduleReset (m : Mach) (source : Nat) : Mach :=
  let r := m.rst
  if r.inReset && decide (resetScope source < resetScope r.source.toNat) then
    if r.source = 1 then m else { m with rst := { r with resets := r.resets + 1 } }
  else if source = 1 then m.held 1 1 0
  else if r.inReset then m.held source r.resume r.option
  else if r.phase = 3 && !r.stopped then
    (m.held source 3 (BitVec.ofNat 4 (min 15 (r.option.toNat + 1)))).event tyRst 0 1
  else m.held source 1 0

/-- Is a low pulse on reset input i recognised (R495)? -/
def pulseOk (i ns : Nat) : Bool := decide (1000 ≤ ns) || (decide (100 ≤ ns) && Config.pulseSeen i ns)

/-- POWER_ON (R492): PWR_GOOD_IN goes low. -/
def execPowerOn (s : State) : Host.Outcome State Fault Refusal :=
  .next (s.onMach fun m => ({ m with pins := { m.pins with pwrGood := false } } : Mach).moduleReset 1)

/-- COLD_RESET (R495): a pulse on COLD_RESET_N. -/
def execColdReset (ns : Nat) (s : State) : Host.Outcome State Fault Refusal :=
  .next (s.onMach fun m => if pulseOk 0 ns then ({ m with pins := { m.pins with coldN := false } } : Mach).moduleReset 2 else m)

/-- WARM_RESET (R495): a pulse on WARM_RESET_N. -/
def execWarmReset (ns : Nat) (s : State) : Host.Outcome State Fault Refusal :=
  .next (s.onMach fun m => if pulseOk 1 ns then ({ m with pins := { m.pins with warmN := false } } : Mach).moduleReset 3 else m)

/-- The management watchdog expires: no service for MGT_WDOG.MS since firmware began to run (R479); during a trial the next reset
prefers the previous slot (R472). -/
def Mach.watchdogReset (m : Mach) : Mach :=
  if m.rst.inReset || !decide (5 ≤ m.rst.phase.toNat) || decide (m.now < m.mgt.wdogAt + m.mgt.wdogMs.toNat * 1000000) then m
  else
    ({ m with mgt := { m.mgt with wdogExpired := true, trialFailed := m.mgt.trial } } : Mach).moduleReset 6

/-- MANAGEMENT_WATCHDOG (R479). -/
def execManagementWatchdog (s : State) : Host.Outcome State Fault Refusal := .next (s.onMach Mach.watchdogReset)

/-- RESET_RELEASE: the reset inputs are high again, and bring-up begins (R495, R496). A cold or power-on reset restarts the time base. -/
def Mach.release (m : Mach) : Mach :=
  if !m.rst.inReset then m
  else
    let m := { m with pins := { m.pins with pwrGood := true, coldN := true, warmN := true },
                      time := if resetScope m.rst.source.toNat = 1 then m.time else {} }
    { m with rst := { m.rst with inReset := false, phase := BitVec.ofNat 4 m.rst.resume, releasedAt := m.now } }

/-- RESET_RELEASE (R496). -/
def execResetRelease (s : State) : Host.Outcome State Fault Refusal := .next (s.onMach Mach.release)

/-! ## The reset-command frame (R504 to R506) -/

/-- Is a frame accepted (R505)? -/
def Mach.frameOk (m : Mach) (bs : List Byte) : Bool :=
  let n (o k : Nat) : Nat := cmdN bs o k
  decide (64 ≤ bs.length) && n 0 1 == 1 && (n 1 1 == 1 || n 1 1 == 2) && n 2 6 == 0 && n 8 8 == m.serial.toNat &&
    decide (m.rst.lastSeq.toNat < n 16 8) && n 24 8 == 0 && (bs.drop 32).take 32 == (hmac512 m.rst.key (bs.take 32)).take 32

/-- RESET_FRAME: from the end of option loading the management ports take frames (R500, R505). -/
def Mach.resetFrame (m : Mach) (bs : List Byte) : Mach :=
  if m.rst.inReset || !m.mgt.portsUp then m
  else if m.frameOk bs then
    ({ m with rst := { m.rst with lastSeq := BitVec.ofNat 64 (cmdN bs 16 8) } } : Mach).moduleReset (if cmdN bs 1 1 = 1 then 4 else 5)
  else m.event tyRst 0 0

/-- RESET_FRAME (R505). -/
def execResetFrame (bytes : List Byte) (s : State) : Host.Outcome State Fault Refusal :=
  .next (s.onMach fun m => m.resetFrame bytes)

/-! ## Bring-up (R498 to R501) -/

/-- The effect of a phase while bring-up is in it. -/
def Mach.inPhaseOf (m : Mach) (p : Nat) (g : Mach → Mach) : Mach :=
  if m.rst.inReset || m.rst.stopped || m.rst.phase.toNat != p || m.pwr.fault then m else g m

/-- Bring-up goes on with a phase. -/
def Mach.toPhase (m : Mach) (p : Nat) : Mach := { m with rst := { m.rst with phase := BitVec.ofNat 4 p } }

/-- Bring-up stops (R500); during a trial the next reset prefers the previous slot (R472). -/
def Mach.stopBringUp (m : Mach) (reason : Nat) : Mach :=
  { m with rst := { m.rst with stopped := true, stopReason := BitVec.ofNat 8 reason },
           mgt := { m.mgt with trialFailed := m.mgt.trialFailed || m.mgt.trial } }.event tyRst 0 3

/-- A unit has failed its test: bring-up restarts at option loading, at most four times (R499). -/
def Mach.unitRestart (m : Mach) : Mach :=
  if 4 ≤ m.rst.unit.toNat then m.stopBringUp 6
  else { m with rst := { m.rst with unit := m.rst.unit + 1, phase := 3 } }.event tyRst 0 2

/-- SUPPLY_CHECK: phase 1 ends once supplies, clocks and temperatures are good. -/
def Mach.supplyCheck (m : Mach) (x : Supplies) : Mach :=
  m.inPhaseOf 1 fun m =>
    if railsGood (m.rst.source == 1) x.rails && x.clocks && m.pins.pwrGood && decide (x.hottest < celsius 115) then
      (({ m with pins := { m.pins with tripN := true } } : Mach).toPhase 2).sensorsFail x.badSensors
    else m

/-- SUPPLY_CHECK (R498). Outside the limits of R524 and R528 the spec promises no behaviour. -/
def execSupplyCheck (x : Supplies) (s : State) : Host.Outcome State Fault Refusal :=
  if x.outside then .fault .outsideElectricalLimits else .next (s.onMach fun m => m.supplyCheck x)

/-- FUSE_LOAD: OTP is sensed, and M0 measures it (R475). -/
def Mach.fuseLoad (m : Mach) (crcGood : Bool) : Mach :=
  m.inPhaseOf 2 fun m =>
    if crcGood then
      ({ m with mgt := { m.mgt with otpGood := true,
                                    m0 := extend 0 (Config.otpDigest m.mgt.keyDigests m.mgt.keysRevoked m.mgt.rollback) } } : Mach).toPhase 3
    else ({ m with mgt := { m.mgt with otpGood := false } } : Mach).stopBringUp 2

/-- FUSE_LOAD (R498). -/
def execFuseLoad (crcGood : Bool) (s : State) : Host.Outcome State Fault Refusal := .next (s.onMach fun m => m.fuseLoad crcGood)

/-- Does a copy of the option record verify, with the keys and parameters of R470? -/
def Mgt.verifyOption (g : Mgt) (o : OptionRec) : Bool :=
  (g.keyIndex o.modulus o.exponent).isSome && rsaPssVerify o.modulus o.exponent o.signature o.bytes

/-- The copy of the option record that loads: the verifying one of the higher sequence number, copy 0 among equals. -/
def Mgt.pickOption (g : Mgt) : Option OptionRec :=
  match g.option0.filter g.verifyOption, g.option1.filter g.verifyOption with
  | some a, some b => if a.seq < b.seq then some b else some a
  | some a, none => some a
  | none, b => b

/-- Units that the history makes fence-pending (R460); a core counts for its cluster. -/
def Mach.pendingUnits (m : Mach) : List (Nat × Nat) :=
  ((m.flt.history.filter (·.crcGood)).map fun r => if r.kind = 2 then (1, r.unit / 16) else (r.kind, r.unit)).eraseDups.filter
    fun u => m.fencePending u.1 u.2

/-- The fence list: what the option record fences, and every fence-pending unit (R461). -/
def Mach.fenceWith (m : Mach) (f : FenceList) : FenceList :=
  let us (k : Nat) : List Nat := (m.pendingUnits.filter (·.1 == k)).map (·.2)
  { clusters := (f.clusters ++ us 1).eraseDups, channels := (f.channels ++ us 5).eraseDups, banks := (f.banks ++ us 4).eraseDups,
    lanes := (f.lanes ++ us 3).eraseDups, cores := f.cores, vectorLanes := f.vectorLanes, arrayRows := f.arrayRows,
    service := f.service }

/-- One share of an easement when the reinstated total exceeds what is present (R358). -/
def easeShare (e present total : Nat) : Nat := if total ≤ present then e else e * present / total

/-- The easement of a domain that a reset reinstates: the one granted or released last, otherwise the option record's (R358). -/
def Mgt.easeOf (g : Mgt) (d : Nat) (x : DomCfg) : Option (Nat × Nat × Nat) :=
  ((Tab.get none g.eases d).orElse fun _ => x.ease).filter (· != (0, 0, 0))

/-- A domain is reinstated with its easement (R358, R498). -/
def Mach.reinstate (m : Mach) (d : Nat) (x : DomCfg) (clusters nt clustersAll ntAll : Nat) : Mach :=
  let m := m.modDom d fun y =>
    { y with host := hostKindOf x.host, ctxBase := BitVec.ofNat 14 x.ctxBase, ctxCount := BitVec.ofNat 15 x.ctxCount,
             quotaClusters := BitVec.ofNat 10 x.clusters, quotaNt := BitVec.ofNat 14 x.ntMib, quotaSlow := BitVec.ofNat 11 x.slowGib,
             hostmemGib := BitVec.ofNat 11 x.hostmemGib, hostAt := x.hostAt, shares := x.shares, remotePort := x.remotePort,
             remoteAddr := x.remoteAddr, key := x.key }
  let m := (List.range 32).foldl (fun m c => if x.cores.getLsbD c then m.moveCore c (some d) else m) m
  let m := m.giveMemory d (m.getDom d).ranges
  match m.mgt.easeOf d x with
  | none => m
  | some (k, n, w) =>
    let k' := easeShare k clusters clustersAll
    let n' := easeShare n nt ntAll
    let less := decide (k' < k) || decide (n' < n)
    let m := m.modPlnDom d fun e => { e with eased := BitVec.ofNat 10 k', easeNt := BitVec.ofNat 32 n', easeLink := BitVec.ofNat 16 w,
                                             easeState := if less then 3 else 2 }
    if less then m.event tyPln 0 4 else m

/-- OPTION_LOADING: the fence list, the configuration registers and the domains take effect together (R496, R498). -/
def Mach.optionLoading (m : Mach) : Mach :=
  m.inPhaseOf 3 fun m =>
    match m.mgt.pickOption with
    | none => m.stopBringUp 3
    | some o =>
      let m := m.event tyFlt 0 6 (m.flt.history.countP fun r => !r.crcGood)
      let m := { m with flt := { m.flt with pending := m.pendingUnits } }
      let m := { m with fence := m.fenceWith o.fence, self := o.module }
      let k := ((List.range 640).filter m.clusterPresent).length
      if k = 0 || ((List.range 64).filter m.channelPresent).isEmpty || m.fence.service then m.stopBringUp 4
      else
        let eased := (List.range 16).filterMap fun d => m.mgt.easeOf d (o.domains.getD d {})
        let kAll := eased.foldl (fun (n : Nat) e => n + e.1) 0
        let ntAll := eased.foldl (fun (n : Nat) e => n + e.2.1) 0
        let m := { m with dom := [], plnDom := [], lastHeld := [] }
        let m := (List.range 16).foldl (fun m d => m.reinstate d (o.domains.getD d {}) k m.nearMib kAll ntAll) m
        let m := { m with
          mgt := { m.mgt with m2 := extend 0 (digestBits (sha512 o.bytes)), ca := o.ca, portsUp := true }
          rst := { m.rst with key := o.resetKey, flashSeq := m.rst.lastSeq }
          pins := { m.pins with gpioDir := o.gpioDir, gpioOut := o.gpioOut } }
        m.toPhase 4

/-- OPTION_LOADING (R498). -/
def execOptionLoading (s : State) : Host.Outcome State Fault Refusal := .next (s.onMach Mach.optionLoading)

/-- The image in a slot runs: what bring-up records of it. -/
def Mach.runImage (m : Mach) (slot : Nat) (f : FwImage) : Mach :=
  let key := match m.mgt.keyIndex f.modulus f.exponent with
    | some i => BitVec.ofNat 4 (2 ^ i)
    | none => 0
  let m := { m with mgt := { m.mgt with
      slot := slot, version := f.version, runRollback := f.rollback, runRevoke := BitVec.ofNat 4 f.revoke, keysUsed := key,
      otherVerified := m.mgt.verifySlot (1 - slot) == 1, m1 := extend 0 (fwDigest f), wdogAt := m.now } }
  m.flushLog.toPhase 5

/-- FIRMWARE_VERIFICATION: the preferred slot runs when it verifies, otherwise the other (R471). -/
def Mach.firmwareVerify (m : Mach) : Mach :=
  m.inPhaseOf 4 fun m =>
    let m := if m.mgt.trialFailed then
        ({ m with mgt := { m.mgt with preferred := 1 - m.mgt.preferred, trial := false, trialFailed := false } } : Mach).mgtNote 0 0
      else m
    let m := if m.mgt.wdogExpired then ({ m with mgt := { m.mgt with wdogExpired := false } } : Mach).mgtNote 3 0 else m
    let p := m.mgt.preferred
    let cp := m.mgt.verifySlot p
    let co := if cp = 1 then 0 else m.mgt.verifySlot (1 - p)
    let m := { m with mgt := { m.mgt with resultA := BitVec.ofNat 8 (if p = 0 then cp else co),
                                          resultB := BitVec.ofNat 8 (if p = 0 then co else cp) } }
    let m := if cp = 1 then m else m.mgtNote 1 cp
    let run := if cp = 1 then some p else if co = 1 then some (1 - p) else none
    match run with
    | none => m.stopBringUp 5
    | some slot => match m.mgt.image slot with
      | some f => m.runImage slot f
      | none => m.stopBringUp 5

/-- FIRMWARE_VERIFICATION (R471). -/
def execFirmwareVerification (s : State) : Host.Outcome State Fault Refusal := .next (s.onMach Mach.firmwareVerify)

/-- LPDDR5X_TRAINING: the present channels train, and the slow tier is zeroed; a channel that fails restarts bring-up (R498, R499). -/
def Mach.trainMemory (m : Mach) (failed : List Nat) : Mach :=
  m.inPhaseOf 5 fun m =>
    let bad := (failed.filter m.channelPresent).eraseDups
    if bad.isEmpty then ((m.zeroMem 0 0x010000000000).chanMode 1).toPhase 6
    else
      (bad.foldl (fun m n => m.fault { kind := 5, event := 8, unit := n, severity := 0, station := m.self * 8192 }) m).unitRestart

/-- LPDDR5X_TRAINING (R498). -/
def execLpddr5xTraining (failed : List Nat) (s : State) : Host.Outcome State Fault Refusal :=
  .next (s.onMach fun m => m.trainMemory failed)

/-- The cluster of generator g (R81): a vector lane's, or a tile-array row's. -/
def genCluster (g : Nat) : Nat := if g < 655360 then g / 1024 else (g - 655360) / 256

/-- The generator self-test: the clusters whose generators mismatch are marked in the history, and are suspect (R100, R460). -/
def Mach.rngTest (m : Mach) (gens : List Nat) : Mach :=
  let ks := ((gens.map genCluster).filter m.clusterPresent).eraseDups
  let m := ks.foldl (fun m k =>
    (m.event tyRng 0 0).fault { kind := 1, event := 9, unit := k, severity := 0, station := m.station k }) m
  { m with rng := { done := true, fail := !ks.isEmpty, failed := BitVec.ofNat 10 ks.length } }

/-- NEAR_TIER_SELF_TEST: near tier, cluster SRAM and local stores are zeroed; a bank that fails restarts bring-up (R498, R499). -/
def Mach.nearTest (m : Mach) (banks gens : List Nat) : Mach :=
  m.inPhaseOf 6 fun m =>
    let bad := (banks.filter m.bankPresent).eraseDups
    if bad.isEmpty then
      let m := ((m.zeroMem 0x010000000000 (8 * 2 ^ 31)).zeroMem (sramBase 0) (640 * 2 ^ 20)).zeroMem (storeBase 0) (10240 * 2 ^ 15)
      (m.rngTest gens).toPhase 7
    else
      (bad.foldl (fun m n => m.fault { kind := 4, event := 9, unit := n, severity := 0, station := m.self * 8192 }) m).unitRestart

/-- NEAR_TIER_SELF_TEST (R498). -/
def execNearTierSelfTest (banks gens : List Nat) (s : State) : Host.Outcome State Fault Refusal :=
  .next (s.onMach fun m => m.nearTest banks gens)

/-! ## Routing version 0 (R405) -/

/-- The endpoints of this module, ascending (R393). -/
def endpoints : List Nat :=
  List.range 640 ++ [0x0800, 0x0801, 0x0900, 0x0910, 0x0920, 0x0930] ++ (List.range 8).map (0x0A00 + ·)

/-- The outputs of tract t towards a unit of tract u: the ring hops that never go up in rank after going down, for ranks equal to
the tracts' numbers. -/
def ringMask (t u : Nat) : Nat :=
  match t, u with
  | 0, 1 => 2 ^ 12 | 0, 2 => 2 ^ 13 | 0, _ => 2 ^ 12 + 2 ^ 13
  | 1, 3 => 2 ^ 12 | 1, _ => 2 ^ 13
  | 2, 3 => 2 ^ 13 | 2, _ => 2 ^ 12
  | _, 2 => 2 ^ 12 | _, 1 => 2 ^ 13 | _, _ => 2 ^ 12 + 2 ^ 13

/-- The tract that traffic of tract t takes to a unit that t does not deliver to: a cluster's or a near-tier die's own tract; to
an update die, the neighbour of t that borders it: T2 and T3 reach U0 through T0 and T1, T0 and T1 reach U1 through T2 and T3
(R14). -/
def tractTowards (t l : Nat) : Nat :=
  if l = 0x0800 then t - 2 else if l = 0x0801 then t + 2 else (tractsOf l).headD 0

/-- Local entry of router t for a local part: the delivery code of a unit that t borders, otherwise the hops towards it (R14, R395). -/
def localEntry (t l : Nat) : BitVec 32 :=
  BitVec.ofNat 32 (2 ^ 31 + (if (tractsOf l).contains t then 2 ^ deliveryCode l else ringMask t (tractTowards t l)))

/-- Version 0 with the on-module routes to the units that are present (R27), every module entry invalid, armed and flipped (R405). -/
def Mach.routeVersion0 (m : Mach) : Mach :=
  (List.range 4).foldl (fun m t => m.modRte t fun r =>
    { r with v0 := { state := .injecting, rank := BitVec.ofNat 24 t,
                     lt := (endpoints.filter m.endpointPresent).map fun l => (l, localEntry t l) },
             inject := false }) m

/-- LINK_TRAINING: link and service ports train, and routing version 0 is set (R498). -/
def Mach.trainLinks (m : Mach) (rs : List Training) (svc : List Bool) : Mach :=
  m.inPhaseOf 7 fun m =>
    let m := (List.range 48).foldl (fun m p =>
      if m.portWidth p = 0 then m
      else (m.modLnk p fun l => { l with state := .training }).trainingDone p (rs.getD p { passing := 0, steps := 0 })) m
    let m := (List.range 2).foldl (fun m p =>
      m.modSvc p fun v => { v with state := if svc.getD p false then 2 else 0 }) m
    m.routeVersion0.toPhase 8

/-- LINK_TRAINING (R498). -/
def execLinkTraining (rs : List Training) (svc : List Bool) (s : State) : Host.Outcome State Fault Refusal :=
  .next (s.onMach fun m => m.trainLinks rs svc)

/-- The application cores of every domain that is not in reset and has a local host. -/
def Mach.hostCores (m : Mach) : BitVec 32 :=
  (List.range 16).foldl (fun (b : BitVec 32) d =>
    if (m.getDom d).host == .localHost && !m.rst.domState.getLsbD d then b ||| (m.getDom d).cores else b) 0

/-- READY: the module is in RUN, with every tract at P1, or P3 under the brake, and the application cores leave reset (R501). -/
def Mach.becomeReady (m : Mach) : Mach :=
  m.inPhaseOf 8 fun m =>
    if m.rst.ready then m
    else
      let m := { m with apc := { m.apc with running := m.hostCores },
                        rst := { m.rst with ready := true, readyNs := BitVec.ofNat 48 (m.now - m.rst.releasedAt) } }
      if m.pwr.brake then m.startTracts else m

/-- READY (R501). -/
def execReady (s : State) : Host.Outcome State Fault Refusal := .next (s.onMach Mach.becomeReady)

/-! ## Domain resets (R507) -/

/-- Application cores of a mask are reset, each counted. -/
def Mach.resetCores (m : Mach) (mask : BitVec 32) : Mach :=
  let n := (List.range 32).countP mask.getLsbD
  { m with apc := { m.apc with running := m.apc.running &&& ~~~mask } }.event tyApc 0 0 n

/-- A domain reset begins: contexts, application cores and the transport windows (R507). A domain in reset stays there. -/
def Mach.domainReset (m : Mach) (d : Nat) : Mach :=
  if m.rst.domState.getLsbD d then m
  else
    let x := m.getDom d
    let cs := (m.ctx.map (·.1)).filter fun c => decide (x.ctxBase.toNat ≤ c) && decide (c < x.ctxBase.toNat + x.ctxCount.toNat)
    let m := cs.foldl Mach.ctxReset m
    let m := (m.event tyRst 0 5 x.ctxCount.toNat).resetCores x.cores
    let m := m.modDom d fun x => { x with rxHigh := none, rxSeen := [], rxLow := 0, txSeq := 0, out := [] }
    { m with rst := { m.rst with domState := m.rst.domState ||| BitVec.ofNat 16 (2 ^ d) } }.event tyRst 0 4

/-- A domain reset ends once its contexts are INACTIVE and its hold is released: RESET_DONE, and its cores restart. -/
def Mach.domainResetDone (m : Mach) (d : Nat) : Mach :=
  let x := m.getDom d
  let quiet := m.ctx.all fun e => !(decide (x.ctxBase.toNat ≤ e.1) && decide (e.1 < x.ctxBase.toNat + x.ctxCount.toNat)) ||
    e.2.state == .inactive
  if 16 ≤ d || !m.rst.domState.getLsbD d || m.rst.hold.getLsbD d || !quiet then m
  else
    let m := { m with rst := { m.rst with domState := m.rst.domState &&& ~~~BitVec.ofNat 16 (2 ^ d) } }.event tyDom d 3
    if x.host == .localHost then { m with apc := { m.apc with running := m.apc.running ||| x.cores } } else m

/-- DOMAIN_RESET_DONE (R507). -/
def execDomainResetDone (d : Nat) (s : State) : Host.Outcome State Fault Refusal := .next (s.onMach fun m => m.domainResetDone d)

/-- A write of RST_DOMAIN_HOLD: domains newly held are reset. -/
def Mach.setHold (m : Mach) (hold : BitVec 16) : Mach :=
  let m := { m with rst := { m.rst with hold := hold } }
  (List.range 16).foldl (fun m d => if hold.getLsbD d then m.domainReset d else m) m

end Sys2Proof.Machine
end

