-- ==== Sys2Proof/Machine/Observe.lean ====
section
/-!
DEFINITION. Theodolite (chapter 20): the claiming of cluster counters (R511 to R513), the selectors of global counters (R514), and
the trace of a domain with its buffer (R515).
-/
namespace Sys2Proof.Machine

/-! ## Cluster counters (R511 to R513) -/

/-- The event codes of R513, but 0. -/
def thdEvents : List Nat :=
  [0x01, 0x02, 0x03, 0x04, 0x05, 0x06, 0x07, 0x08, 0x09, 0x0A, 0x0B, 0x10, 0x11, 0x12, 0x18, 0x19, 0x1A, 0x1B, 0x20, 0x21, 0x28]

/-- A write of a cluster counter's selector by the host of a domain, or by the management processor or the planner firmware (none).
A write that changes the selector sets its counter to zero. -/
def Mach.thdSelect (m : Mach) (by' : Option Nat) (k n : Nat) (v : BitVec 32) : Mach :=
  let s := Tab.get {} (m.getThdClu k).sel n
  let ev := v.toNat % 256
  let cores := BitVec.ofNat 16 (v.toNat / 256)
  let foreign := match by' with
    | some d => s.mgt || (s.claimed && s.owner.toNat != d)
    | none => false
  let set (x : ThdSel) : Mach := m.modThdClu k fun t => { t with sel := Tab.put {} t.sel n x }
  if foreign || (ev != 0 && !thdEvents.contains ev) then m.event tyThd (k + 1) 0
  else if ev = 0 then set {}
  else
    let new : ThdSel := { claimed := true, mgt := by'.isNone, owner := BitVec.ofNat 4 (by'.getD 0), cores := cores,
                          event := BitVec.ofNat 8 ev }
    if new = { s with ctr := 0 } then m else set new

/-- What the host of a domain, or another requester, reads of a selector and its counter (R512). -/
def ThdSel.shown (s : ThdSel) (by' : Option Nat) : ThdSel :=
  match by' with
  | some d => if s.claimed && !s.mgt && s.owner.toNat == d then s else {}
  | none => s

/-! ## Global counters (R511, R514) -/

/-- A write of selector n of a domain's global counters. -/
def Mach.thdGlobalSelect (m : Mach) (d n : Nat) (ev : BitVec 8) : Mach :=
  if Tab.get 0 (m.getThdDom d).gsel n = ev then m
  else m.modThdDom d fun t => { t with gsel := Tab.put 0 t.gsel n ev, gctr := Tab.put 0 t.gctr n 0 }

/-! ## The trace (R515) -/

/-- The contexts of a domain lose the region of its trace buffer. -/
def Mach.unmapTrace (m : Mach) (d : Nat) : Mach :=
  let rs := m.traceRegion d
  let ctx (c : Nat) (x : Ctx) : Ctx :=
    if m.domOfCtx c = some d then { x with regions := x.regions.filter fun r => !rs.contains r } else x
  { m with ctx := Tab.mapVals {} ctx m.ctx }

/-- The trace of a domain is empty, with no buffer; datagrams on their way carry no record of it any more. -/
def Mach.emptyTrace (m : Mach) (d : Nat) : Mach :=
  let m := m.unmapTrace d
  let old (o : OutGram) : OutGram := { o with trace := 0 }
  (m.modDom d fun x => { x with out := x.out.map old }).modThdDom d fun t =>
    { t with head := 0, acked := 0, place := none, base := 0, lostRun := 0 }

/-- The trace of a domain is refused: MODE reads OFF. -/
def Mach.refuseTrace (m : Mach) (d : Nat) : Mach :=
  (m.modThdDom d fun t => { t with mode := 0, asked := false }).event tyThd 0 1

/-- A write of THD_TRACE_CTRL. One that changes MODE or SIZE_MIB empties the trace and asks for a buffer; STREAM is refused for a
local host. -/
def Mach.traceControl (m : Mach) (d : Nat) (v : BitVec 32) : Mach :=
  let mode := BitVec.ofNat 2 v.toNat
  let size := BitVec.ofNat 9 (v.toNat / 65536)
  let t := m.getThdDom d
  let m := m.modThdDom d fun t => { t with types := BitVec.ofNat 8 (v.toNat / 256) }
  if t.mode = mode ∧ t.sizeMib = size then m
  else
    let m := (m.emptyTrace d).modThdDom d fun t => { t with mode := mode, sizeMib := size, asked := mode != 0 }
    if mode = 3 ∧ (m.getDom d).host = .localHost then m.refuseTrace d else m

/-- Can the trace buffer of a domain stand at a local address, mapped at a context address: in its near-tier share, and clear of
every region of its contexts? -/
def Mach.tracePlace (m : Mach) (d at' base : Nat) : Bool :=
  let n := (m.getThdDom d).sizeMib.toNat * 2 ^ 20
  let near := match tierOf at' with
    | .near _ _ => true
    | _ => false
  near && m.populated at' n && (m.getDom d).holds [] at' n && at' % 4096 == 0 && base % 4096 == 0 && decide (base + n ≤ 2 ^ 48) &&
    decide (n ≤ 256 * 2 ^ 20) && n != 0 &&
    m.ctx.all fun e => m.domOfCtx e.1 != some d || e.2.regions.all fun r => !spansMeet r.base r.size base n

/-- TRACE_BUFFER_PLACED: the planner places the buffer and maps it read-only in every context of the domain that holds a job; or the
share has no room. A context that holds 256 regions has no entry left for it (R368), and its next plat makes room. -/
def Mach.placeTrace (m : Mach) (d : Nat) (place : Option (Nat × Nat)) : Mach :=
  if !(m.getThdDom d).asked then m
  else
    match place with
    | none => m.refuseTrace d
    | some (at', base) =>
      if !m.tracePlace d at' base then m
      else
        let m := m.modThdDom d fun t => { t with place := some at', base := BitVec.ofNat 48 base, asked := false }
        let rs := m.traceRegion d
        let ctx (c : Nat) (x : Ctx) : Ctx :=
          if m.domOfCtx c = some d && x.job.isSome && decide (x.regions.length < 256) then { x with regions := x.regions ++ rs } else x
        { m with ctx := Tab.mapVals {} ctx m.ctx }

/-- TRACE_BUFFER_PLACED (R515). -/
def execTraceBufferPlaced (d : Nat) (place : Option (Nat × Nat)) (s : State) : Host.Outcome State Fault Refusal :=
  .next (s.onMach fun m => if d < 16 then m.placeTrace d place else m)

end Sys2Proof.Machine
end

