-- ==== Sys2Proof/Machine/Pages.lean ====
section
/-!
DEFINITION. The register pages (chapter 02 and the register tables of every chapter): what each register reads as and what a write of
it does. `v` is the viewer: the host of a domain, or none for the management processor and the planner firmware (R49).
-/
namespace Sys2Proof.Machine

/-! ## Registers of a page -/

/-- A register: its offset in the page, its size of 4 or 8 bytes, its value, and what a write of the whole register does. `base` is
what a write of one half of a 64-bit register merges into: the value, or the staged value of an RWS register (R43, R45). -/
structure Reg where
  off : Nat
  size : Nat
  val : Nat
  base : Nat
  put : Option (Nat → Mach → Mach)

/-- A 32-bit register that cannot be written. -/
def ro (off val : Nat) : Reg := { off := off, size := 4, val := val, base := val, put := none }
/-- A 64-bit register that cannot be written. -/
def ro64 (off val : Nat) : Reg := { off := off, size := 8, val := val, base := val, put := none }
/-- A 32-bit register with a write. -/
def rw (off val : Nat) (put : Nat → Mach → Mach) : Reg := { off := off, size := 4, val := val, base := val, put := some put }
/-- A 64-bit register with a write. -/
def rw64 (off val : Nat) (put : Nat → Mach → Mach) : Reg := { off := off, size := 8, val := val, base := val, put := some put }
/-- Words of a wide read-only map, 64 bits each, from an offset on. -/
def roWords (off n x : Nat) : List Reg := (List.range n).map fun i => ro64 (off + 8 * i) (fld x (64 * i) 64)

/-- A number whose bits say which of n things hold. -/
def bitmap (n : Nat) (p : Nat → Bool) : Nat := (List.range n).foldl (fun x i => x + b2n (p i) * 2 ^ i) 0

/-! ## The common header (R35 to R37, R40, R46) -/

/-- Does a block implement CTRL.QUIESCE? -/
def canQuiesce (ty : Nat) : Bool := ty == tyTrv || ty == tyGth || ty == tySpr || ty == tyUpd || ty == tyCtx

/-- Has a block RWS registers? -/
def isStaged (ty : Nat) : Bool := ty == tyCmt || ty == tyPwr

/-- CAPS.BLOCK of a block type. -/
def capsBlock (ty inst : Nat) : Nat :=
  match ty with
  | 0x01 => 0x0C * 2 ^ 32 + 0x10 * 2 ^ 24 + 0xA0
  | 0x02 => 0x10 * 2 ^ 40 + 0x100 * 2 ^ 28 + 0x400 * 2 ^ 16
  | 0x03 => 0x08 * 2 ^ 32 + 0x40 * 2 ^ 24 + 0x800 * 2 ^ 12 + b2n (inst % 16 == 0)
  | 0x04 => 0x20 * 2 ^ 32 + 0x04 * 2 ^ 24 + 0x04 * 2 ^ 16 + 0x400
  | 0x05 => 0x1000 * 2 ^ 32 + 0x40 * 2 ^ 24 + 0x400 * 2 ^ 13 + 0x1000
  | 0x06 => 0x1000 * 2 ^ 32 + 0x100 * 2 ^ 20 + 0x100 * 2 ^ 8 + 0x10
  | 0x07 => 0x40 * 2 ^ 32 + 0x18 * 2 ^ 16 + 0x100
  | 0x08 => 0x10 * 2 ^ 32 + 0x2580 * 2 ^ 16 + 0x40 * 2 ^ 8 + 0x04
  | 0x09 => 0x200 * 2 ^ 32 + 0x40 * 2 ^ 24 + 0x1000 * 2 ^ 11 + 0x200
  | 0x0A => 0x1000 * 2 ^ 32 + 0x40 * 2 ^ 24 + 0x02 * 2 ^ 16 + 0x800
  | 0x0B => 0x04 * 2 ^ 32 + 0x40 * 2 ^ 16 + 0x32
  | 0x0C => 0x08 * 2 ^ 40 + 0x08 * 2 ^ 32 + 0x800 * 2 ^ 16 + 0x28
  | 0x0D => 0x800 * 2 ^ 36 + 0x2000 * 2 ^ 22 + 0x1000 * 2 ^ 9 + 0x8 * 2 ^ 5 + 0x11
  | 0x10 => 0x02 * 2 ^ 40 + 0x40 * 2 ^ 32 + 0x04 * 2 ^ 24
  | 0x11 => 0x3E8 * 2 ^ 32 + 0x64 * 2 ^ 16 + 0x08 * 2 ^ 8 + 0x04
  | 0x12 => 0x2A0 * 2 ^ 32 + 0x73 * 2 ^ 24 + 0x69 * 2 ^ 16 + 0x05 * 2 ^ 8
  | 0x13 => 0x40 * 2 ^ 40 + 0x10 * 2 ^ 32 + 0x100 * 2 ^ 16
  | 0x15 => 0xFA * 2 ^ 32 + 0x7D0 * 2 ^ 16 + 0x40
  | _ => 0

/-- The EVENT bits that a block type can set. -/
def eventBits (ty : Nat) : Nat :=
  match ty with
  | 0x01 => 0x07 | 0x02 => 0x07 | 0x03 => 0xFF | 0x04 => 0x7F | 0x05 => 0xFF | 0x06 => 0x7F | 0x07 => 0x07 | 0x08 => 0x07
  | 0x09 => 0x7F | 0x0A => 0x7F | 0x0B => 0x7F | 0x0C => 0x3F | 0x0D => 0xFF | 0x0E => 0x0F | 0x0F => 0x7F | 0x10 => 0x7F
  | 0x11 => 0x3F | 0x12 => 0x7F | 0x13 => 0x07 | 0x14 => 0x01 | 0x15 => 0xFF | 0x16 => 0x1F | 0x18 => 0x03
  | _ => 0

/-- Has a block work in flight (STATUS.ACTIVE)? -/
def Mach.blockActive (m : Mach) (ty inst : Nat) : Bool :=
  match ty with
  | 0x03 => (m.getCore inst).run != .idle
  | 0x04 => !(m.getTrv inst).work.isEmpty
  | 0x05 => !(m.getGth inst).work.isEmpty || !(m.getGth inst).coal.isEmpty
  | 0x06 => !(m.getSpr inst).work.isEmpty || !(m.getSpr inst).fwd.isEmpty || (m.getSpr inst).routed.any (·.started)
  | 0x09 => (m.getUpd inst).lanes.any (fun e => e.2.isSome) || (m.getUpd inst).rootRunning.isSome
  | 0x0A => m.jobsActive != 0
  | 0x0B => m.planState != 0
  | 0x0C => !(m.getLnk inst).queue.isEmpty || (m.getLnk inst).replay.any fun (f : TxFrame) => f.packet?.isSome
  | 0x0D => !(m.getRte inst).held.isEmpty
  | 0x0F => !(m.getCtx inst).taken.isEmpty || !(m.getCtx inst).finished.isEmpty
  | _ => false

/-- A write of CTRL (R36, R46): QUIESCE and ENABLE take their values; COMMIT commits a page-triggered staged group, and the power
page has the only one. -/
def Mach.putCtrl (m : Mach) (ty inst v : Nat) : Mach :=
  let q := canQuiesce ty && bitAt v 1
  let m := m.modHdr (hdrKey ty inst) fun h => { h with quiesce := q, enable := bitAt v 0, quiesced := h.quiesced && q }
  if bitAt v 2 && ty == tyPwr then m.pwrCommit else m

/-- What CTRL reads as. -/
def Hdr.ctrl (h : Hdr) : Nat := 2 * b2n h.quiesce + b2n h.enable

/-- The common header of a page 0 (R35). CTRL, EVENT and EVENT_MASK can be written on the RNG page too, which chapter 4 says holds nothing
that can be written: the model takes that for the page's own registers (DESIGN CHOICE). -/
def Mach.hdrRegs (m : Mach) (ty inst : Nat) : List Reg :=
  let h := m.getHdr (hdrKey ty inst)
  let caps := b2n (isStaged ty) * 2 ^ 63 + b2n (canQuiesce ty) * 2 ^ 62 + (pagesOf ty - 1) * 2 ^ 60 + capsBlock ty inst
  [ ro 0x000 (ty * 2 ^ 24 + inst), ro 0x004 (0x10000 + stepping), ro64 0x008 caps,
    rw 0x010 h.ctrl fun v m => m.putCtrl ty inst v,
    ro 0x014 (2 * b2n h.quiesced + b2n (m.blockActive ty inst)),
    rw 0x018 h.event.toNat fun v m => m.modHdr (hdrKey ty inst) fun h => { h with event := h.event &&& ~~~BitVec.ofNat 8 v },
    rw 0x01C h.mask.toNat fun v m => m.modHdr (hdrKey ty inst) fun h => { h with mask := BitVec.ofNat 8 v } ] ++
  (List.range 8).map fun e => ro (0x020 + 4 * e) (Tab.get 0 h.tallies e).toNat

/-! ## Module, tracts, clusters, cores (R25, R29, R30, R99, R196) -/

/-- MOD (R25). -/
def Mach.modRegs (m : Mach) : List Reg :=
  let ports := (List.range 48).countP fun p => m.portWidth p != 0
  let chans := (List.range 64).countP m.channelPresent
  let clus := (List.range 640).countP m.clusterPresent
  let widths := (List.range 48).foldl (fun x p => x + m.portWidth p * 16 ^ p) 0
  [ ro 0x040 0x00041000, ro 0x044 stepping, ro64 0x048 m.serial.toNat, ro 0x050 (ports * 2 ^ 24 + chans * 2 ^ 16 + clus),
    ro 0x054 ((List.range 512).countP m.bankPresent), ro64 0x058 (bitmap 64 m.channelPresent) ] ++
  roWords 0x060 8 (bitmap 512 m.bankPresent) ++ roWords 0x0A0 10 (bitmap 640 m.clusterPresent) ++ roWords 0x0F0 3 widths

/-- TRC (R29). -/
def Mach.trcRegs (m : Mach) (t : Nat) : List Reg :=
  let x := m.getTrc t
  [ ro 0x040 ((List.range 160).countP fun i => m.clusterPresent (160 * t + i)), ro 0x044 (x.mhz.toNat * 2 ^ 16 + x.op.toNat),
    ro 0x048 x.tempMax.toNat, ro64 0x050 x.cycles.toNat, ro64 0x058 x.stretched.toNat ]

/-- CLU (R30). -/
def Mach.cluRegs (m : Mach) (k : Nat) : List Reg :=
  let c := m.getClu k
  let s := Tab.get {} m.pwr.sensors k
  [ ro 0x040 (k / 160 * 2 ^ 16 + k % 160 / 16 * 2 ^ 8 + k % 16),
    ro 0x044 (b2n c.assigned * 2 ^ 31 + c.domain.toNat * 2 ^ 16 + c.job.toNat),
    ro 0x048 (c.hashKib.toNat * 2 ^ 16 + c.prefetchKib.toNat), ro 0x04C (2 * b2n (m.pwr.gate.getLsbD k) + b2n c.suspect),
    ro 0x050 (b2n s.failed * 2 ^ 31 + s.temp.toNat), ro64 0x058 c.closureAdds.toNat ] ++
  (List.range 256).map fun n => ro (0x400 + 4 * n) (Tab.get 0 c.counters n).toNat

/-- COR_STATE.STATE (R196). -/
def CoreRun.code : CoreRun → Nat
  | .idle => 0
  | .running => 1
  | .waiting => 2
  | .stalled => 3
  | .halted => 4

/-- COR (R196). -/
def Mach.corRegs (m : Mach) (q : Nat) : List Reg :=
  let c := m.getCore q
  [ ro 0x040 (c.waitCounter.toNat * 2 ^ 8 + c.run.code), ro 0x044 c.pc.toNat, ro 0x048 (c.phase.toNat * 2 ^ 16 + c.progId.toNat),
    ro 0x04C (c.xfers.countP fun x => !x.reads.isEmpty), ro64 0x050 c.step.toNat, ro64 0x058 c.retired.toNat,
    ro64 0x060 c.stalls.toNat, ro64 0x068 c.waits.toNat, ro 0x070 c.waitTarget.toNat, ro 0x074 c.amax.toNat,
    ro 0x078 (c.dmaPc.toNat * 2 ^ 16 + c.dmaReason.toNat) ]

/-- RNG (R99). -/
def Mach.rngRegs (m : Mach) : List Reg :=
  [ ro 0x040 0x00401000, ro 0x044 0x400, ro 0x048 (1280 * (List.range 640).countP m.clusterPresent),
    ro 0x04C (b2n m.rng.done * 2 ^ 31 + b2n m.rng.fail * 2 ^ 30 + m.rng.failed.toNat) ]

/-! ## Engines (R135, R136, R172, R173, R249) -/

/-- The step that the job of cluster k executes; of a cluster without one, the last it executed there. -/
def Mach.stepShown (m : Mach) (k : Nat) (last : BitVec 64) : Nat :=
  (((m.slotOfCluster k).bind m.job?).map (·.step)).getD last |>.toNat

/-- TRV page 0 and page 1 (R135, R136). -/
def Mach.trvRegs (m : Mach) (k p : Nat) : List Reg :=
  let t := m.getTrv k
  match p with
  | 0 =>
    [ rw 0x040 t.lookahead.toNat fun v m => m.modTrv k fun t => { t with lookahead := BitVec.ofNat 2 v },
      ro 0x044 (t.queue.length * 2 ^ 16 + m.walkersBusy k), ro64 0x048 t.batches.toNat, ro64 0x050 t.draws.toNat,
      ro64 0x058 t.reads.toNat, ro64 0x060 t.lastBatch.toNat, ro64 0x068 (m.stepShown k t.step) ]
  | _ =>
    [ ro 0x000 t.hashOcc.toNat, ro 0x004 t.hashPeak.toNat, ro 0x008 t.refuseReason.toNat, ro64 0x010 t.refuseBatch.toNat,
      ro 0x018 (m.fetchesOut k 0) ]

/-- GTH page 0 and page 1 (R172, R173). -/
def Mach.gthRegs (m : Mach) (k p : Nat) : List Reg :=
  let g := m.getGth k
  match p with
  | 0 =>
    [ rw 0x040 g.prefetchKib.toNat fun v m => m.modGth k fun g => { g with prefetchKib := BitVec.ofNat 9 v },
      ro 0x044 (g.coal.length * 2 ^ 16 + ((List.range 3).map (m.fetchesOut k)).foldl (· + ·) 0), ro64 0x048 g.lookups.toNat, ro64 0x050 g.rows.toNat,
      ro64 0x058 g.hits.toNat, ro64 0x060 g.contributions.toNat, ro64 0x068 g.addsSent.toNat, ro64 0x070 g.emptyBags.toNat,
      ro64 0x078 g.step.toNat ]
  | _ =>
    [ ro 0x000 g.hints.length, ro 0x008 (g.refuseTable.toNat * 2 ^ 20 + g.refuseReason.toNat), ro64 0x010 g.refuseStep.toNat,
      ro64 0x018 (g.dropTable.toNat * 2 ^ 52 + g.dropIndex.toNat) ]

/-- SPR (R249). -/
def Mach.sprRegs (m : Mach) (k : Nat) : List Reg :=
  let e := m.getSpr k
  [ rw 0x040 e.threshold.toNat fun v m => m.modSpr k fun e => { e with threshold := BitVec.ofNat 11 v },
    rw 0x044 e.heavy.toNat fun v m => m.modSpr k fun e => { e with heavy := BitVec.ofNat 24 (max 0x1000 (v % 2 ^ 24)) },
    rw 0x048 (e.pos.toNat * 2 ^ 16 + e.count.toNat) fun v m => m.modSpr k fun e =>
      { e with pos := BitVec.ofNat 10 (v / 2 ^ 16), count := BitVec.ofNat 10 v },
    ro 0x04C (e.fwd.length * 2 ^ 16 + e.queue.length), ro64 0x050 e.tiles.toNat, ro64 0x058 e.matched.toNat,
    ro64 0x060 e.segments.toNat, ro64 0x068 e.forwarded.toNat, ro64 0x070 e.maskTile.toNat,
    ro 0x078 (e.maskCore.toNat * 2 ^ 16 + e.maskPc.toNat), ro 0x07C e.refuse.toNat ]

/-! ## Memory (R381, R382) -/

/-- NTM (R381). -/
def Mach.ntmRegs (m : Mach) (d : Nat) : List Reg :=
  let x := m.getNtm d
  [ ro64 0x040 (bitmap 64 fun j => m.bankPresent (64 * d + j)), ro 0x048 (24 * (m.presentBanks d).length), ro64 0x050 x.reads.toNat,
    ro64 0x058 x.writes.toNat, ro64 0x060 x.adds.toNat, ro64 0x068 x.errAddr.toNat ]

/-- MEM_PLACE of channel n (R382). -/
def Mach.memPlace (m : Mach) (n : Nat) : Nat :=
  ((m.presentChannels (n / 32)).findIdx? (· == n)).getD 0xFF * 2 ^ 8 + n / 4 * 2 ^ 4 + n / 32

/-- MEM (R382). -/
def Mach.memRegs (m : Mach) (n : Nat) : List Reg :=
  let x := m.getChan n
  [ ro 0x040 (m.memPlace n), ro 0x044 (min 64 (m.queued n)), ro 0x048 x.mode.toNat, ro64 0x050 x.reads.toNat,
    ro64 0x058 x.writes.toNat, ro64 0x060 x.adds.toNat, ro64 0x068 x.stalls.toNat, ro64 0x070 x.errAddr.toNat ]

/-! ## Update dies (R299 to R302) -/

/-- The job whose groups and preconditioners a die shows: the one that its tables belong to. -/
def Mach.dieShown (m : Mach) (die : Nat) : Option Job :=
  m.cmt.jobs.findSome? fun e => match e.2 with
    | some j => if BitVec.ofNat 48 (j.imageAt + (m.jobHdr j).groupTable) = (m.getUpd die).groupBase then some j else none
    | none => none

/-- The words of update program i that stands at an address (R339). -/
def Mach.progAt (m : Mach) (base i : Nat) : List (BitVec 64) :=
  let o := base + 520 * i
  (List.range (min 64 (m.peekNat o 8 % 128))).map fun j => BitVec.ofNat 64 (m.peekNat (o + 8 + 8 * j) 8)

/-- A write of UPD_PROG_COUNT: the die reads its programs (R300). -/
def Mach.loadPrograms (m : Mach) (die n : Nat) : Mach :=
  let n := n % 512
  let base := (m.getUpd die).progBase.toNat
  m.modUpd die fun u => { u with progCount := BitVec.ofNat 9 n, programs := (List.range n).map (m.progAt base) }

/-- UPD (R299 to R302). -/
def Mach.updRegs (m : Mach) (die p : Nat) : List Reg :=
  let u := m.getUpd die
  match p with
  | 0 =>
    [ rw 0x040 (u.groups.toNat * 2 ^ 16 + u.preconds.toNat) fun v m => m.modUpd die fun u =>
        { u with groups := BitVec.ofNat 13 (v / 2 ^ 16), preconds := BitVec.ofNat 11 v },
      rw64 0x048 u.groupBase.toNat fun v m => m.modUpd die fun u => { u with groupBase := BitVec.ofNat 48 v },
      rw64 0x050 u.precondBase.toNat fun v m => m.modUpd die fun u => { u with precondBase := BitVec.ofNat 48 v },
      ro64 0x058 u.step.toNat, ro 0x060 u.state.toNat, ro64 0x068 u.elements.toNat, ro64 0x070 u.rows.toNat,
      ro64 0x078 u.refresh.toNat, ro64 0x080 u.roots.toNat, ro64 0x088 u.busy.toNat ]
  | 1 =>
    let prog := u.programs.getD u.progSel.toNat []
    [ rw64 0x000 u.progBase.toNat fun v m => m.modUpd die fun u => { u with progBase := BitVec.ofNat 48 v },
      rw 0x008 u.progCount.toNat fun v m => m.loadPrograms die v,
      rw 0x010 (u.progSel.toNat * 2 ^ 6 + u.progIndex.toNat) fun v m => m.modUpd die fun u =>
        { u with progSel := BitVec.ofNat 8 (v / 2 ^ 6), progIndex := BitVec.ofNat 6 v },
      ro64 0x018 (prog.getD u.progIndex.toNat 0).toNat, ro 0x020 prog.length ]
  | 2 =>
    let g : GroupSt := match m.dieShown die with
      | some j => Tab.get {} j.groups u.groupSel.toNat
      | none => {}
    [ rw 0x000 u.groupSel.toNat fun v m => m.modUpd die fun u => { u with groupSel := BitVec.ofNat 12 v },
      ro64 0x008 g.position.toNat, ro 0x010 g.amax.toNat, ro64 0x018 (Tab.get 0 g.elements die) ] ++
    (List.range 8).map fun i => ro (0x020 + 4 * i) (match m.dieShown die with
      | some j => (m.nextScalar j u.groupSel.toNat i).toNat
      | none => 0)
  | _ =>
    let r : PrecondSt := match m.dieShown die with
      | some j => Tab.get {} j.preconds u.rootSel.toNat
      | none => {}
    [ ro 0x000 (match u.rootRunning with
        | some x => 2 ^ 31 + x.precond * 2 ^ 16 + u.rootQueue.length
        | none => u.rootQueue.length),
      rw 0x008 u.rootSel.toNat fun v m => m.modUpd die fun u => { u with rootSel := BitVec.ofNat 10 v },
      ro 0x00C (b2n r.select), ro64 0x010 r.residual.toNat, ro64 0x018 r.adopted.toNat, ro64 0x020 r.rejects.toNat ]

/-! ## Commit unit and planner (R335, R336, R362, R363) -/

/-- CMT_JOB_STATE.STATE (R336). -/
def JobState.code : JobState → Nat
  | .idle => 0
  | .running => 1
  | .reducing => 2
  | .updating => 3
  | .voted => 4
  | .applying => 5
  | .aborting => 6
  | .pastPnr => 7
  | .halted => 8
  | .capturing => 9
  | .restoring => 10

/-- A field kept within bounds (R530). -/
def clampTo (lo hi x : Nat) : Nat := min hi (max lo x)

/-- CMT page 0 and page 1 (R335, R336). Page 1 of a slot without a job shows no job; what can be written there is the slot's own, and the
next job of the slot takes up its undo-log sizes. -/
def Mach.cmtRegs (m : Mach) (p : Nat) : List Reg :=
  let c := m.cmt
  match p with
  | 0 =>
    [ rw 0x040 c.timeout.toNat fun v m => { m with cmt := { m.cmt with timeout := BitVec.ofNat 10 (clampTo 5 1000 (v % 1024)) } },
      ro 0x044 m.jobsActive, rw 0x048 c.jobSel.toNat fun v m => { m with cmt := { m.cmt with jobSel := BitVec.ofNat 6 v } },
      ro64 0x050 c.commits.toNat, ro64 0x058 c.aborts.toNat, ro64 0x060 c.halts.toNat, ro64 0x068 c.monuments.toNat ]
  | _ =>
    let slot := c.jobSel.toNat
    match m.job? slot with
    | none =>
      let f := Tab.get {} c.free slot
      let put (g : FreeSlot → FreeSlot) (m : Mach) : Mach := { m with cmt := { m.cmt with free := Tab.upd {} m.cmt.free slot g } }
      [ rw 0x018 f.logLive.toNat fun v m => put (fun f => { f with logStaged := BitVec.ofNat 13 (clampTo 1 4096 (v % 8192)) }) m,
        rw64 0x060 f.reduceBase.toNat fun v m => put (fun f => { f with reduceBase := BitVec.ofNat 48 v }) m,
        rw 0x068 f.reduceCount.toNat fun v m => put (fun f => { f with reduceCount := BitVec.ofNat 17 v }) m ]
    | some j =>
      [ ro 0x000 (2 ^ 31 + j.id),
        ro 0x004 (j.halt.toNat * 2 ^ 24 + j.abort.toNat * 2 ^ 16 + b2n j.inconsistent * 2 ^ 8 + j.state.code * 2 ^ 4 + j.attempt.toNat),
        ro64 0x008 j.step.toNat, ro 0x010 (if j.participants.isEmpty then 0 else j.coordModule * 8192 + cmtUnit),
        ro 0x014 j.participants.length,
        rw 0x018 j.logLive.toNat fun v m => m.modJob slot fun j => { j with logStaged := BitVec.ofNat 13 (clampTo 1 4096 (v % 8192)) },
        ro64 0x020 j.undo0.length, ro64 0x028 j.undo1.length, ro64 0x030 j.sent.toNat, ro64 0x038 j.applied.toNat,
        ro64 0x040 j.commits.toNat, ro64 0x048 j.replays.toNat, ro64 0x050 j.pnr.toNat, ro64 0x058 j.monumentStep.toNat,
        rw64 0x060 j.reduceBase.toNat fun v m => m.modJob slot fun j => { j with reduceBase := BitVec.ofNat 48 v },
        rw 0x068 j.reduceCount.toNat fun v m => m.modJob slot fun j => { j with reduceCount := BitVec.ofNat 17 v },
        ro 0x070 j.logPlaced.toNat ]

/-- Jobs of a domain that are frozen, by slot. -/
def Mach.frozenSlots (m : Mach) (d : Nat) : Nat :=
  bitmap 64 fun s => match m.job? s with
    | some j => j.domain == d && j.frozen
    | none => false

/-- PLN page 0 and page 1 (R362, R363). A host sees its own domain on page 1. -/
def Mach.plnRegs (m : Mach) (v : Option Nat) (p : Nat) : List Reg :=
  match p with
  | 0 =>
    let x := m.pln
    [ ro 0x040 m.planState, rw 0x044 x.domSel.toNat fun v m => { m with pln := { m.pln with domSel := BitVec.ofNat 4 v } },
      ro64 0x048 x.draws.toNat, ro64 0x050 x.adopted.toNat, ro64 0x058 x.forcedNs.toNat, ro 0x060 x.drawMax.toNat,
      ro 0x064 (m.usableClusters.length * 2 ^ 16 + (List.range 64).countP m.channelPresent) ]
  | _ =>
    let d := v.getD m.pln.domSel.toNat
    let e := m.getPlnDom d
    [ ro64 0x000 e.logBase.toNat, ro 0x008 0x04000000, ro64 0x010 e.seq.toNat, ro 0x018 e.head.toNat, ro64 0x020 e.oldest.toNat,
      ro 0x028 (e.eased.toNat * 2 ^ 16 + m.assignedTo d none), ro 0x02C e.easeNt.toNat, ro 0x030 e.easeLink.toNat,
      ro 0x034 e.easeState.toNat, ro64 0x038 (m.frozenSlots d), ro 0x040 e.budget.toNat ]

/-! ## Fabric (R402, R409, R412 to R414) -/

/-- LNK_STATUS.STATE (R412). -/
def LinkState.code : LinkState → Nat
  | .down => 0
  | .training => 1
  | .up => 2
  | .retraining => 3

/-- A write of 1 to LNK_CTRL.RETRAIN (R388). -/
def Mach.retrain (m : Mach) (p : Nat) : Mach :=
  let l := m.getLnk p
  match l.state with
  | .up =>
    let m := match l.episode with
      | some (f, _) => m.episodeEnd p (((l.replay.find? fun (x : TxFrame) => x.seq == f).map TxFrame.resends).getD 0) false
      | none => m
    m.leaveUp p
  | .down => m.modLnk p fun l => { l with state := .training, retrains := l.retrains + 1 }
  | _ => m

/-- LNK (R412). -/
def Mach.lnkRegs (m : Mach) (p : Nat) : List Reg :=
  let l := m.getLnk p
  [ rw 0x040 0 fun v m => if bitAt v 0 then m.retrain p else m,
    ro 0x044 (l.state.code * 2 ^ 28 + l.width.toNat * 2 ^ 24 + l.group.toNat * 2 ^ 16 + l.passing.toNat * 2 ^ 8),
    ro 0x048 (b2n l.remoteValid * 2 ^ 31 + l.remoteModule.toNat * 2 ^ 20 + l.remotePort.toNat * 2 ^ 14), ro 0x04C l.rank0.toNat,
    ro 0x050 l.rank1.toNat, ro64 0x058 l.framesTx.toNat, ro64 0x060 l.framesRx.toNat, ro64 0x068 l.corrected.toNat,
    ro64 0x070 l.resends.toNat, ro64 0x078 l.retrains.toNat ]

/-- RTE_EPOCH state codes (R413). -/
def Version.code : Version → Nat
  | .empty => 0
  | .armed => 1
  | .injecting => 2
  | .draining => 3

/-- The router's ranks go out by its ports that are up (R399). -/
def Mach.announce (m : Mach) (t : Nat) : Mach :=
  (List.range 12).foldl (fun m c =>
    if (m.getLnk (12 * t + c)).state = .up then m.modLnk (12 * t + c) fun l => { l with owedRanks := true } else m) m

/-- A write of 1 to RTE_EPOCH.ARMv: an EMPTY version is ARMED, and its rank announced; of any other version it is refused (R399,
R402). -/
def Mach.arm (m : Mach) (t : Nat) (v : Bool) : Mach :=
  if ((m.getRte t).ver v).state = .empty then (m.modRte t fun r => r.modVer v fun x => { x with state := .armed }).announce t
  else m.event tyRte t 0

/-- A write of 1 to RTE_EPOCH.FLIP: the ARMED version is INJECTING, and the other, where it was INJECTING, is DRAINING (R402). -/
def Mach.flip (m : Mach) (t : Nat) : Mach :=
  let r := m.getRte t
  match [false, true].find? fun v => (r.ver v).state == .armed with
  | none => m.event tyRte t 1
  | some v =>
    (m.modRte t fun r =>
      let r := r.modVer v fun x => { x with state := .injecting }
      let r := r.modVer (!v) fun x => { x with state := if x.state = .injecting then .draining else x.state }
      { r with inject := v, markers := 0, vcMarkers := 0, markersSent := 0 }).drain

/-- A write of a table, rank or multicast entry of a version: refused unless it is EMPTY (R402). -/
def Mach.routeWrite (m : Mach) (t : Nat) (v : Bool) (g : RteTables → RteTables) : Mach :=
  if ((m.getRte t).ver v).state = .empty then m.modRte t fun r => r.modVer v g else m.event tyRte t 0

/-- A write of RTE_TIME_SET: a root's time base steps forward (R409). -/
def Mach.timeSet (m : Mach) (ns : Nat) : Mach :=
  if m.time.root && decide (m.now ≤ ns) then { m with time := { m.time with ns := BitVec.ofNat 64 ns } } else m

/-- RTE pages 0 to 3 (R413, R414). -/
def Mach.rteRegs (m : Mach) (t p : Nat) : List Reg :=
  let r := m.getRte t
  let ent (v : Bool) (g : RteTables → Nat) : Nat := g (r.ver v)
  match p with
  | 0 =>
    let x := m.time
    let only0 (g : Nat → Mach → Mach) : Nat → Mach → Mach := fun v m => if t = 0 then g v m else m
    let old := if r.v0.state = .draining then m.oldCount t false else if r.v1.state = .draining then m.oldCount t true else 0
    [ rw 0x040 (r.v1.state.code * 2 ^ 4 + r.v0.state.code * 2 ^ 2 + b2n r.inject) fun v m =>
        let m := if bitAt v 8 then m.arm t false else m
        let m := if bitAt v 9 then m.arm t true else m
        if bitAt v 10 then m.flip t else m,
      rw 0x044 r.v0.rank.toNat fun v m => m.routeWrite t false fun x => { x with rank := BitVec.ofNat 24 v },
      rw 0x048 r.v1.rank.toNat fun v m => m.routeWrite t true fun x => { x with rank := BitVec.ofNat 24 v },
      ro 0x04C old, ro 0x050 r.markers.toNat, ro64 0x058 r.routed.toNat, ro64 0x060 r.discarded.toNat, ro64 0x068 m.now,
      rw 0x070 (b2n x.root * 2 ^ 31 + b2n x.pps * 2 ^ 30 + b2n x.locked * 2 ^ 29 + x.parent.toNat) (only0 fun v m =>
        { m with time := { m.time with root := bitAt v 31, pps := bitAt v 30, parent := BitVec.ofNat 4 v,
                                       locked := m.time.locked && !bitAt v 31 } }),
      ro 0x074 x.offset.toNat,
      { off := 0x078, size := 8, val := 0, base := m.now, put := some (only0 fun v m => m.timeSet v) } ]
  | 1 =>
    let sel := r.mtSel.toNat
    let v := bitAt sel 12
    [ rw 0x000 sel fun x m => m.modRte t fun r => { r with mtSel := BitVec.ofNat 13 (x % 2048 + b2n (bitAt x 12) * 4096) },
      rw 0x008 (ent v fun y => (Tab.get 0 y.mt (sel % 2048)).toNat) fun x m =>
        m.routeWrite t v fun y => { y with mt := Tab.put 0 y.mt (sel % 2048) (BitVec.ofNat 32 x) } ]
  | 2 =>
    let sel := r.ltSel.toNat
    let v := bitAt sel 13
    [ rw 0x000 sel fun x m => m.modRte t fun r => { r with ltSel := BitVec.ofNat 14 x },
      rw 0x008 (ent v fun y => (Tab.get 0 y.lt (sel % 8192)).toNat) fun x m =>
        m.routeWrite t v fun y => { y with lt := Tab.put 0 y.lt (sel % 8192) (BitVec.ofNat 32 x) } ]
  | _ =>
    let sel := r.mcSel.toNat
    let v := bitAt sel 12
    [ rw 0x000 sel fun x m => m.modRte t fun r => { r with mcSel := BitVec.ofNat 13 x },
      rw64 0x008 (ent v fun y => (Tab.get 0 y.mc (sel % 4096)).toNat) fun x m =>
        m.routeWrite t v fun y => { y with mc := Tab.put 0 y.mc (sel % 4096) (BitVec.ofNat 64 x) } ]

/-! ## Domains, contexts, ports (R443 to R447) -/

/-- DOM_HOST.KIND (R443). -/
def HostKind.code : HostKind → Nat
  | .unused => 0
  | .localHost => 1
  | .remote => 2

/-- DOM (R443). -/
def Mach.domRegs (m : Mach) (d : Nat) : List Reg :=
  let x := m.getDom d
  [ ro 0x040 x.host.code, ro 0x044 x.ctxBase.toNat, ro 0x048 x.ctxCount.toNat, ro 0x04C x.quotaClusters.toNat,
    ro 0x050 x.quotaNt.toNat, ro 0x054 x.quotaSlow.toNat, ro 0x058 x.hostmemGib.toNat, ro 0x05C x.cores.toNat,
    rw 0x060 (x.notifyCore.toNat * 2 ^ 27 + x.notifyId.toNat) fun v m => m.modDom d fun x =>
      { x with notifyCore := BitVec.ofNat 5 (v / 2 ^ 27), notifyId := BitVec.ofNat 11 v },
    rw 0x064 0 fun v m => if bitAt v 0 then m.domainReset d else m, ro 0x068 x.remotePort.toNat ] ++
  roWords 0x070 2 x.remoteAddr.toNat

/-- CTX_STATE.STATE (R444). -/
def CtxState.code : CtxState → Nat
  | .inactive => 0
  | .active => 1
  | .running => 2
  | .stopping => 3
  | .stopped => 4
  | .refused => 5

/-- The 32 bytes of a region entry as a number (R368). -/
def regionNat (r : Region) : Nat :=
  r.base + r.size * 2 ^ 64 + r.target * 2 ^ 128 + r.station * 2 ^ 192 +
    (b2n r.read + 2 * b2n r.write + 4 * b2n r.add) * 2 ^ 224

/-- A write of CTX_CONTROL: RESET, then DEACTIVATE, then ACTIVATE; a domain in reset activates no context (R422, R507, R508). -/
def Mach.ctxControl (m : Mach) (c v : Nat) : Mach :=
  let m := if bitAt v 2 then (m.ctxReset c).event tyRst 0 5 else m
  let m := if bitAt v 1 then m.ctxDeactivate c else m
  let inReset := match m.domOfCtx c with
    | some d => m.rst.domState.getLsbD d
    | none => false
  if bitAt v 0 && !inReset then m.ctxActivate c else m

/-- CTX page 0 and page 1 (R444, R445). -/
def Mach.ctxRegs (m : Mach) (c p : Nat) : List Reg :=
  let x := m.getCtx c
  match p with
  | 0 =>
    let r := match x.regions[x.regionSel.toNat]? with
      | some r => regionNat r
      | none => 0
    [ rw 0x040 0 fun v m => m.ctxControl c v, ro 0x044 (x.refuse.toNat * 2 ^ 8 + x.state.code),
      rw64 0x048 x.descAddr.toNat fun v m => m.modCtx c fun x => { x with descAddr := BitVec.ofNat 48 (v / 256 * 256) },
      ro 0x050 (b2n x.job.isSome * 2 ^ 31 + x.jobId.toNat), ro 0x054 x.clusters.toNat, ro64 0x058 x.commands.toNat,
      ro64 0x060 x.completions.toNat, rw 0x068 x.regionSel.toNat fun v m => m.modCtx c fun x => { x with regionSel := BitVec.ofNat 8 v } ] ++
    roWords 0x070 4 r
  | _ =>
    [ rw 0x000 x.sqTail.toNat fun v m => m.writeSqTail c (BitVec.ofNat 32 v), ro 0x004 x.sqHead.toNat,
      rw 0x008 x.cqHead.toNat fun v m => m.writeCqHead c (BitVec.ofNat 32 v), ro 0x00C x.cqTail.toNat ]

/-- SVC (R446). -/
def Mach.svcRegs (m : Mach) (p : Nat) : List Reg :=
  let x := m.getSvc p
  [ ro 0x040 x.state.toNat, rw 0x044 x.udpPort.toNat fun v m => m.modSvc p fun x => { x with udpPort := BitVec.ofNat 16 v },
    rw 0x048 x.resendUs.toNat fun v m => m.modSvc p fun x => { x with resendUs := BitVec.ofNat 16 (max 0x32 (v % 2 ^ 16)) } ] ++
  ((List.range 2).map fun i => rw64 (0x050 + 8 * i) (fld x.addr.toNat (64 * i) 64) fun v m => m.modSvc p fun x =>
    { x with addr := BitVec.ofNat 128 (x.addr.toNat - fld x.addr.toNat (64 * i) 64 * 2 ^ (64 * i) + v * 2 ^ (64 * i)) }) ++
  [ ro64 0x060 x.rx.toNat, ro64 0x068 x.tx.toNat ]

/-- A write of one byte of APC_ASSIGN (R447): it takes effect where the domains the core leaves and comes to are held in reset. -/
def Mach.putAssign (m : Mach) (c b : Nat) : Mach :=
  let to' := if bitAt b 7 then some (b % 16) else none
  let old := m.coreDomain c
  if old = to' || !m.coreMoves c to' then m
  else
    let m := m.moveCore c to'
    let d := (to'.orElse fun _ => old).getD 0
    m.measure d (.cores (m.getDom d).cores)

/-- APC (R447). -/
def Mach.apcRegs (m : Mach) : List Reg :=
  ((List.range 4).map fun i =>
    let x := (List.range 8).foldl (fun n j => n + (Tab.get 0 m.apc.assign (8 * i + j)).toNat * 256 ^ j) 0
    rw64 (0x040 + 8 * i) x fun v m => (List.range 8).foldl (fun m j => m.putAssign (8 * i + j) (v / 256 ^ j % 256)) m) ++
  [ ro 0x060 m.apc.running.toNat, ro64 0x068 m.apc.guestFaults.toNat ]

/-! ## Faults, management, reset, power, observation (R465, R466, R489 to R491, R509, R518, R519) -/

/-- Is a unit of a kind fenced? -/
def Mach.unitFenced (m : Mach) (kind unit : Nat) : Bool :=
  match kind with
  | 1 => !m.clusterPresent unit
  | 2 => !m.clusterPresent (unit / 16)
  | 3 => m.laneFenced unit
  | 4 => !m.bankPresent unit
  | 5 => !m.channelPresent unit
  | 9 => m.portWidth unit == 0
  | _ => false

/-- FLT page 0 and page 1 (R465, R466). -/
def Mach.fltRegs (m : Mach) (p : Nat) : List Reg :=
  let f := m.flt
  let pend (k : Nat) : Nat := f.pending.countP fun u => u.1 == k
  match p with
  | 0 =>
    [ ro 0x040 f.history.length, ro 0x044 (pend 4 * 2 ^ 16 + pend 1), ro 0x048 (pend 3 * 2 ^ 16 + pend 5), ro64 0x050 f.cperSeq.toNat,
      ro64 0x058 f.reexec.toNat, ro64 0x060 f.watchdogs.toNat, ro64 0x068 f.late.toNat, ro64 0x070 f.stale.toNat,
      ro 0x078 (f.lastKind.toNat * 2 ^ 28 + f.lastUnit.toNat) ]
  | _ =>
    let k := f.selKind.toNat
    let u := f.selUnit.toNat
    let h := (m.unitHistory k u).filter m.inWindow
    let state :=
      if m.unitFenced k u then 3 else if f.pending.contains (k, u) then 2
      else if k = 1 ∧ m.pln.avoidClusters.contains u then 1 else 0
    [ rw 0x000 (k * 2 ^ 28 + u) fun v m => { m with flt := { m.flt with selKind := BitVec.ofNat 4 (v / 2 ^ 28), selUnit := BitVec.ofNat 14 v } },
      ro 0x008 (h.countP fun r => histTransient r.event), ro 0x00C (h.countP fun r => !histTransient r.event),
      ro 0x010 ((h.getLast?.map (·.ptime)).getD 0), ro 0x014 state ]

/-- A write of MGT_FW_CTRL (R472): of both bits the one that applies acts. -/
def Mach.putFwCtrl (m : Mach) (v : Nat) : Mach :=
  if m.mgt.trial then (if bitAt v 1 then m.fwCommit else m) else if bitAt v 0 then m.fwActivate else m

/-- MGT page 0 and page 1 (R489, R490). -/
def Mach.mgtRegs (m : Mach) (p : Nat) : List Reg :=
  let g := m.mgt
  match p with
  | 0 =>
    let other := match g.image (1 - g.slot) with
      | some f => if g.otherVerified then f.version.toNat else 0
      | none => 0
    [ ro 0x040 (g.resultA.toNat * 2 ^ 16 + g.resultB.toNat * 2 ^ 8 + 2 * b2n g.trial + g.slot), ro 0x044 g.version.toNat,
      ro 0x048 other, ro 0x04C g.rollback, rw 0x050 0 fun v m => m.putFwCtrl v,
      rw 0x054 g.wdogMs.toNat fun v m => { m with mgt := { m.mgt with wdogMs := BitVec.ofNat 16 (max 0x64 (v % 2 ^ 16)) } },
      ro 0x058 (g.keysUsed.toNat * 2 ^ 4 + g.keysRevoked.toNat), ro64 0x060 g.logSeq.toNat, ro 0x068 g.ptime.toNat ]
  | _ =>
    let x := match g.measSel with
      | 0 => g.m0
      | 1 => g.m1
      | 2 => g.m2
      | _ => g.m3
    [rw 0x000 g.measSel.toNat fun v m => { m with mgt := { m.mgt with measSel := BitVec.ofNat 2 v } }] ++ roWords 0x008 8 x.toNat

/-- RST (R509). -/
def Mach.rstRegs (m : Mach) : List Reg :=
  let r := m.rst
  [ ro 0x040 (b2n r.ready * 2 ^ 31 + b2n r.stopped * 2 ^ 30 + r.stopReason.toNat * 2 ^ 16 + r.phase.toNat),
    ro 0x044 (r.resets.toNat * 2 ^ 16 + r.unit.toNat * 2 ^ 8 + r.option.toNat * 2 ^ 4 + r.source.toNat), ro64 0x048 r.readyNs.toNat,
    ro64 0x050 r.lastSeq.toNat, rw 0x058 r.hold.toNat fun v m => m.setHold (BitVec.ofNat 16 v), ro 0x05C r.domState.toNat ]

/-- PWR (R491). -/
def Mach.pwrRegs (m : Mach) : List Reg :=
  let p := m.pwr
  let top := hottest m.readings
  let s := Tab.get {} p.sensors p.sel.toNat
  [ rw 0x040 p.stateCmd.toNat fun v m => { m with pwr := { m.pwr with stateStaged := BitVec.ofNat 2 v } },
    rw 0x044 p.opCmd.toNat fun v m => { m with pwr := { m.pwr with opStaged := BitVec.ofNat 8 v } },
    ro 0x048 (p.refuse.toNat * 2 ^ 8 + b2n p.brake * 2 ^ 7 + b2n p.fault * 2 ^ 6 + b2n p.alert * 2 ^ 5 +
      b2n (p.moving.isSome || !p.ops.isEmpty) * 2 ^ 4 + b2n p.off * 2 ^ 3 + p.state.toNat),
    ro 0x04C (p.opCmd.toNat * 2 ^ 8 + p.actual.toNat),
    ro64 0x050 ((List.range 4).foldl (fun n t => n + (Tab.get 0 p.volt t).toNat * 2 ^ (16 * t)) 0), ro 0x058 p.moduleW.toNat ] ++
  ((List.range 10).map fun i => ({
      off := 0x060 + 8 * i, size := 8, val := fld p.gate.toNat (64 * i) 64, base := fld p.gateStaged.toNat (64 * i) 64,
      put := some fun v m =>
        let g := m.pwr.gateStaged.toNat
        { m with pwr := { m.pwr with
          gateStaged := BitVec.ofNat 640 (g - fld g (64 * i) 64 * 2 ^ (64 * i) + v * 2 ^ (64 * i)) } } } : Reg)) ++
  [ ro 0x0B0 (match top with
      | some r => r.1 * 2 ^ 16 + (BitVec.ofInt 16 r.2).toNat
      | none => 0),
    ro64 0x0B8 p.energy.toNat, rw 0x0C0 p.sel.toNat fun v m => { m with pwr := { m.pwr with sel := BitVec.ofNat 10 v } },
    ro 0x0C4 (b2n s.failed * 2 ^ 31 + s.temp.toNat) ]

/-- THD_SEL as it reads (R519). -/
def ThdSel.word (s : ThdSel) : Nat :=
  b2n s.claimed * 2 ^ 31 + b2n s.mgt * 2 ^ 30 + s.owner.toNat * 2 ^ 26 + s.cores.toNat * 2 ^ 8 + s.event.toNat

/-- THD (R518, R519). -/
def Mach.thdRegs (m : Mach) (v : Option Nat) (inst : Nat) : List Reg :=
  if inst = 0 then
    let d := v.getD m.thdSel.toNat
    let t := m.getThdDom d
    [ rw 0x040 d fun x m => if v.isSome then m else { m with thdSel := BitVec.ofNat 4 x },
      rw 0x044 (t.sizeMib.toNat * 2 ^ 16 + t.types.toNat * 2 ^ 8 + t.mode.toNat) fun x m => m.traceControl d (BitVec.ofNat 32 x),
      ro64 0x048 t.base.toNat, ro64 0x050 t.head.toNat, ro64 0x058 t.lost.toNat ] ++
    ((List.range 16).map fun n => rw (0x060 + 4 * n) (Tab.get 0 t.gsel n).toNat fun x m => m.thdGlobalSelect d n (BitVec.ofNat 8 x)) ++
    (List.range 16).map fun n => ro64 (0x0A0 + 8 * n) (Tab.get 0 t.gctr n).toNat
  else
    let k := inst - 1
    let t := m.getThdClu k
    ((List.range 64).map fun n => rw (0x040 + 4 * n) ((Tab.get {} t.sel n).shown v).word fun x m => m.thdSelect v k n (BitVec.ofNat 32 x)) ++
    ((List.range 64).map fun n => ro64 (0x140 + 8 * n) ((Tab.get {} t.sel n).shown v).ctr.toNat) ++
    (List.range 4).map fun j => rw (0x340 + 4 * j) (Tab.get 0 t.traced j).toNat fun x m =>
      m.modThdClu k fun t => { t with traced := Tab.put 0 t.traced j (BitVec.ofNat 9 x) }

/-! ## A page -/

/-- The registers of a page below the common header. -/
def Mach.bodyRegs (m : Mach) (v : Option Nat) (ty inst p : Nat) : List Reg :=
  match ty with
  | 0x00 => m.modRegs | 0x01 => m.trcRegs inst | 0x02 => m.cluRegs inst | 0x03 => m.corRegs inst | 0x04 => m.trvRegs inst p
  | 0x05 => m.gthRegs inst p | 0x06 => m.sprRegs inst | 0x07 => m.ntmRegs inst | 0x08 => m.memRegs inst | 0x09 => m.updRegs inst p
  | 0x0A => m.cmtRegs p | 0x0B => m.plnRegs v p | 0x0C => m.lnkRegs inst | 0x0D => m.rteRegs inst p | 0x0E => m.domRegs inst
  | 0x0F => m.ctxRegs inst p | 0x10 => m.mgtRegs p | 0x11 => m.rstRegs | 0x12 => m.pwrRegs | 0x13 => m.thdRegs v inst
  | 0x14 => m.rngRegs | 0x15 => m.fltRegs p | 0x16 => m.svcRegs inst | 0x18 => m.apcRegs
  | _ => []

/-- Does a page exist (R32, R48)? -/
def pageExists (ty inst p : Nat) : Bool := decide (inst < instances ty) && decide (p < pagesOf ty)

/-- What a fenced instance shows beyond ID, VERSION, CAPS and STATUS: a channel its place with INDEX 0xFF, and MODE 3, as R382 states
of a fenced channel (DESIGN CHOICE: R382 against R37). -/
def Mach.fencedRegs (m : Mach) (ty inst : Nat) : List Reg :=
  if ty = tyMem then [ro 0x040 (m.memPlace inst), ro 0x048 3] else []

/-- The registers of a page (R32, R37): none where there is no page; of a fenced instance only ID, VERSION, CAPS and STATUS, and what
R382 gives a fenced channel. -/
def Mach.pageRegs (m : Mach) (v : Option Nat) (ty inst p : Nat) : List Reg :=
  if !pageExists ty inst p then []
  else
    let fenced := m.instFenced ty inst
    if p = 0 then
      if fenced then ((m.hdrRegs ty inst).take 3) ++ [ro 0x014 4] ++ m.fencedRegs ty inst
      else m.hdrRegs ty inst ++ m.bodyRegs v ty inst p
    else if fenced then [] else m.bodyRegs v ty inst p

end Sys2Proof.Machine
end

