-- ==== Sys2Proof/Machine/Registers.lean ====
section
/-!
DEFINITION. Register accesses (chapter 02): how an address and a size reach registers (R31 to R33, R43), what a host may reach (R49,
R50), the requesters of an access (R391, R419, R438), and the commands that write or read registers.
-/
namespace Sys2Proof.Machine

/-! ## Addresses (R31) -/

/-- Base of the register window. -/
abbrev windowBase : Nat := 0x0F0000000000

/-- Address of an offset of a page. -/
def pageAddr (ty p inst off : Nat) : Nat := windowBase + ty * 2 ^ 28 + p * 2 ^ 26 + inst * 2 ^ 12 + off

/-- Block type, page, instance and offset of an address in the window. -/
def splitAddr (a : Nat) : Option (Nat × Nat × Nat × Nat) :=
  if windowBase ≤ a ∧ a < windowBase + 2 ^ 36 then
    let o := a - windowBase
    some (o / 2 ^ 28, o / 2 ^ 26 % 4, o / 2 ^ 12 % 2 ^ 14, o % 2 ^ 12)
  else none

/-- Is an access a naturally aligned one of 32 or 64 bits (R33)? -/
def accessOk (addr size : Nat) : Bool := (size == 4 || size == 8) && addr % size == 0

/-! ## Reading and writing a page -/

/-- The 32-bit word at an offset of a page; zero where no register is (R32). -/
def wordAt (rs : List Reg) (o : Nat) : Nat :=
  match rs.find? fun r => decide (r.off ≤ o) && decide (o < r.off + r.size) with
  | some r => r.val / 2 ^ (8 * (o - r.off)) % 2 ^ 32
  | none => 0

/-- A read of 4 or 8 bytes. -/
def pageRead (rs : List Reg) (o size : Nat) : Nat := if size = 8 then wordAt rs o + wordAt rs (o + 4) * 2 ^ 32 else wordAt rs o

/-- A write of a 32-bit word: a whole register, or one half of a 64-bit one, which takes effect on its own (R43). -/
def wordWrite (rs : List Reg) (o x : Nat) (m : Mach) : Mach :=
  match rs.find? fun r => decide (r.off ≤ o) && decide (o < r.off + r.size) with
  | none => m
  | some r => match r.put with
    | none => m
    | some f =>
      if r.size = 4 then f (x % 2 ^ 32) m
      else if o = r.off then f (r.base / 2 ^ 32 * 2 ^ 32 + x % 2 ^ 32) m
      else f (r.base % 2 ^ 32 + x % 2 ^ 32 * 2 ^ 32) m

/-- A write of 4 or 8 bytes: 8 bytes reach a 64-bit register at once, or two 32-bit registers in the same cycle (R33, R43). Where the two
act on each other, as ARM0 and RTE_RANK0 do, R33 gives no order, and the lower word acts first (DESIGN CHOICE). -/
def pageWrite (rs : List Reg) (o size x : Nat) (m : Mach) : Mach :=
  if size = 8 then
    match rs.find? fun r => r.off == o && r.size == 8 with
    | some r => match r.put with
      | some f => f (x % 2 ^ 64) m
      | none => m
    | none => wordWrite rs (o + 4) (x / 2 ^ 32) (wordWrite rs o x m)
  else wordWrite rs o x m

/-- Which of reading and writing a viewer may do on a page (R49). -/
def Mach.mayReach (m : Mach) (v : Option Nat) (ty inst p : Nat) : Bool × Bool :=
  match v with
  | none => (true, true)
  | some d => if pageExists ty inst p then m.reaches d ty inst p else (false, false)

/-- A refused access is counted on the page of the host's domain (R50); one of the other requesters is not. -/
def Mach.refuseAccess (m : Mach) (v : Option Nat) : Mach :=
  match v with
  | some d => m.event tyDom d 0
  | none => m

/-- A register read: the value, and the module with a refused access counted (R32, R33, R50). Nothing else changes (R39). -/
def Mach.regRead (m : Mach) (v : Option Nat) (addr size : Nat) : Nat × Mach :=
  match splitAddr addr with
  | none => (0, m.refuseAccess v)
  | some (ty, p, inst, o) =>
    if accessOk addr size && (m.mayReach v ty inst p).1 then (pageRead (m.pageRegs v ty inst p) o size, m)
    else (0, m.refuseAccess v)

/-- A register write (R32, R33, R38, R50). -/
def Mach.regWrite (m : Mach) (v : Option Nat) (addr size x : Nat) : Mach :=
  match splitAddr addr with
  | none => m.refuseAccess v
  | some (ty, p, inst, o) =>
    if accessOk addr size && (m.mayReach v ty inst p).2 then pageWrite (m.pageRegs v ty inst p) o size x m
    else m.refuseAccess v

/-! ## Requesters (R34, R391, R419, R438) -/

/-- Whose view a packet's sender has: the management processor and the planner of a module see every page; every other unit acts for
the packet's domain. -/
def packetViewer (p : Packet) : Option Nat :=
  if stLocal p.src = mgtUnit ∨ stLocal p.src = plnUnit then none else some p.domain

/-- A register write by a requester: it is made and, for a packet, acknowledged by REG_ACK. A packet or datagram must carry this
write. -/
def Mach.regCmd (m : Mach) (who : Requester) (addr size x : Nat) : Mach :=
  if m.rst.inReset then m
  else
    match who with
    | .host d => if (m.getDom d).host = .localHost then m.regWrite (some d) addr size x else m
    | .mgmt => m.regWrite none addr size x
    | .planner => m.regWrite none addr size x
    | .packet p =>
      if p.addr == addr && p.data.length == size && leNat p.data == x then
        m.onPacket p 0x05 fun m t => (m.regWrite (packetViewer p) addr size x).respond t p 0x13 addr 0 []
      else m
    | .remote port g =>
      if g.addr == addr && g.length == size && leNat g.data == x then
        m.onGram port 5 g fun m => m.regWrite (some g.domain) addr size x
      else m

/-- REGISTER_WRITE (R38). -/
def execRegisterWrite (who : Requester) (addr size : Nat) (value : BitVec 64) (s : State) : Host.Outcome State Fault Refusal :=
  .next (s.onMach fun m => m.regCmd who addr size (value.toNat % 2 ^ (8 * size)))

/-- A register read whose value goes to a requester on this module. -/
def Mach.readOut (m : Mach) (v : Option Nat) (addr size : Nat) : Mach :=
  let r := m.regRead v addr size
  { r.2 with lastRead := r.1 }

/-- A register read by a requester; a packet is answered by REG_DATA. -/
def Mach.readCmd (m : Mach) (who : Requester) (addr size : Nat) : Mach :=
  if m.rst.inReset then m
  else
    match who with
    | .host d => if (m.getDom d).host = .localHost then m.readOut (some d) addr size else m
    | .mgmt => m.readOut none addr size
    | .planner => m.readOut none addr size
    | .packet p =>
      if p.addr == addr && p.len == size then
        m.onPacket p 0x04 fun m t =>
          let r := m.regRead (packetViewer p) addr size
          r.2.respond t p 0x12 addr 0 (leBytes size r.1)
      else m
    | .remote _ _ => m

/-- REG_READ (R391). -/
def execRegRead (who : Requester) (addr size : Nat) (s : State) : Host.Outcome State Fault Refusal :=
  .next (s.onMach fun m => m.readCmd who addr size)

/-- The size that a REG_READ datagram reads: 8 bytes of a 64-bit register that the host reaches, otherwise 4; its header names none. -/
def Mach.gramSize (m : Mach) (d addr : Nat) : Nat :=
  match splitAddr addr with
  | none => 4
  | some (ty, p, inst, o) =>
    if (m.mayReach (some d) ty inst p).1 && addr % 8 == 0 &&
        (m.pageRegs (some d) ty inst p).any (fun r => r.off == o && r.size == 8) then 8 else 4

/-- DGRAM_REG_READ (R438): the register is read, and a REG_DATA datagram answers. -/
def execDgramRegRead (port : Nat) (g : Datagram) (s : State) : Host.Outcome State Fault Refusal :=
  .next (s.onMach fun m => m.onGram port 6 g fun m =>
    let n := m.gramSize g.domain g.addr
    let r := m.regRead (some g.domain) g.addr n
    r.2.sendGram g.domain 7 0 g.addr (leBytes n r.1))

/-! ## Headers (R36, R41, R46) -/

/-- What CTRL of a page 0 holds. -/
def Mach.ctrlOf (m : Mach) (ty inst : Nat) : Nat := (m.getHdr (hdrKey ty inst)).ctrl

/-- CTRL_COMMIT (R46): 1 to CTRL.COMMIT, with QUIESCE and ENABLE as they stand. -/
def execCtrlCommit (who : Requester) (type inst : Nat) (s : State) : Host.Outcome State Fault Refusal :=
  .next (s.onMach fun m => m.regCmd who (pageAddr type 0 inst 0x010) 4 (4 + m.ctrlOf type inst))

/-- QUIESCE (R36). -/
def execQuiesce (who : Requester) (type inst : Nat) (on : Bool) (s : State) : Host.Outcome State Fault Refusal :=
  .next (s.onMach fun m => m.regCmd who (pageAddr type 0 inst 0x010) 4 (2 * b2n on + m.ctrlOf type inst % 2))

/-- ENABLE (R36). -/
def execEnable (who : Requester) (type inst : Nat) (on : Bool) (s : State) : Host.Outcome State Fault Refusal :=
  .next (s.onMach fun m => m.regCmd who (pageAddr type 0 inst 0x010) 4 (b2n on + m.ctrlOf type inst / 2 * 2))

/-- BLOCK_QUIESCED (R36): the work of a quiescing block has ended. -/
def execBlockQuiesced (type inst : Nat) (s : State) : Host.Outcome State Fault Refusal :=
  .next (s.onMach fun m =>
    if pageExists type inst 0 && !m.instFenced type inst && (m.getHdr (hdrKey type inst)).quiesce && !m.blockActive type inst then
      m.modHdr (hdrKey type inst) fun h => { h with quiesced := true }
    else m)

/-- EVENT_CLEAR (R41): the events that occur in the cycle of the write stay set and are counted. -/
def execEventClear (who : Requester) (type inst : Nat) (bits during : BitVec 8) (s : State) : Host.Outcome State Fault Refusal :=
  .next (s.onMach fun m =>
    let m := m.regCmd who (pageAddr type 0 inst 0x018) 4 bits.toNat
    if pageExists type inst 0 && !m.instFenced type inst then
      (List.range 8).foldl (fun m e =>
        if during.getLsbD e && bitAt (eventBits type) e then m.event type inst e else m) m
    else m)

/-! ## Fabric, update dies -/

/-- RETRAIN (R388). -/
def execRetrain (who : Requester) (port : Nat) (s : State) : Host.Outcome State Fault Refusal :=
  .next (s.onMach fun m => m.regCmd who (pageAddr tyLnk 0 port 0x040) 4 1)

/-- ARM0 (R402). -/
def execArm0 (who : Requester) (tract : Nat) (s : State) : Host.Outcome State Fault Refusal :=
  .next (s.onMach fun m => m.regCmd who (pageAddr tyRte 0 tract 0x040) 4 0x100)

/-- ARM1 (R402). -/
def execArm1 (who : Requester) (tract : Nat) (s : State) : Host.Outcome State Fault Refusal :=
  .next (s.onMach fun m => m.regCmd who (pageAddr tyRte 0 tract 0x040) 4 0x200)

/-- FLIP (R402). -/
def execFlip (who : Requester) (tract : Nat) (s : State) : Host.Outcome State Fault Refusal :=
  .next (s.onMach fun m => m.regCmd who (pageAddr tyRte 0 tract 0x040) 4 0x400)

/-- RTE_RANK_WRITE (R402). -/
def execRteRankWrite (who : Requester) (tract version : Nat) (rank : BitVec 24) (s : State) : Host.Outcome State Fault Refusal :=
  .next (s.onMach fun m => m.regCmd who (pageAddr tyRte 0 tract (if version = 0 then 0x044 else 0x048)) 4 rank.toNat)

/-- RTE_MT_DATA (R414). -/
def execRteMtData (who : Requester) (tract : Nat) (entry : BitVec 32) (s : State) : Host.Outcome State Fault Refusal :=
  .next (s.onMach fun m => m.regCmd who (pageAddr tyRte 1 tract 0x008) 4 entry.toNat)

/-- RTE_LT_DATA (R414). -/
def execRteLtData (who : Requester) (tract : Nat) (entry : BitVec 32) (s : State) : Host.Outcome State Fault Refusal :=
  .next (s.onMach fun m => m.regCmd who (pageAddr tyRte 2 tract 0x008) 4 entry.toNat)

/-- RTE_MC_DATA (R414). -/
def execRteMcData (who : Requester) (tract : Nat) (entry : BitVec 64) (s : State) : Host.Outcome State Fault Refusal :=
  .next (s.onMach fun m => m.regCmd who (pageAddr tyRte 3 tract 0x008) 8 entry.toNat)

/-- RTE_TIME_SET (R409). -/
def execRteTimeSet (who : Requester) (ns : BitVec 64) (s : State) : Host.Outcome State Fault Refusal :=
  .next (s.onMach fun m => m.regCmd who (pageAddr tyRte 0 0 0x078) 8 ns.toNat)

/-- UPD_PROG_COUNT (R300). -/
def execUpdProgCount (who : Requester) (die : Nat) (count : BitVec 32) (s : State) : Host.Outcome State Fault Refusal :=
  .next (s.onMach fun m => m.regCmd who (pageAddr tyUpd 1 die 0x008) 4 count.toNat)

/-! ## Contexts, domains, application cores -/

/-- CTX_ACTIVATE (R422). -/
def execCtxActivate (who : Requester) (c : Nat) (s : State) : Host.Outcome State Fault Refusal :=
  .next (s.onMach fun m => m.regCmd who (pageAddr tyCtx 0 c 0x040) 4 1)

/-- CTX_DEACTIVATE (R422). -/
def execCtxDeactivate (who : Requester) (c : Nat) (s : State) : Host.Outcome State Fault Refusal :=
  .next (s.onMach fun m => m.regCmd who (pageAddr tyCtx 0 c 0x040) 4 2)

/-- CTX_RESET (R508). -/
def execCtxReset (who : Requester) (c : Nat) (s : State) : Host.Outcome State Fault Refusal :=
  .next (s.onMach fun m => m.regCmd who (pageAddr tyCtx 0 c 0x040) 4 4)

/-- CTX_SQ_TAIL (R424). -/
def execCtxSqTail (who : Requester) (c : Nat) (tail : BitVec 32) (s : State) : Host.Outcome State Fault Refusal :=
  .next (s.onMach fun m => m.regCmd who (pageAddr tyCtx 1 c 0x000) 4 tail.toNat)

/-- CTX_CQ_HEAD (R424, R432). -/
def execCtxCqHead (who : Requester) (c : Nat) (head : BitVec 32) (s : State) : Host.Outcome State Fault Refusal :=
  .next (s.onMach fun m => m.regCmd who (pageAddr tyCtx 1 c 0x008) 4 head.toNat)

/-- DOM_RESET (R507). -/
def execDomReset (who : Requester) (d : Nat) (s : State) : Host.Outcome State Fault Refusal :=
  .next (s.onMach fun m => m.regCmd who (pageAddr tyDom 0 d 0x064) 4 1)

/-- RST_DOMAIN_HOLD (R507). -/
def execRstDomainHold (who : Requester) (hold : BitVec 32) (s : State) : Host.Outcome State Fault Refusal :=
  .next (s.onMach fun m => m.regCmd who (pageAddr tyRst 0 0 0x058) 4 hold.toNat)

/-- APC_ASSIGN (R447). -/
def execApcAssign (who : Requester) (off size : Nat) (value : BitVec 64) (s : State) : Host.Outcome State Fault Refusal :=
  .next (s.onMach fun m =>
    if off + size ≤ 32 then m.regCmd who (pageAddr tyApc 0 0 (0x040 + off)) size (value.toNat % 2 ^ (8 * size)) else m)

/-! ## Observation, management, power -/

/-- THD_SEL_WRITE (R512). -/
def execThdSelWrite (who : Requester) (k n : Nat) (value : BitVec 32) (s : State) : Host.Outcome State Fault Refusal :=
  .next (s.onMach fun m => if n < 64 then m.regCmd who (pageAddr tyThd 0 (k + 1) (0x040 + 4 * n)) 4 value.toNat else m)

/-- THD_GSEL_WRITE (R511). -/
def execThdGselWrite (who : Requester) (n : Nat) (value : BitVec 32) (s : State) : Host.Outcome State Fault Refusal :=
  .next (s.onMach fun m => if n < 16 then m.regCmd who (pageAddr tyThd 0 0 (0x060 + 4 * n)) 4 value.toNat else m)

/-- THD_TRACE_CTRL (R515). -/
def execThdTraceCtrl (who : Requester) (value : BitVec 32) (s : State) : Host.Outcome State Fault Refusal :=
  .next (s.onMach fun m => m.regCmd who (pageAddr tyThd 0 0 0x044) 4 value.toNat)

/-- FW_ACTIVATE (R472). -/
def execFwActivate (who : Requester) (s : State) : Host.Outcome State Fault Refusal :=
  .next (s.onMach fun m => m.regCmd who (pageAddr tyMgt 0 0 0x050) 4 1)

/-- FW_COMMIT (R472). -/
def execFwCommit (who : Requester) (s : State) : Host.Outcome State Fault Refusal :=
  .next (s.onMach fun m => m.regCmd who (pageAddr tyMgt 0 0 0x050) 4 2)

/-- PWR_COMMIT (R484): 1 to CTRL.COMMIT of the power page. -/
def execPwrCommit (who : Requester) (s : State) : Host.Outcome State Fault Refusal :=
  .next (s.onMach fun m => m.regCmd who (pageAddr tyPwr 0 0 0x010) 4 (4 + m.ctrlOf tyPwr 0))

end Sys2Proof.Machine
end

