-- ==== Sys2Proof/Machine/Scalar.lean ====
section
/-!
DEFINITION. The scalar instructions CTL, and SYN and DRAIN (R174 to R184, R188, R193 to R195). An instruction has its
effect only where its core stands at it.
-/
namespace Sys2Proof.Machine

/-- The comparisons of CMP and CMPI (R180). -/
def scalarCmp (cond : Nat) (x y : BitVec 64) : Bool :=
  match cond with
  | 0 => x == y
  | 1 => x != y
  | 2 => x.slt y
  | 3 => !x.slt y
  | 4 => x.ult y
  | _ => !x.ult y

/-- The operations of PSET (R180). -/
def predOp (op : Nat) (x y : Bool) : Bool :=
  match op with
  | 0 => x && y
  | 1 => x || y
  | 2 => x != y
  | _ => x && !y

/-- A CTL instruction of OP `op` that writes sA. -/
def Mach.ctlS (m : Mach) (q : Nat) (f : CoreFields) (op : Nat) (v : CoreSt → BitVec 64) : Mach :=
  m.issue q f 0 op {} fun m => m.simple q fun c => c.setS f.a (v c)

/-- A CTL instruction of OP `op` that writes p[A]. -/
def Mach.ctlP (m : Mach) (q : Nat) (f : CoreFields) (op : Nat) (v : CoreSt → Bool) : Mach :=
  m.issue q f 0 op {} fun m => m.simple q fun c => c.setP f.a (v c)

/-- LOOP pushes a level whose body follows, or skips the body when the count is 0 (R183). -/
def CoreSt.loop (c : CoreSt) (f : CoreFields) (now : Nat) : CoreSt :=
  let len := f.imm % 4096
  let count := if f.flags % 2 = 1 then c.sreg f.b else BitVec.ofNat 64 (f.imm / 65536)
  if count = 0 then { c with run := .running }.fallTo (c.pc.toNat + 1 + len) now
  else { c with loops := { start := c.pc.toNat + 1, len := len, count := count, idx := 0 } :: c.loops,
                run := .running }.fallTo (c.pc.toNat + 1) now

/-- HALT: the program ends; the phase ends on the core once its completions are in (R188). -/
def CoreSt.halt (c : CoreSt) (now : Nat) : CoreSt := { c with run := .halted, since := now }

/-- SIGNAL adds IMM to the counter that sB names: at once, or with FENCE once every earlier XFER has completed (R194). -/
def Mach.signal (m : Mach) (q : Nat) (f : CoreFields) : Mach :=
  let c := m.getCore q
  let counter := (c.sreg f.b).setWidth 32
  let inc := BitVec.ofNat 32 f.imm
  if f.flags % 2 = 1 && !c.xfers.isEmpty then
    m.simple q fun c => { c with held := c.held ++ [{ before := c.xferOrd, since := m.now, counter := counter, inc := inc }] }
  else (m.counterAdd (q / 16) (m.causeOf c.bind.slot) counter inc).advance q

/-- WAIT completes at once when its target has been reached, and otherwise the core waits (R195). -/
def Mach.waitCounter (m : Mach) (q : Nat) (f : CoreFields) : Mach :=
  let target := ((m.getCore q).sreg f.b).setWidth 32
  let n := f.imm % 256
  if reached (Tab.get 0 (m.getClu (q / 16)).counters n) target then m.advance q
  else m.await q (BitVec.ofNat 8 n) target false

/-- DRAIN waits until every earlier XFER of the core has completed (R180). -/
def Mach.drainXfers (m : Mach) (q : Nat) : Mach :=
  if (m.getCore q).xfers.isEmpty then m.advance q else m.await q 0 0 true

/-- NOP (R180). -/
def execNop (q : Nat) (f : CoreFields) (s : State) : Host.Outcome State Fault Refusal :=
  .next (s.onMach fun m => m.issue q f 0 0x00 {} fun m => m.advance q)

/-- HALT (R188). -/
def execHalt (q : Nat) (f : CoreFields) (s : State) : Host.Outcome State Fault Refusal :=
  .next (s.onMach fun m => m.issue q f 0 0x01 {} fun m => (m.modCore q fun c => c.halt m.now).retire q)

/-- BR (R183). -/
def execBr (q : Nat) (f : CoreFields) (s : State) : Host.Outcome State Fault Refusal :=
  .next (s.onMach fun m => m.issue q f 0 0x02 {} fun m => m.jump q (((m.getCore q).pc.toNat : Int) + (simm f).toInt))

/-- LOOP (R183). -/
def execLoop (q : Nat) (f : CoreFields) (s : State) : Host.Outcome State Fault Refusal :=
  .next (s.onMach fun m => m.issue q f 0 0x03 {} fun m => (m.modCore q fun c => c.loop f m.now).retire q)

/-- LI (R180). -/
def execLi (q : Nat) (f : CoreFields) (s : State) : Host.Outcome State Fault Refusal :=
  .next (s.onMach fun m => m.ctlS q f 0x04 fun _ => simm f)

/-- LUI (R180). -/
def execLui (q : Nat) (f : CoreFields) (s : State) : Host.Outcome State Fault Refusal :=
  .next (s.onMach fun m => m.ctlS q f 0x05 fun c => (c.sreg f.a &&& 0xFFFFFFFF#64) ||| BitVec.ofNat 64 (f.imm * 2 ^ 32))

/-- ADD (R180). -/
def execAdd (q : Nat) (f : CoreFields) (s : State) : Host.Outcome State Fault Refusal :=
  .next (s.onMach fun m => m.ctlS q f 0x06 fun c => c.sreg f.b + c.sreg f.c)

/-- ADDI (R180). -/
def execAddi (q : Nat) (f : CoreFields) (s : State) : Host.Outcome State Fault Refusal :=
  .next (s.onMach fun m => m.ctlS q f 0x07 fun c => c.sreg f.b + simm f)

/-- SUB (R180). -/
def execSub (q : Nat) (f : CoreFields) (s : State) : Host.Outcome State Fault Refusal :=
  .next (s.onMach fun m => m.ctlS q f 0x08 fun c => c.sreg f.b - c.sreg f.c)

/-- MUL (R180). -/
def execMul (q : Nat) (f : CoreFields) (s : State) : Host.Outcome State Fault Refusal :=
  .next (s.onMach fun m => m.ctlS q f 0x09 fun c => c.sreg f.b * c.sreg f.c)

/-- AND (R180). -/
def execAndB (q : Nat) (f : CoreFields) (s : State) : Host.Outcome State Fault Refusal :=
  .next (s.onMach fun m => m.ctlS q f 0x0A fun c => c.sreg f.b &&& c.sreg f.c)

/-- OR (R180). -/
def execOrB (q : Nat) (f : CoreFields) (s : State) : Host.Outcome State Fault Refusal :=
  .next (s.onMach fun m => m.ctlS q f 0x0B fun c => c.sreg f.b ||| c.sreg f.c)

/-- XOR (R180). -/
def execXorB (q : Nat) (f : CoreFields) (s : State) : Host.Outcome State Fault Refusal :=
  .next (s.onMach fun m => m.ctlS q f 0x0C fun c => c.sreg f.b ^^^ c.sreg f.c)

/-- SHL (R180). -/
def execShl (q : Nat) (f : CoreFields) (s : State) : Host.Outcome State Fault Refusal :=
  .next (s.onMach fun m => m.ctlS q f 0x0D fun c => c.sreg f.b <<< ((c.sreg f.c).toNat % 64))

/-- SHR (R180). -/
def execShr (q : Nat) (f : CoreFields) (s : State) : Host.Outcome State Fault Refusal :=
  .next (s.onMach fun m => m.ctlS q f 0x0E fun c => c.sreg f.b >>> ((c.sreg f.c).toNat % 64))

/-- SRA (R180). -/
def execSra (q : Nat) (f : CoreFields) (s : State) : Host.Outcome State Fault Refusal :=
  .next (s.onMach fun m => m.ctlS q f 0x0F fun c => (c.sreg f.b).sshiftRight ((c.sreg f.c).toNat % 64))

/-- MIN (R180). -/
def execMinS (q : Nat) (f : CoreFields) (s : State) : Host.Outcome State Fault Refusal :=
  .next (s.onMach fun m => m.ctlS q f 0x10 fun c => if (c.sreg f.b).slt (c.sreg f.c) then c.sreg f.b else c.sreg f.c)

/-- MAX (R180). -/
def execMaxS (q : Nat) (f : CoreFields) (s : State) : Host.Outcome State Fault Refusal :=
  .next (s.onMach fun m => m.ctlS q f 0x11 fun c => if (c.sreg f.b).slt (c.sreg f.c) then c.sreg f.c else c.sreg f.b)

/-- CMP (R180). -/
def execCmp (q : Nat) (f : CoreFields) (s : State) : Host.Outcome State Fault Refusal :=
  .next (s.onMach fun m => m.ctlP q f 0x12 fun c => scalarCmp f.flags (c.sreg f.b) (c.sreg f.c))

/-- CMPI (R180). -/
def execCmpi (q : Nat) (f : CoreFields) (s : State) : Host.Outcome State Fault Refusal :=
  .next (s.onMach fun m => m.ctlP q f 0x13 fun c => scalarCmp f.flags (c.sreg f.b) (simm f))

/-- LD (R180). -/
def execLd (q : Nat) (f : CoreFields) (s : State) : Host.Outcome State Fault Refusal :=
  .next (s.onMach fun m => m.issue q f 0 0x14 {} fun m =>
    let r := m.lsRead q (off8 ((m.getCore q).sreg f.b + simm f)) 8
    r.2.simple q fun c => c.setS f.a (BitVec.ofNat 64 (leNat r.1)))

/-- ST (R180). -/
def execSt (q : Nat) (f : CoreFields) (s : State) : Host.Outcome State Fault Refusal :=
  .next (s.onMach fun m => m.issue q f 0 0x15 {} fun m =>
    (m.lsWrite q (off8 ((m.getCore q).sreg f.b + simm f)) (leBytes 8 ((m.getCore q).sreg f.a).toNat)).advance q)

/-- PSET (R180). -/
def execPset (q : Nat) (f : CoreFields) (s : State) : Host.Outcome State Fault Refusal :=
  .next (s.onMach fun m => m.ctlP q f 0x16 fun c => predOp f.flags (c.pred f.b) (c.pred f.c))

/-- LIDX (R180). -/
def execLidx (q : Nat) (f : CoreFields) (s : State) : Host.Outcome State Fault Refusal :=
  .next (s.onMach fun m => m.ctlS q f 0x17 fun c => ((c.loops[f.flags % 4]?).map (·.idx)).getD 0)

/-- DRAIN (R180). -/
def execDrain (q : Nat) (f : CoreFields) (s : State) : Host.Outcome State Fault Refusal :=
  .next (s.onMach fun m => m.issue q f 1 0x04 {} fun m => m.drainXfers q)

/-- SIGNAL (R194). -/
def execSignal (q : Nat) (f : CoreFields) (s : State) : Host.Outcome State Fault Refusal :=
  .next (s.onMach fun m => m.issue q f 2 0x00 {} fun m => m.signal q f)

/-- WAIT (R195). -/
def execWait (q : Nat) (f : CoreFields) (s : State) : Host.Outcome State Fault Refusal :=
  .next (s.onMach fun m => m.issue q f 2 0x01 {} fun m => m.waitCounter q f)

/-- RDCNT (R180). -/
def execRdcnt (q : Nat) (f : CoreFields) (s : State) : Host.Outcome State Fault Refusal :=
  .next (s.onMach fun m => m.issue q f 2 0x02 {} fun m =>
    m.simple q fun c => c.setS f.a ((Tab.get 0 (m.getClu (q / 16)).counters (f.imm % 256)).setWidth 64))

/-- ZERO (R193). -/
def execZero (q : Nat) (f : CoreFields) (s : State) : Host.Outcome State Fault Refusal :=
  .next (s.onMach fun m => m.issue q f 2 0x03 {} fun m => (m.closureZero (q / 16) (f.imm % 256)).advance q)

end Sys2Proof.Machine
end

