-- ==== Sys2Proof/Machine/TileEng.lean ====
section
/-!
DEFINITION. The instructions of the tile engine, the sparse instructions that run on a core, conversions and keyed and
free-running draws (R81 to R95, R180, R182, R197 to R219, R226 to R234, R246 to R248, R450).
-/
namespace Sys2Proof.Machine

/-! ## Loads and stores of tiles (R198, R226, R227) -/

/-- A reader of the local store from an offset on, for a tile that lies there: what its granules deliver (R379). -/
def Mach.lsReader (m : Mach) (q off : Nat) : Nat → Nat → List Byte := fun o n => (m.lsRead q (off + o) n).1

/-- Load a tile from the local store: what the register takes, and the module after the reads (R198, R227). -/
def Mach.loadLs (m : Mach) (q off : Nat) (recount : Bool) : Loaded × Mach :=
  let rd := m.lsReader q off
  let n := tileExtent (TileHdr.ofWord (leNat (rd 0 8))) rd
  (loadTile recount rd, (m.lsRead q off n).2)

/-- TLD or SDEC of the tile at offset sB into tA. -/
def Mach.tileLoad (m : Mach) (q : Nat) (f : CoreFields) (recount : Bool) : Mach :=
  let r := m.loadLs q (off8 ((m.getCore q).sreg f.b)) recount
  (r.2.tally tyCor q r.1.tal).simple q fun c => c.putTile (f.a % 8) r.1.hdr r.1.fmt r.1.elems.toArray

/-- TST of tA to offset sB (R198): header unchanged. -/
def Mach.tileStore (m : Mach) (q : Nat) (f : CoreFields) : Mach :=
  let c := m.getCore q
  let m := m.tally tyCor q (if (c.view (f.a % 8)).bad then { hdr := 1024 } else {})
  (m.lsWrite q (off8 (c.sreg f.b)) (c.tileBytes (f.a % 8) (c.tile (f.a % 8)).hdr.toNat)).advance q

/-- SENC of tB to offset sA (R226): the sparse layout where it is the smaller, otherwise dense. An invalid tile has its
elements read as zero and is tallied. -/
def Mach.senc (m : Mach) (q : Nat) (f : CoreFields) : Mach :=
  let c := m.getCore q
  let t := c.view (f.b % 8)
  let n := t.elems.toList.countP t.fmt.nonzero
  let m := m.tally tyCor q (if t.bad then { hdr := 1024 } else {})
  let sparse := t.hdr.fmt?.isSome && ((t.fmt == .l8 && decide (n ≤ 895)) || (t.fmt == .l16 && decide (n ≤ 959)))
  let w (dense : Bool) : Nat := ({ t.hdr with dense := dense, nnz := n } : TileHdr).toWord
  let bytes := if sparse then leBytes 8 (w false) ++ sparseBody t.fmt t.elems.toList else c.tileBytes (f.b % 8) (w true)
  let m := m.lsWrite q (off8 (c.sreg f.a)) bytes
  let m := if !sparse && t.hdr.fmt?.isSome && (t.fmt == .l8 || t.fmt == .l16) then m.event tySpr (q / 16) 0 else m
  m.advance q

/-- TTRANS writes the transpose of tB, with tB's header, into tA (R198). -/
def Mach.ttrans (m : Mach) (q : Nat) (f : CoreFields) : Mach :=
  let c := m.getCore q
  let t := c.view (f.b % 8)
  let m := m.tally tyCor q (if t.bad then { hdr := 1024 } else {})
  m.simple q fun c => c.putTile (f.a % 8) (c.tile (f.b % 8)).hdr.toNat t.fmt (transposeElems t.elems)

/-! ## Multiplies (R200 to R219, R228 to R232, R449, R450) -/

/-- Is the core's next multiply checked (R217)? -/
def CoreSt.checked (c : CoreSt) : Bool :=
  match c.bind.check with
  | 1 => c.mulOrd % 64 == 0
  | 2 => c.mulOrd % 16 == 0
  | 3 => c.mulOrd % 4 == 0
  | 4 => true
  | _ => false

/-- Tallies of a multiply whose value is committed: elements, repeats, a saturated window (R207, R231). -/
def Mach.mulTallies (m : Mach) (q : Nat) (r : MulRes) : Mach :=
  let m := (m.tally tyCor q r.tal).event tyCor q 4 r.repeats
  let m := m.thd (q / 16) (some (q % 16)) 5 r.repeats
  if r.satTile then m.event tyCor q 5 else m

/-- The fault record of a check mismatch (R450, R458, R462). -/
def Mach.checkFault (m : Mach) (q : Nat) (confirmed routed : Bool) : Mach :=
  let c := m.getCore q
  let j := m.job? c.bind.slot
  m.fault { kind := 2, event := if confirmed then 3 else 2, unit := q, severity := if confirmed then 0 else 2,
            rung := if confirmed then 3 else 2, attempt := (j.map (·.attempt.toNat)).getD 0,
            domain := (j.map (·.domain)).getD 0xFF,
            flags := (if confirmed then 0 else 1) ||| (if routed then 16 else 0), step := c.step.toNat,
            job := (j.map (·.id)).getD 0, station := m.station (q / 16), detail := c.pc.toNat }

/-- How a multiply ends: its value, or nothing where both executions failed their check. -/
structure MulEnd where
  core : Option CoreSt
  matched : Nat

/-- Run a multiply, and again when its check fails (R219, R450): mismatches, tallies and the faults they are. -/
def Mach.multiply (m : Mach) (q : Nat) (routed check : Bool) (run : List (Nat × Int) → Bool → MulRes)
    (flt1 flt2 : List (Nat × Int)) : MulEnd × Mach :=
  let m := if check then m.thd (q / 16) (some (q % 16)) 0x0B 1 else m
  let r1 := run flt1 check
  if r1.passes then ({ core := some r1.core, matched := r1.matched }, m.mulTallies q r1)
  else
    let m := { m.event tyCor q 6 with flt := { m.flt with reexec := m.flt.reexec + 1 } }
    let r2 := run flt2 true
    if r2.passes then
      ({ core := some r2.core, matched := r1.matched + r2.matched },
       ((m.event tyFlt 0 0).checkFault q false routed).mulTallies q r2)
    else
      let m := ((m.event tyCor q 6).event tyFlt 0 1).checkFault q true routed
      let m := m.modCore q fun c => c.pass m.now
      ({ core := none, matched := r1.matched + r2.matched }, (m.suspect (q / 16)).abortCond (m.getCore q).bind.slot 1)

/-- The random bits of a log multiply (R205). -/
def CoreSt.mulFields (c : CoreSt) (s29 s30 s31 : BitVec 64) : Array (Array (BitVec 16)) :=
  tmmaFields c.bind.seed c.step (s29) (s30.setWidth 32 |>.setWidth 64) s31

/-- A multiply that the array executes at once: the ordinal advances, and the accumulators take the value. -/
def Mach.onArray (m : Mach) (q : Nat) (run : CoreSt → List (Nat × Int) → Bool → MulRes) (flt1 flt2 : List (Nat × Int)) :
    Mach :=
  let c := m.getCore q
  let r := m.multiply q false c.checked (run c) flt1 flt2
  let m := (r.2.modCore q fun c => { c with mulOrd := c.mulOrd + 1 }).thd (q / 16) (some (q % 16)) 3 1
  match r.1.core with
  | some c' => m.simple q fun c => { c with a0 := c'.a0, a1 := c'.a1 }
  | none => m

/-- Does the cluster's sparse engine take this TMMA (R228)? -/
def Mach.routes (m : Mach) (q : Nat) (f : CoreFields) : Bool :=
  let c := m.getCore q
  let th := (m.getSpr (q / 16)).threshold.toNat
  let h := m.getHdr (hdrKey tySpr (q / 16))
  let ok (r : Nat) : Bool := decide ((c.tileHdr (r % 8)).format ≤ 1) && decide ((c.tileHdr (r % 8)).nnz < th)
  th != 0 && ok f.b && ok f.c && h.enable && !h.quiesce

/-- TMMA (R202 to R209, R228): on the array at once, or routed to the sparse engine, and the core goes on (R233). -/
def Mach.tmmaIssue (m : Mach) (q : Nat) (f : CoreFields) (flt1 flt2 : List (Nat × Int)) : Mach :=
  let c := m.getCore q
  if m.routes q f then
    let r : Routed := { core := q, pc := c.pc, accIx := f.a % 2, tb := f.b % 8, tc := f.c % 8, s29 := c.sreg 29,
                        s30 := c.sreg 30, s31 := c.sreg 31, check := c.checked, tiles := [], started := false,
                        flt1 := flt1, flt2 := flt2 }
    let m := (m.modSpr (q / 16) fun e => { e with routed := e.routed ++ [r] }).thd (q / 16) (some (q % 16)) 4 1
    m.simple q fun c => { c with mulOrd := c.mulOrd + 1 }
  else
    let fields := c.mulFields (c.sreg 29) (c.sreg 30) (c.sreg 31)
    m.onArray q (fun c => c.tmma f.a (c.view (f.b % 8)) (c.view (f.c % 8)) fields) flt1 flt2

/-- The engine starts the oldest routed TMMA: it reads tB and tC (R233, R234). -/
def Mach.routedStart (m : Mach) (k : Nat) : Mach :=
  match (m.getSpr k).routed with
  | r :: rs => if r.started then m
    else m.modSpr k fun e => { e with routed := { r with started := true, tiles := (m.getCore r.core).t } :: rs }
  | [] => m

/-- The routed TMMA the engine has started ends: the accumulator takes its value, exactly the array's (R230 to R232). -/
def Mach.routedDone (m : Mach) (k : Nat) : Mach :=
  match (m.getSpr k).routed with
  | r :: rs =>
    if !r.started then m
    else
      let c := m.getCore r.core
      let seen := { c with t := r.tiles }
      let fields := c.mulFields r.s29 r.s30 r.s31
      let out := m.multiply r.core true r.check
        (fun flt chk => c.tmma r.accIx (seen.view r.tb) (seen.view r.tc) fields flt chk) r.flt1 r.flt2
      let m := out.2.modSpr k fun e =>
        { e with routed := rs, tiles := e.tiles + 1, matched := e.matched + BitVec.ofNat 48 out.1.matched }
      let m := m.thd k none 0x20 out.1.matched
      match out.1.core with
      | some c' => m.modCore r.core fun c => { c with a0 := c'.a0, a1 := c'.a1 }
      | none => m
  | [] => m

/-- SMGRAD (R247, R248): the gradient at the positions of the mask tile at offset sB, or a rejection that leaves a[A]. It starts once
the engine has ended the routed multiplies issued before it, one at a time and in order of issue (R233); until then it stalls at
issue, as while QUIESCE is set (DEDUCED: nothing lets the core go on past it). -/
def Mach.smgradIssue (m : Mach) (q : Nat) (f : CoreFields) : Mach :=
  let h := m.getHdr (hdrKey tySpr (q / 16))
  if h.quiesce || !h.enable || (m.getSpr (q / 16)).routed != [] then m.stall q
  else
    let c := m.getCore q
    let r := m.loadLs q (off8 (c.sreg f.b)) false
    let m := r.2.tally tyCor q r.1.tal
    let nz := (r.1.elems.map r.1.fmt.nonzero).toArray
    let at' (i j : Nat) : Bool := nz.getD (32 * i + j) false
    if !transposable at' then
      let m := (m.modSpr (q / 16) fun e => { e with maskTile := c.sreg 31, maskCore := BitVec.ofNat 14 q, maskPc := c.pc }).event
        tySpr (q / 16) 1
      m.advance q
    else
      let pos (i j : Nat) : Bool := if f.flags % 2 = 1 then at' j i else at' i j
      let res := c.smgrad f.a (c.view (f.b % 8)) (c.view (f.c % 8)) pos
        (c.mulFields (c.sreg 29) (c.sreg 30) (c.sreg 31))
      let m := (m.mulTallies q res).modSpr (q / 16) fun e => { e with matched := e.matched + BitVec.ofNat 48 res.matched }
      (m.thd (q / 16) none 0x20 res.matched).simple q fun c => { c with a0 := res.core.a0, a1 := res.core.a1 }

/-! ## Conversions (R68, R69, R182, R213, R214) -/

/-- The scale of a conversion (R182): from IMM, from the running maximum, or from the AMAX given. -/
def convScale (c : CoreSt) (imm : Nat) (f : Fmt) (amax : Nat) : Int :=
  match f.log? with
  | none => 0
  | some l =>
    match fld imm 8 2 with
    | 0 => sgn 8 (fld imm 24 8)
    | 1 => scaleFromAmax l c.amax.toNat (fld imm 5 3)
    | _ => scaleFromAmax l amax (fld imm 5 3)

/-- The key a stochastic conversion draws from (R182). -/
def CoreSt.convKey (c : CoreSt) : BitVec 64 :=
  tileKey c.bind.seed ((c.sreg 30).setWidth 32 |>.setWidth 64) c.step (c.sreg 31) 0

/-- Raise the running maximum (R68). -/
def CoreSt.raise (c : CoreSt) (a : Nat) : CoreSt := { c with amax := BitVec.ofNat 15 (max c.amax.toNat a) }

/-- Convert exact values into register tA under IMM. A reserved FORMAT, which no loaded program has, changes nothing. -/
def Mach.convInto (m : Mach) (q : Nat) (f : CoreFields) (ovf : Bool) (amax : Nat) (ins : List ConvIn) (tal : Tal) : Mach :=
  let c := m.getCore q
  match Fmt.ofCode (f.imm % 16) with
  | none => m.advance q
  | some fmt =>
    let modes := convModes (if bitAt f.imm 4 && fmt.isLog then some c.convKey else none) c.bind.k3
    let out := convertTile fmt (convScale c f.imm fmt amax) ovf modes ins
    (m.tally tyCor q (tal.plus out.tal)).simple q fun c => (c.putTile (f.a % 8) out.hdr out.fmt out.elems).raise out.amax

/-- CVT: tA = tB converted (R182). -/
def Mach.cvt (m : Mach) (q : Nat) (f : CoreFields) : Mach :=
  let t := (m.getCore q).view (f.b % 8)
  m.convInto q f t.hdr.ovf t.hdr.amax t.convIns t.tal

/-- TOUT: tA = a[B] converted, fused with tC (R213). -/
def Mach.tout (m : Mach) (q : Nat) (f : CoreFields) : Mach :=
  let c := m.getCore q
  let v := c.toutVals f.b f.flags (f.c % 8)
  m.convInto q f (c.acc f.b).ovf (c.tileHdr (f.a % 8)).amax v.1 v.2

/-- CRED64: the RED64 integers of tB to offset sA (R77, R180); a clamp marks the step GRAD_RANGE. -/
def Mach.cred64 (m : Mach) (q : Nat) (f : CoreFields) : Mach :=
  let c := m.getCore q
  let t := c.view (f.b % 8)
  let ns := t.vals.toList.map fun v => red64Contribution v (sgn 16 (c.sreg f.c).toNat)
  let m := m.tally tyCor q t.tal
  let m := m.lsWrite q (off8 (c.sreg f.a)) (ns.flatMap fun n => leBytes 8 (wrapN 64 n.1))
  (if ns.any (·.2) then m.abortCond c.bind.slot 3 else m).advance q

/-! ## Draws (R88 to R95) -/

/-- The key of the stream that RKEY or RBERN draws from (R88, R180, R182). -/
def CoreSt.drawKey (c : CoreSt) (f : CoreFields) (stream : BitVec 64) : BitVec 64 :=
  tileKey c.bind.seed stream c.step (c.sreg f.c) (c.sreg f.b)

/-- RKEY (R88): the fields as element patterns, under a header the rules leave open. -/
def CoreSt.rkey (c : CoreSt) (f : CoreFields) : CoreSt :=
  let key := c.drawKey f (BitVec.ofNat 64 (f.imm % 2 ^ 32))
  c.setTile (f.a % 8) (Tile.mk' (Config.rngTileHeader key).toNat ((keyedFields key).map (·.toNat)))

/-- The format of a RBERN tile: one that a single register holds; which one the rules leave open. -/
def bernFmt (key : BitVec 64) : Fmt :=
  match (Config.bernFormat key).toNat with
  | 1 => .l16 | 2 => .l4 | 3 => .f16 | 4 => .f32
  | _ => .l8

/-- RBERN (R95): the values 1 and 0 at scale 0; the header is formed as a conversion forms it (DEDUCED, R214). -/
def CoreSt.rbern (c : CoreSt) (f : CoreFields) : CoreSt :=
  let key := c.drawKey f ((c.sreg 30).setWidth 32 |>.setWidth 64)
  let out := convertTile (bernFmt key) 0 false (List.replicate 1024 .nearest) ((keyedFields key).map fun u =>
    { val := { mag := b2n (decide (u.toNat < f.imm % 65536)) } })
  c.putTile (f.a % 8) out.hdr out.fmt out.elems

/-- RFREE (R92): each lane's generator of the core's context advances one step and gives its field. -/
def Mach.rfree (m : Mach) (q : Nat) (f : CoreFields) : Mach :=
  let c := m.getCore q
  let one (acc : Tab (BitVec 64) × List Nat) (l : Nat) : Tab (BitVec 64) × List Nat :=
    let g := laneGen q l
    let x := Tab.get 0 acc.1 g
    let x := if x = 0 then freeSeed c.bind.seed (BitVec.ofNat 64 c.bind.ctx) g else x
    let y := (freeGen g x).step
    (Tab.put 0 acc.1 g y.x, acc.2 ++ [(freeField (rngOut y.x)).toNat])
  let r := (List.range 64).foldl one ((m.getCtx c.bind.ctx).gens, [])
  (m.modCtx c.bind.ctx fun x => { x with gens := r.1 }).simple q fun c =>
    { c with v := Tab.put 0 c.v (f.a % 32) (drawnLanes r.2) }
where
  /-- A vector register from 64 lane values. -/
  drawnLanes (xs : List Nat) : BitVec 2048 := BitVec.ofNat 2048 (xs.reverse.foldl (fun a x => a * 2 ^ 32 + x) 0)

/-! ## The instructions -/

/-- TLD (R198). -/
def execTld (q : Nat) (f : CoreFields) (s : State) : Host.Outcome State Fault Refusal :=
  .next (s.onMach fun m => m.issue q f 3 0x00 { tiles := [f.a % 8] } fun m => m.tileLoad q f false)

/-- TST (R198). -/
def execTst (q : Nat) (f : CoreFields) (s : State) : Host.Outcome State Fault Refusal :=
  .next (s.onMach fun m => m.issue q f 3 0x01 {} fun m => m.tileStore q f)

/-- TZERO (R199). -/
def execTzero (q : Nat) (f : CoreFields) (s : State) : Host.Outcome State Fault Refusal :=
  .next (s.onMach fun m => m.issue q f 3 0x02 { accs := [f.a % 2] } fun m => m.simple q fun c => c.tzero f.a)

/-- TMMA (R202). -/
def execTmma (q : Nat) (f : CoreFields) (flt1 flt2 : List (Nat × Int)) (s : State) : Host.Outcome State Fault Refusal :=
  .next (s.onMach fun m => m.issue q f 3 0x03 { accs := [f.a % 2] } fun m => m.tmmaIssue q f flt1 flt2)

/-- TMMA32 (R211). -/
def execTmma32 (q : Nat) (f : CoreFields) (flt1 flt2 : List (Nat × Int)) (s : State) : Host.Outcome State Fault Refusal :=
  .next (s.onMach fun m => m.issue q f 3 0x04 { accs := [f.a % 2] } fun m =>
    m.onArray q (fun c => c.tmma32 f.a (c.view (f.b % 8)) (c.view (f.c % 8))) flt1 flt2)

/-- TMMA64 (R212). -/
def execTmma64 (q : Nat) (f : CoreFields) (flt1 flt2 : List (Nat × Int)) (s : State) : Host.Outcome State Fault Refusal :=
  .next (s.onMach fun m => m.issue q f 3 0x05 { accs := [0, 1] } fun m =>
    m.onArray q (fun c => c.tmma64 (c.view (f.b % 8)) (c.view (f.c % 8))) flt1 flt2)

/-- TOUT (R213). -/
def execTout (q : Nat) (f : CoreFields) (s : State) : Host.Outcome State Fault Refusal :=
  .next (s.onMach fun m => m.issue q f 3 0x06 { accs := [f.b % 2], tiles := [f.a % 8] } fun m => m.tout q f)

/-- TTRANS (R198). -/
def execTtrans (q : Nat) (f : CoreFields) (s : State) : Host.Outcome State Fault Refusal :=
  .next (s.onMach fun m => m.issue q f 3 0x07 { tiles := [f.a % 8] } fun m => m.ttrans q f)

/-- TACC_ST (R215). -/
def execTaccSt (q : Nat) (f : CoreFields) (s : State) : Host.Outcome State Fault Refusal :=
  .next (s.onMach fun m => m.issue q f 3 0x08 { accs := [f.a % 2] } fun m =>
    (m.lsWrite q (off8 ((m.getCore q).sreg f.b)) ((m.getCore q).accImage f.a)).advance q)

/-- The accumulators that TACC_LD writes: both where the image has MODE 3, otherwise a[A] (R215). -/
def Mach.accLoads (m : Mach) (q : Nat) (f : CoreFields) : List Nat :=
  if leNat (m.lsReader q (off8 ((m.getCore q).sreg f.b)) 0 1) = 3 then [0, 1] else [f.a % 2]

/-- TACC_LD (R215). -/
def execTaccLd (q : Nat) (f : CoreFields) (s : State) : Host.Outcome State Fault Refusal :=
  .next (s.onMach fun m => m.issue q f 3 0x09 { accs := m.accLoads q f } fun m =>
    let r := m.lsRead q (off8 ((m.getCore q).sreg f.b)) 8208
    let l := (m.getCore q).accLoad f.a r.1
    (r.2.tally tyCor q l.2).simple q fun c => { c with a0 := l.1.a0, a1 := l.1.a1 })

/-- ROUTED_TMMA_START (R234). -/
def execRoutedTmmaStart (k : Nat) (s : State) : Host.Outcome State Fault Refusal :=
  .next (s.onTract fun m => if k < 640 then m.routedStart k else m)

/-- ROUTED_TMMA_DONE (R231). -/
def execRoutedTmmaDone (k : Nat) (s : State) : Host.Outcome State Fault Refusal :=
  .next (s.onTract fun m => if k < 640 then m.routedDone k else m)

/-- SENC (R226). -/
def execSenc (q : Nat) (f : CoreFields) (s : State) : Host.Outcome State Fault Refusal :=
  .next (s.onMach fun m => m.issue q f 4 0x01 {} fun m => m.senc q f)

/-- SDEC (R227). -/
def execSdec (q : Nat) (f : CoreFields) (s : State) : Host.Outcome State Fault Refusal :=
  .next (s.onMach fun m => m.issue q f 4 0x02 { tiles := [f.a % 8] } fun m => m.tileLoad q f true)

/-- SMCHK (R246). -/
def execSmchk (q : Nat) (f : CoreFields) (s : State) : Host.Outcome State Fault Refusal :=
  .next (s.onMach fun m => m.issue q f 4 0x03 {} fun m =>
    let t := (m.getCore q).view (f.b % 8)
    (m.tally tyCor q (if t.bad then { hdr := 1024 } else {})).simple q fun c =>
      c.setP f.a (transposable fun i j => t.fmt.nonzero (t.bits (32 * i + j))))

/-- SMGRAD (R247). -/
def execSmgrad (q : Nat) (f : CoreFields) (s : State) : Host.Outcome State Fault Refusal :=
  .next (s.onMach fun m => m.issue q f 4 0x04 { accs := [f.a % 2] } fun m => m.smgradIssue q f)

/-- RKEY (R88). -/
def execRkey (q : Nat) (f : CoreFields) (s : State) : Host.Outcome State Fault Refusal :=
  .next (s.onMach fun m => m.issue q f 6 0x00 { tiles := [f.a % 8] } fun m => m.simple q fun c => c.rkey f)

/-- RBERN (R95). -/
def execRbern (q : Nat) (f : CoreFields) (s : State) : Host.Outcome State Fault Refusal :=
  .next (s.onMach fun m => m.issue q f 6 0x01 { tiles := [f.a % 8] } fun m => m.simple q fun c => c.rbern f)

/-- RFREE (R92). -/
def execRfree (q : Nat) (f : CoreFields) (s : State) : Host.Outcome State Fault Refusal :=
  .next (s.onMach fun m => m.issue q f 6 0x02 {} fun m => m.rfree q f)

/-- CVT (R182). -/
def execCvt (q : Nat) (f : CoreFields) (s : State) : Host.Outcome State Fault Refusal :=
  .next (s.onMach fun m => m.issue q f 7 0x00 { tiles := [f.a % 8] } fun m => m.cvt q f)

/-- CAMAX (R68). -/
def execCamax (q : Nat) (f : CoreFields) (s : State) : Host.Outcome State Fault Refusal :=
  .next (s.onMach fun m => m.issue q f 7 0x01 {} fun m =>
    m.simple q fun c => { c.setS f.a (c.amax.setWidth 64) with amax := 0 })

/-- CRED64 (R180). -/
def execCred64 (q : Nat) (f : CoreFields) (s : State) : Host.Outcome State Fault Refusal :=
  .next (s.onMach fun m => m.issue q f 7 0x02 {} fun m => m.cred64 q f)

end Sys2Proof.Machine
end

