-- ==== Sys2Proof/Machine/Vector.lean ====
section
/-!
DEFINITION. The vector instructions (chapter 10): active masks, lane operations, reductions, shuffles and conversions.
-/
namespace Sys2Proof.Machine

/-- Issue of a VEC instruction, which its cluster counter counts (R176, R513). -/
def Mach.vec (m : Mach) (q : Nat) (f : CoreFields) (op : Nat) (u : Uses) (eff : Mach → CoreSt → Mach) : Mach :=
  m.issue q f 5 op u fun m => eff (m.thd (q / 16) (some (q % 16)) 0x0A 1) (m.getCore q)

/-- The active mask (R251). -/
def CoreSt.active (c : CoreSt) (f : CoreFields) : BitVec 64 := c.mreg (f.flags % 8)

/-- INT (R254). -/
def isInt (f : CoreFields) : Bool := bitAt f.imm 31

/-- The active lanes of vA take new values. -/
def Mach.toLanes (m : Mach) (q : Nat) (f : CoreFields) (c : CoreSt) (g : Nat → Nat × Tal) : Mach :=
  let r := laneMap (c.active f) (c.vreg (f.a % 32)) g
  (m.tally tyCor q r.2).simple q fun c => c.setV (f.a % 32) r.1

/-- Lane i of a register. -/
def CoreSt.lane (c : CoreSt) (r i : Nat) : Nat := (c.vreg (r % 32)).getD i 0

/-- A lane operation of vB and vC. -/
def Mach.lane2 (m : Mach) (q : Nat) (f : CoreFields) (op : Nat) (g : Nat → Nat → Nat × Tal) : Mach :=
  m.vec q f op {} fun m c =>
    let b := c.vreg (f.b % 32)
    let d := c.vreg (f.c % 32)
    m.toLanes q f c fun i => g (b.getD i 0) (d.getD i 0)

/-- A lane operation of vB. -/
def Mach.lane1 (m : Mach) (q : Nat) (f : CoreFields) (op : Nat) (g : Nat → Nat × Tal) : Mach :=
  m.vec q f op {} fun m c =>
    let b := c.vreg (f.b % 32)
    m.toLanes q f c fun i => g (b.getD i 0)

/-- Runs of active lanes: first lane and length. -/
def activeRuns (mask : BitVec 64) : List (Nat × Nat) :=
  ((List.range 64).filter mask.getLsbD).foldr (fun i acc =>
    match acc with
    | (a, n) :: rest => if a = i + 1 then (i, n + 1) :: rest else (i, 1) :: (a, n) :: rest
    | [] => [(i, 1)]) []

/-- VLD: the active lanes of the 256 bytes at offset sB (R254). -/
def Mach.vld (m : Mach) (q : Nat) (f : CoreFields) (c : CoreSt) : Mach :=
  let off := off4 (c.sreg f.b)
  let xs := splitLe 4 64 (m.lsRead q off 256).1
  let m := (activeRuns (c.active f)).foldl (fun m r => (m.lsRead q (off + 4 * r.1) (4 * r.2)).2) m
  m.toLanes q f c fun i => (xs.getD i 0, {})

/-- VST: the active lanes of vA to offset sB (R254). -/
def Mach.vst (m : Mach) (q : Nat) (f : CoreFields) (c : CoreSt) : Mach :=
  let xs := c.vreg (f.a % 32)
  let m := (activeRuns (c.active f)).foldl (fun m r =>
    m.lsWrite q (off4 (c.sreg f.b) + 4 * r.1) (((xs.drop r.1).take r.2).flatMap (leBytes 4))) m
  m.advance q

/-- VCMP writes m[A] (R251, R254). -/
def Mach.vcmpInto (m : Mach) (q : Nat) (f : CoreFields) (c : CoreSt) : Mach :=
  let b := c.vreg (f.b % 32)
  let d := c.vreg (f.c % 32)
  let r := laneMask (c.active f) fun i => vcmp (isInt f) (f.imm % 8) (b.getD i 0) (d.getD i 0)
  (m.tally tyCor q r.2).simple q fun c => c.setM (f.a % 8) r.1

/-- VPACK (R265). -/
def Mach.vpackInto (m : Mach) (q : Nat) (f : CoreFields) (c : CoreSt) : Mach :=
  let r := vpack (packWidth (f.imm % 4)) (fld f.imm 4 3) (bitAt f.imm 7) (c.active f) (c.vreg (f.a % 32))
    (c.vreg (f.b % 32))
  (m.tally tyCor q r.2).simple q fun c => c.setV (f.a % 32) r.1

/-- VREDT: one half of vA takes the reductions of the tile's lines whose lanes are active (R257). -/
def Mach.vredtInto (m : Mach) (q : Nat) (f : CoreFields) (c : CoreSt) : Mach :=
  let t := c.view (f.b % 8)
  let base := if bitAt f.imm 3 then 32 else 0
  let at' (j i : Nat) : Nat := if bitAt f.imm 0 then 32 * i + j else 32 * j + i
  m.toLanes q f c fun l =>
    if l < base ∨ base + 32 ≤ l then (c.lane f.a l, {})
    else
      let xs := (List.range 32).map fun i => t.read (at' (l - base) i)
      let r := vredtOne (fld f.imm 1 2) (xs.map (·.1))
      (r.bits, (xs.foldl (fun (a : Tal) x => a.plus x.2) {}).plus r.tal)

/-- VSEGRED (R259, R260): lanes and the segment carry. -/
def Mach.vsegredInto (m : Mach) (q : Nat) (f : CoreFields) (c : CoreSt) : Mach :=
  let r := vsegred (isInt f) (f.imm % 4) (bitAt f.imm 2) (bitAt f.imm 3) (c.active f) (c.mreg (f.c % 8))
    (c.vreg (f.a % 32)) (c.vreg (f.b % 32)) c.carry.toNat c.carryOpen
    (Config.segCarry (f.imm % 16) ((c.active f).toNat :: (c.mreg (f.c % 8)).toNat :: c.vreg (f.b % 32))).toNat
  (m.tally tyCor q r.2.2.2).simple q fun c =>
    { c.setV (f.a % 32) r.1 with carry := BitVec.ofNat 32 r.2.1, carryOpen := r.2.2.1 }

/-- VCVT (R266); a conversion into a log format or binary16 raises the running maximum. -/
def Mach.vcvtInto (m : Mach) (q : Nat) (f : CoreFields) (c : CoreSt) : Mach :=
  let b := c.vreg (f.b % 32)
  let d := c.vreg (f.c % 32)
  let src := fld f.imm 8 4
  let dst := f.imm % 16
  let mode (i : Nat) : LogMode :=
    if bitAt f.imm 4 && decide (dst ≤ 2) then
      (if c.bind.k3 then .stoch 3 (d.getD i 0 % 65536 / 8192) else .stoch 4 (d.getD i 0 % 65536 / 4096))
    else .nearest
  let out (i : Nat) : Nat × Nat × Tal := vcvt src dst (sgn 8 (fld f.imm 16 8)) (mode i) (b.getD i 0)
  let amax := ((List.range 64).filter (activeLane (c.active f))).foldl (fun a i => max a (out i).2.1) 0
  let m := if dst ≤ 3 then m.modCore q fun c => { c with amax := BitVec.ofNat 15 (max c.amax.toNat amax) } else m
  m.toLanes q f c fun i => ((out i).1, (out i).2.2)

/-- VFMA64: each pair whose even lane is active (R256). -/
def Mach.vfma64Into (m : Mach) (q : Nat) (f : CoreFields) (c : CoreSt) : Mach :=
  let pair (r i : Nat) : Nat := c.lane r (2 * i) + 2 ^ 32 * c.lane r (2 * i + 1)
  let rs := (List.range 32).map fun i =>
    if activeLane (c.active f) (2 * i) then vfma64 (pair f.b i) (pair f.c i) (pair f.a i) else (pair f.a i, {})
  (m.tally tyCor q (rs.foldl (fun t r => t.plus r.2) {})).simple q fun c =>
    c.setV (f.a % 32) (rs.flatMap fun r => [r.1 % 2 ^ 32, r.1 / 2 ^ 32])

/-- The slot of a tile that lane i of VTGET or VTPUT names (R258). -/
def lineSlot (imm i : Nat) : Nat :=
  let line := 2 * (imm % 16) + i / 32
  if bitAt imm 4 then 32 * (i % 32) + line else 32 * line + i % 32

/-- VTGET (R258). -/
def Mach.vtgetInto (m : Mach) (q : Nat) (f : CoreFields) (c : CoreSt) : Mach :=
  let t := c.view (f.b % 8)
  let raw := (c.tile (f.b % 8)).slotNats
  m.toLanes q f c fun i =>
    if bitAt f.imm 5 then (raw.getD (lineSlot f.imm i) 0, {})
    else
      let x := t.read (lineSlot f.imm i)
      let r := Ieee.b32.round x.1.exact
      (r.bits, x.2.plus r.tal)

/-- VTPUT (R258): the active lanes into raw slots of tA; its header stays. -/
def Mach.vtputInto (m : Mach) (q : Nat) (f : CoreFields) (c : CoreSt) : Mach :=
  let t := c.tile (f.a % 8)
  let xs := c.vreg (f.b % 32)
  let slots := ((List.range 64).filter (activeLane (c.active f))).foldl (fun sl i =>
    Tab.put 0 sl (lineSlot f.imm i) (BitVec.ofNat 32 (xs.getD i 0))) t.slots
  m.simple q fun c => c.setTile (f.a % 8) { t with slots := slots }

/-! ## The instructions -/

/-- VLD (R254). -/
def execVld (q : Nat) (f : CoreFields) (s : State) : Host.Outcome State Fault Refusal :=
  .next (s.onMach fun m => m.vec q f 0x00 {} fun m c => m.vld q f c)

/-- VST (R254). -/
def execVst (q : Nat) (f : CoreFields) (s : State) : Host.Outcome State Fault Refusal :=
  .next (s.onMach fun m => m.vec q f 0x01 {} fun m c => m.vst q f c)

/-- VBCAST (R254). -/
def execVbcast (q : Nat) (f : CoreFields) (s : State) : Host.Outcome State Fault Refusal :=
  .next (s.onMach fun m => m.vec q f 0x02 {} fun m c => m.toLanes q f c fun _ => ((c.sreg f.b).toNat % 2 ^ 32, {}))

/-- VADD (R255). -/
def execVadd (q : Nat) (f : CoreFields) (s : State) : Host.Outcome State Fault Refusal :=
  .next (s.onMach fun m => m.lane2 q f 0x03 (VBin.add.run (isInt f)))

/-- VSUB (R255). -/
def execVsub (q : Nat) (f : CoreFields) (s : State) : Host.Outcome State Fault Refusal :=
  .next (s.onMach fun m => m.lane2 q f 0x04 (VBin.sub.run (isInt f)))

/-- VMUL (R255). -/
def execVmul (q : Nat) (f : CoreFields) (s : State) : Host.Outcome State Fault Refusal :=
  .next (s.onMach fun m => m.lane2 q f 0x05 (VBin.mul.run (isInt f)))

/-- VMIN (R255). -/
def execVmin (q : Nat) (f : CoreFields) (s : State) : Host.Outcome State Fault Refusal :=
  .next (s.onMach fun m => m.lane2 q f 0x07 (VBin.min.run (isInt f)))

/-- VMAX (R255). -/
def execVmax (q : Nat) (f : CoreFields) (s : State) : Host.Outcome State Fault Refusal :=
  .next (s.onMach fun m => m.lane2 q f 0x08 (VBin.max.run (isInt f)))

/-- VFMA (R255). -/
def execVfma (q : Nat) (f : CoreFields) (s : State) : Host.Outcome State Fault Refusal :=
  .next (s.onMach fun m => m.vec q f 0x06 {} fun m c => m.toLanes q f c fun i => vfma (c.lane f.b i) (c.lane f.c i) (c.lane f.a i))

/-- VABS (R255). -/
def execVabs (q : Nat) (f : CoreFields) (s : State) : Host.Outcome State Fault Refusal :=
  .next (s.onMach fun m => m.lane1 q f 0x09 (vabs (isInt f)))

/-- VSEL (R254). -/
def execVsel (q : Nat) (f : CoreFields) (s : State) : Host.Outcome State Fault Refusal :=
  .next (s.onMach fun m => m.vec q f 0x0A {} fun m c => m.toLanes q f c fun i =>
    (if (c.mreg (f.imm % 8)).getLsbD i then c.lane f.b i else c.lane f.c i, {}))

/-- VCMP (R254). -/
def execVcmp (q : Nat) (f : CoreFields) (s : State) : Host.Outcome State Fault Refusal :=
  .next (s.onMach fun m => m.vec q f 0x0B {} fun m c => m.vcmpInto q f c)

/-- VPERM (R262). -/
def execVperm (q : Nat) (f : CoreFields) (s : State) : Host.Outcome State Fault Refusal :=
  .next (s.onMach fun m => m.vec q f 0x0C {} fun m c => m.toLanes q f c fun i => (c.lane f.b (c.lane f.c i % 64), {}))

/-- VSHUF (R263). -/
def execVshuf (q : Nat) (f : CoreFields) (s : State) : Host.Outcome State Fault Refusal :=
  .next (s.onMach fun m => m.vec q f 0x0D {} fun m c => m.toLanes q f c fun i =>
    let r := vshufSrc (f.imm % 8) (fld f.imm 8 6) i
    (c.lane (if r.1 then f.c else f.b) r.2, {}))

/-- VPACK (R265). -/
def execVpack (q : Nat) (f : CoreFields) (s : State) : Host.Outcome State Fault Refusal :=
  .next (s.onMach fun m => m.vec q f 0x0E {} fun m c => m.vpackInto q f c)

/-- VUNPACK (R265). -/
def execVunpack (q : Nat) (f : CoreFields) (s : State) : Host.Outcome State Fault Refusal :=
  .next (s.onMach fun m => m.vec q f 0x0F {} fun m c => m.toLanes q f c fun i =>
    (vunpack (packWidth (f.imm % 4)) (fld f.imm 4 3) (bitAt f.imm 7) (Tab.get 0 c.v (f.b % 32)) i, {}))

/-- VREDT (R257). -/
def execVredt (q : Nat) (f : CoreFields) (s : State) : Host.Outcome State Fault Refusal :=
  .next (s.onMach fun m => m.vec q f 0x10 {} fun m c => m.vredtInto q f c)

/-- VSEGRED (R259). -/
def execVsegred (q : Nat) (f : CoreFields) (s : State) : Host.Outcome State Fault Refusal :=
  .next (s.onMach fun m => m.vec q f 0x11 {} fun m c => m.vsegredInto q f c)

/-- VEXP2 (R270). -/
def execVexp2 (q : Nat) (f : CoreFields) (s : State) : Host.Outcome State Fault Refusal :=
  .next (s.onMach fun m => m.lane1 q f 0x12 vexp2)

/-- VLOG2 (R271). -/
def execVlog2 (q : Nat) (f : CoreFields) (s : State) : Host.Outcome State Fault Refusal :=
  .next (s.onMach fun m => m.lane1 q f 0x13 vlog2)

/-- VRCP (R272). -/
def execVrcp (q : Nat) (f : CoreFields) (s : State) : Host.Outcome State Fault Refusal :=
  .next (s.onMach fun m => m.lane1 q f 0x14 vrcp)

/-- VRSQ (R273). -/
def execVrsq (q : Nat) (f : CoreFields) (s : State) : Host.Outcome State Fault Refusal :=
  .next (s.onMach fun m => m.lane1 q f 0x15 vrsq)

/-- VCVT (R266). -/
def execVcvt (q : Nat) (f : CoreFields) (s : State) : Host.Outcome State Fault Refusal :=
  .next (s.onMach fun m => m.vec q f 0x16 {} fun m c => m.vcvtInto q f c)

/-- MTAIL (R252). -/
def execMtail (q : Nat) (f : CoreFields) (s : State) : Host.Outcome State Fault Refusal :=
  .next (s.onMach fun m => m.vec q f 0x17 {} fun m _ => m.simple q fun c => c.setM (f.a % 8) (mtail (c.sreg f.b)))

/-- MLOGIC (R252). -/
def execMlogic (q : Nat) (f : CoreFields) (s : State) : Host.Outcome State Fault Refusal :=
  .next (s.onMach fun m => m.vec q f 0x18 {} fun m c => m.simple q fun d =>
    d.setM (f.a % 8) (mlogic (f.imm % 4) (bitAt f.imm 2) (c.mreg (f.b % 8)) (c.mreg (f.c % 8))))

/-- VFMA64 (R256). -/
def execVfma64 (q : Nat) (f : CoreFields) (s : State) : Host.Outcome State Fault Refusal :=
  .next (s.onMach fun m => m.vec q f 0x19 {} fun m c => m.vfma64Into q f c)

/-- VTGET (R258). -/
def execVtget (q : Nat) (f : CoreFields) (s : State) : Host.Outcome State Fault Refusal :=
  .next (s.onMach fun m => m.vec q f 0x1A {} fun m c => m.vtgetInto q f c)

/-- VTPUT (R258). -/
def execVtput (q : Nat) (f : CoreFields) (s : State) : Host.Outcome State Fault Refusal :=
  .next (s.onMach fun m => m.vec q f 0x1B { tiles := [f.a % 8] } fun m c => m.vtputInto q f c)

end Sys2Proof.Machine
end

