-- ==== Sys2Proof/Machine/Dispatch.lean ====
section
/-!
DEFINITION. The one dispatch: each command of the table and the meaning it has.
-/
namespace Sys2Proof.Machine

def exec (i : Instr) (s : State) : Host.Outcome State Fault Refusal :=
  match i with
  | .nop q f => Sys2Proof.Machine.execNop q f s
  | .halt q f => Sys2Proof.Machine.execHalt q f s
  | .br q f => Sys2Proof.Machine.execBr q f s
  | .loop q f => Sys2Proof.Machine.execLoop q f s
  | .li q f => Sys2Proof.Machine.execLi q f s
  | .lui q f => Sys2Proof.Machine.execLui q f s
  | .add q f => Sys2Proof.Machine.execAdd q f s
  | .addi q f => Sys2Proof.Machine.execAddi q f s
  | .sub q f => Sys2Proof.Machine.execSub q f s
  | .mul q f => Sys2Proof.Machine.execMul q f s
  | .andB q f => Sys2Proof.Machine.execAndB q f s
  | .orB q f => Sys2Proof.Machine.execOrB q f s
  | .xorB q f => Sys2Proof.Machine.execXorB q f s
  | .shl q f => Sys2Proof.Machine.execShl q f s
  | .shr q f => Sys2Proof.Machine.execShr q f s
  | .sra q f => Sys2Proof.Machine.execSra q f s
  | .minS q f => Sys2Proof.Machine.execMinS q f s
  | .maxS q f => Sys2Proof.Machine.execMaxS q f s
  | .cmp q f => Sys2Proof.Machine.execCmp q f s
  | .cmpi q f => Sys2Proof.Machine.execCmpi q f s
  | .ld q f => Sys2Proof.Machine.execLd q f s
  | .st q f => Sys2Proof.Machine.execSt q f s
  | .pset q f => Sys2Proof.Machine.execPset q f s
  | .lidx q f => Sys2Proof.Machine.execLidx q f s
  | .xfer q f => Sys2Proof.Machine.execXfer q f s
  | .trvSubmit q f => Sys2Proof.Machine.execTrvSubmit q f s
  | .gthLookup q f => Sys2Proof.Machine.execGthLookup q f s
  | .gthScatter q f => Sys2Proof.Machine.execGthScatter q f s
  | .drain q f => Sys2Proof.Machine.execDrain q f s
  | .signal q f => Sys2Proof.Machine.execSignal q f s
  | .wait q f => Sys2Proof.Machine.execWait q f s
  | .rdcnt q f => Sys2Proof.Machine.execRdcnt q f s
  | .zero q f => Sys2Proof.Machine.execZero q f s
  | .tld q f => Sys2Proof.Machine.execTld q f s
  | .tst q f => Sys2Proof.Machine.execTst q f s
  | .tzero q f => Sys2Proof.Machine.execTzero q f s
  | .tmma q f flt1 flt2 => Sys2Proof.Machine.execTmma q f flt1 flt2 s
  | .tmma32 q f flt1 flt2 => Sys2Proof.Machine.execTmma32 q f flt1 flt2 s
  | .tmma64 q f flt1 flt2 => Sys2Proof.Machine.execTmma64 q f flt1 flt2 s
  | .tout q f => Sys2Proof.Machine.execTout q f s
  | .ttrans q f => Sys2Proof.Machine.execTtrans q f s
  | .taccSt q f => Sys2Proof.Machine.execTaccSt q f s
  | .taccLd q f => Sys2Proof.Machine.execTaccLd q f s
  | .routedTmmaStart k => Sys2Proof.Machine.execRoutedTmmaStart k s
  | .routedTmmaDone k => Sys2Proof.Machine.execRoutedTmmaDone k s
  | .sseg q f => Sys2Proof.Machine.execSseg q f s
  | .senc q f => Sys2Proof.Machine.execSenc q f s
  | .sdec q f => Sys2Proof.Machine.execSdec q f s
  | .smchk q f => Sys2Proof.Machine.execSmchk q f s
  | .smgrad q f => Sys2Proof.Machine.execSmgrad q f s
  | .vld q f => Sys2Proof.Machine.execVld q f s
  | .vst q f => Sys2Proof.Machine.execVst q f s
  | .vbcast q f => Sys2Proof.Machine.execVbcast q f s
  | .vadd q f => Sys2Proof.Machine.execVadd q f s
  | .vsub q f => Sys2Proof.Machine.execVsub q f s
  | .vmul q f => Sys2Proof.Machine.execVmul q f s
  | .vfma q f => Sys2Proof.Machine.execVfma q f s
  | .vmin q f => Sys2Proof.Machine.execVmin q f s
  | .vmax q f => Sys2Proof.Machine.execVmax q f s
  | .vabs q f => Sys2Proof.Machine.execVabs q f s
  | .vsel q f => Sys2Proof.Machine.execVsel q f s
  | .vcmp q f => Sys2Proof.Machine.execVcmp q f s
  | .vperm q f => Sys2Proof.Machine.execVperm q f s
  | .vshuf q f => Sys2Proof.Machine.execVshuf q f s
  | .vpack q f => Sys2Proof.Machine.execVpack q f s
  | .vunpack q f => Sys2Proof.Machine.execVunpack q f s
  | .vredt q f => Sys2Proof.Machine.execVredt q f s
  | .vsegred q f => Sys2Proof.Machine.execVsegred q f s
  | .vexp2 q f => Sys2Proof.Machine.execVexp2 q f s
  | .vlog2 q f => Sys2Proof.Machine.execVlog2 q f s
  | .vrcp q f => Sys2Proof.Machine.execVrcp q f s
  | .vrsq q f => Sys2Proof.Machine.execVrsq q f s
  | .vcvt q f => Sys2Proof.Machine.execVcvt q f s
  | .mtail q f => Sys2Proof.Machine.execMtail q f s
  | .mlogic q f => Sys2Proof.Machine.execMlogic q f s
  | .vfma64 q f => Sys2Proof.Machine.execVfma64 q f s
  | .vtget q f => Sys2Proof.Machine.execVtget q f s
  | .vtput q f => Sys2Proof.Machine.execVtput q f s
  | .rkey q f => Sys2Proof.Machine.execRkey q f s
  | .rbern q f => Sys2Proof.Machine.execRbern q f s
  | .rfree q f => Sys2Proof.Machine.execRfree q f s
  | .cvt q f => Sys2Proof.Machine.execCvt q f s
  | .camax q f => Sys2Proof.Machine.execCamax q f s
  | .cred64 q f => Sys2Proof.Machine.execCred64 q f s
  | .phaseStart slot cluster => Sys2Proof.Machine.execPhaseStart slot cluster s
  | .corePhaseEnd q => Sys2Proof.Machine.execCorePhaseEnd q s
  | .platDrawn slot plat => Sys2Proof.Machine.execPlatDrawn slot plat s
  | .batchStart k => Sys2Proof.Machine.execBatchStart k s
  | .batchComplete k id => Sys2Proof.Machine.execBatchComplete k id s
  | .prefetchHint k => Sys2Proof.Machine.execPrefetchHint k s
  | .prefetchFetch k evict => Sys2Proof.Machine.execPrefetchFetch k evict s
  | .lookupStart k => Sys2Proof.Machine.execLookupStart k s
  | .lookupComplete k id => Sys2Proof.Machine.execLookupComplete k id s
  | .scatterStart k evict => Sys2Proof.Machine.execScatterStart k evict s
  | .scatterComplete k id => Sys2Proof.Machine.execScatterComplete k id s
  | .migrationSourceFree slot table row => Sys2Proof.Machine.execMigrationSourceFree slot table row s
  | .segmentStart k => Sys2Proof.Machine.execSegmentStart k s
  | .forwardedSegment k => Sys2Proof.Machine.execForwardedSegment k s
  | .segmentReport k => Sys2Proof.Machine.execSegmentReport k s
  | .aggregateComplete k id => Sys2Proof.Machine.execAggregateComplete k id s
  | .finishComplete k id => Sys2Proof.Machine.execFinishComplete k id s
  | .updNop die lane f => Sys2Proof.Machine.execUpdNop die lane f s
  | .updLd die lane f => Sys2Proof.Machine.execUpdLd die lane f s
  | .updSt die lane f => Sys2Proof.Machine.execUpdSt die lane f s
  | .updAdd die lane f => Sys2Proof.Machine.execUpdAdd die lane f s
  | .updSub die lane f => Sys2Proof.Machine.execUpdSub die lane f s
  | .updMul die lane f => Sys2Proof.Machine.execUpdMul die lane f s
  | .updFma die lane f => Sys2Proof.Machine.execUpdFma die lane f s
  | .updDiv die lane f => Sys2Proof.Machine.execUpdDiv die lane f s
  | .updSqrt die lane f => Sys2Proof.Machine.execUpdSqrt die lane f s
  | .updRsqrt die lane f => Sys2Proof.Machine.execUpdRsqrt die lane f s
  | .updMin die lane f => Sys2Proof.Machine.execUpdMin die lane f s
  | .updMax die lane f => Sys2Proof.Machine.execUpdMax die lane f s
  | .updAbs die lane f => Sys2Proof.Machine.execUpdAbs die lane f s
  | .updSign die lane f => Sys2Proof.Machine.execUpdSign die lane f s
  | .updSel die lane f => Sys2Proof.Machine.execUpdSel die lane f s
  | .updClip die lane f => Sys2Proof.Machine.execUpdClip die lane f s
  | .updLerp die lane f => Sys2Proof.Machine.execUpdLerp die lane f s
  | .updPow die lane f => Sys2Proof.Machine.execUpdPow die lane f s
  | .updAmax die lane f => Sys2Proof.Machine.execUpdAmax die lane f s
  | .updSrnd die lane f => Sys2Proof.Machine.execUpdSrnd die lane f s
  | .updatePhaseDone slot => Sys2Proof.Machine.execUpdatePhaseDone slot s
  | .undoLogFull die slot => Sys2Proof.Machine.execUndoLogFull die slot s
  | .rootComputeStart die => Sys2Proof.Machine.execRootComputeStart die s
  | .rootComputeDone die => Sys2Proof.Machine.execRootComputeDone die s
  | .reduced p => Sys2Proof.Machine.execReduced p s
  | .closed p => Sys2Proof.Machine.execClosed p s
  | .vote p => Sys2Proof.Machine.execVote p s
  | .stepCommit p => Sys2Proof.Machine.execStepCommit p s
  | .applyDone slot => Sys2Proof.Machine.execApplyDone slot s
  | .stepAbort p => Sys2Proof.Machine.execStepAbort p s
  | .abortDone slot => Sys2Proof.Machine.execAbortDone slot s
  | .stepDone p => Sys2Proof.Machine.execStepDone p s
  | .monumentWritten slot => Sys2Proof.Machine.execMonumentWritten slot s
  | .stepStart p => Sys2Proof.Machine.execStepStart p s
  | .pnrRequest p => Sys2Proof.Machine.execPnrRequest p s
  | .pnrQuery p => Sys2Proof.Machine.execPnrQuery p s
  | .pnrAnswer p => Sys2Proof.Machine.execPnrAnswer p s
  | .pnrGrant p => Sys2Proof.Machine.execPnrGrant p s
  | .alive p => Sys2Proof.Machine.execAlive p s
  | .aliveDue slot dest => Sys2Proof.Machine.execAliveDue slot dest s
  | .carry p => Sys2Proof.Machine.execCarry p s
  | .peerSilent slot => Sys2Proof.Machine.execPeerSilent slot s
  | .reduceLost slot => Sys2Proof.Machine.execReduceLost slot s
  | .peerLost slot => Sys2Proof.Machine.execPeerLost slot s
  | .coordinatorLost slot => Sys2Proof.Machine.execCoordinatorLost slot s
  | .closureWatchdog slot => Sys2Proof.Machine.execClosureWatchdog slot s
  | .packetRoute tract output => Sys2Proof.Machine.execPacketRoute tract output s
  | .readReq p => Sys2Proof.Machine.execReadReq p s
  | .writeReq p => Sys2Proof.Machine.execWriteReq p s
  | .addAcked p => Sys2Proof.Machine.execAddAcked p s
  | .readData p => Sys2Proof.Machine.execReadData p s
  | .writeAck p => Sys2Proof.Machine.execWriteAck p s
  | .regAck p => Sys2Proof.Machine.execRegAck p s
  | .regData p => Sys2Proof.Machine.execRegData p s
  | .postedWrite p => Sys2Proof.Machine.execPostedWrite p s
  | .red64Add p => Sys2Proof.Machine.execRed64Add p s
  | .count p => Sys2Proof.Machine.execCount p s
  | .linkLoss p => Sys2Proof.Machine.execLinkLoss p s
  | .frameReceived port fr => Sys2Proof.Machine.execFrameReceived port fr s
  | .frameAckTimeout port => Sys2Proof.Machine.execFrameAckTimeout port s
  | .retryExhausted port => Sys2Proof.Machine.execRetryExhausted port s
  | .portTrainingDone port r => Sys2Proof.Machine.execPortTrainingDone port r s
  | .drainMarker tract input vc => Sys2Proof.Machine.execDrainMarker tract input vc s
  | .timePpsEdge => Sys2Proof.Machine.execTimePpsEdge s
  | .ppsMissing => Sys2Proof.Machine.execPpsMissing s
  | .ctrlCommit who type inst => Sys2Proof.Machine.execCtrlCommit who type inst s
  | .quiesce who type inst on => Sys2Proof.Machine.execQuiesce who type inst on s
  | .enable who type inst on => Sys2Proof.Machine.execEnable who type inst on s
  | .blockQuiesced type inst => Sys2Proof.Machine.execBlockQuiesced type inst s
  | .eventClear who type inst bits during => Sys2Proof.Machine.execEventClear who type inst bits during s
  | .registerWrite who addr size value => Sys2Proof.Machine.execRegisterWrite who addr size value s
  | .retrain who port => Sys2Proof.Machine.execRetrain who port s
  | .arm0 who tract => Sys2Proof.Machine.execArm0 who tract s
  | .arm1 who tract => Sys2Proof.Machine.execArm1 who tract s
  | .flip who tract => Sys2Proof.Machine.execFlip who tract s
  | .rteRankWrite who tract version rank => Sys2Proof.Machine.execRteRankWrite who tract version rank s
  | .rteMtData who tract entry => Sys2Proof.Machine.execRteMtData who tract entry s
  | .rteLtData who tract entry => Sys2Proof.Machine.execRteLtData who tract entry s
  | .rteMcData who tract entry => Sys2Proof.Machine.execRteMcData who tract entry s
  | .rteTimeSet who ns => Sys2Proof.Machine.execRteTimeSet who ns s
  | .updProgCount who die count => Sys2Proof.Machine.execUpdProgCount who die count s
  | .ctxActivate who c => Sys2Proof.Machine.execCtxActivate who c s
  | .ctxDeactivate who c => Sys2Proof.Machine.execCtxDeactivate who c s
  | .ctxReset who c => Sys2Proof.Machine.execCtxReset who c s
  | .ctxSqTail who c tail => Sys2Proof.Machine.execCtxSqTail who c tail s
  | .ctxCqHead who c head => Sys2Proof.Machine.execCtxCqHead who c head s
  | .commandTake c => Sys2Proof.Machine.execCommandTake c s
  | .loadImage c n place => Sys2Proof.Machine.execLoadImage c n place s
  | .run c n => Sys2Proof.Machine.execRun c n s
  | .stop c n => Sys2Proof.Machine.execStop c n s
  | .tableSelect c n => Sys2Proof.Machine.execTableSelect c n s
  | .stake c n => Sys2Proof.Machine.execStake c n s
  | .monument c n => Sys2Proof.Machine.execMonument c n s
  | .restore c n place => Sys2Proof.Machine.execRestore c n place s
  | .restoreBegin slot => Sys2Proof.Machine.execRestoreBegin slot s
  | .teardown c n => Sys2Proof.Machine.execTeardown c n s
  | .easement c n => Sys2Proof.Machine.execEasement c n s
  | .easementInForce d => Sys2Proof.Machine.execEasementInForce d s
  | .freeze c n => Sys2Proof.Machine.execFreeze c n s
  | .unfreeze c n => Sys2Proof.Machine.execUnfreeze c n s
  | .saveContext c n => Sys2Proof.Machine.execSaveContext c n s
  | .contextStopped c => Sys2Proof.Machine.execContextStopped c s
  | .resumeContext c n => Sys2Proof.Machine.execResumeContext c n s
  | .commandComplete c n => Sys2Proof.Machine.execCommandComplete c n s
  | .coalesceTimeout c => Sys2Proof.Machine.execCoalesceTimeout c s
  | .submit port g => Sys2Proof.Machine.execSubmit port g s
  | .dgramWrite port g => Sys2Proof.Machine.execDgramWrite port g s
  | .dgramRead port g => Sys2Proof.Machine.execDgramRead port g s
  | .dgramAck port g => Sys2Proof.Machine.execDgramAck port g s
  | .datagramResend d seq => Sys2Proof.Machine.execDatagramResend d seq s
  | .domReset who d => Sys2Proof.Machine.execDomReset who d s
  | .rstDomainHold who hold => Sys2Proof.Machine.execRstDomainHold who hold s
  | .domainResetDone d => Sys2Proof.Machine.execDomainResetDone d s
  | .apcAssign who off size value => Sys2Proof.Machine.execApcAssign who off size value s
  | .thdSelWrite who k n value => Sys2Proof.Machine.execThdSelWrite who k n value s
  | .thdGselWrite who n value => Sys2Proof.Machine.execThdGselWrite who n value s
  | .thdTraceCtrl who value => Sys2Proof.Machine.execThdTraceCtrl who value s
  | .traceBufferPlaced d place => Sys2Proof.Machine.execTraceBufferPlaced d place s
  | .fwActivate who => Sys2Proof.Machine.execFwActivate who s
  | .fwCommit who => Sys2Proof.Machine.execFwCommit who s
  | .pwrCommit who => Sys2Proof.Machine.execPwrCommit who s
  | .powerTransitionDone => Sys2Proof.Machine.execPowerTransitionDone s
  | .aclkSwitch tract => Sys2Proof.Machine.execAclkSwitch tract s
  | .pwrBrakeAssert => Sys2Proof.Machine.execPwrBrakeAssert s
  | .pwrBrakeRelease => Sys2Proof.Machine.execPwrBrakeRelease s
  | .droop tract => Sys2Proof.Machine.execDroop tract s
  | .sensorSample temps => Sys2Proof.Machine.execSensorSample temps s
  | .railTelemetry mv mw => Sys2Proof.Machine.execRailTelemetry mv mw s
  | .logFlush => Sys2Proof.Machine.execLogFlush s
  | .managementWatchdog => Sys2Proof.Machine.execManagementWatchdog s
  | .tlsConnect h => Sys2Proof.Machine.execTlsConnect h s
  | .firmwareUpdate image => Sys2Proof.Machine.execFirmwareUpdate image s
  | .attestation nonce => Sys2Proof.Machine.execAttestation nonce s
  | .configureDomain d ch => Sys2Proof.Machine.execConfigureDomain d ch s
  | .clearFaultHistory kind unit => Sys2Proof.Machine.execClearFaultHistory kind unit s
  | .powerOn => Sys2Proof.Machine.execPowerOn s
  | .coldReset ns => Sys2Proof.Machine.execColdReset ns s
  | .warmReset ns => Sys2Proof.Machine.execWarmReset ns s
  | .resetFrame bytes => Sys2Proof.Machine.execResetFrame bytes s
  | .resetRelease => Sys2Proof.Machine.execResetRelease s
  | .supplyCheck sup => Sys2Proof.Machine.execSupplyCheck sup s
  | .fuseLoad crcGood => Sys2Proof.Machine.execFuseLoad crcGood s
  | .optionLoading => Sys2Proof.Machine.execOptionLoading s
  | .firmwareVerification => Sys2Proof.Machine.execFirmwareVerification s
  | .lpddr5xTraining failed => Sys2Proof.Machine.execLpddr5xTraining failed s
  | .nearTierSelfTest banks gens => Sys2Proof.Machine.execNearTierSelfTest banks gens s
  | .linkTraining rs svc => Sys2Proof.Machine.execLinkTraining rs svc s
  | .ready => Sys2Proof.Machine.execReady s
  | .regRead who addr size => Sys2Proof.Machine.execRegRead who addr size s
  | .dgramRegRead port g => Sys2Proof.Machine.execDgramRegRead port g s
  | .control p => Sys2Proof.Machine.execControl p s
  | .guestFault d addr => Sys2Proof.Machine.execGuestFault d addr s
  | .svcLinkDown port => Sys2Proof.Machine.execSvcLinkDown port s
  | .svcPortUp port => Sys2Proof.Machine.execSvcPortUp port s

end Sys2Proof.Machine
end

