-- ==== Sys2Proof/Machine/Tick.lean ====
section
/-!
DEFINITION. What the passing of time does (a microsecond of it is what a step does on an empty queue): the time base, the
clock, wait and stall counters, PTIME, the energy count, and the control frames that leave by the links. DESIGN CHOICE:
the table has no row for a tick (assumption log).
-/
namespace Sys2Proof.Machine

/-- Nanoseconds of one tick. -/
abbrev tickNs : Nat := 1000

/-- Do the ACLK cycles of the tracts count: they run, and bring-up is past option loading (DEDUCED from R483, R498)? -/
def Mach.clocked (m : Mach) : Bool := m.aclkOn && decide (4 ≤ m.rst.phase.toNat)

/-- The time base after one tick: it advances, and takes up one nanosecond of the correction it slews every five ticks,
0.2 ns a microsecond (R409). -/
def TimeBase.tick (t : TimeBase) : TimeBase :=
  let step : Int := if t.slewTicks + 1 < 5 ∨ t.slew = 0 then 0 else if t.slew < 0 then -1 else 1
  { t with ns := t.ns + BitVec.ofInt 64 ((tickNs : Nat) + step), slew := t.slew - step,
           slewTicks := if t.slew = 0 then 0 else (t.slewTicks + 1) % 5 }

/-- The frequency of a tract in MHz. -/
def Mach.mhz (m : Mach) (t : Nat) : Nat := (m.getTrc t).mhz.toNat

/-- Cycles counted by a core that waits or stalls (R196). -/
def Mach.tickCore (m : Mach) (q : Nat) (c : CoreSt) : CoreSt :=
  let n := BitVec.ofNat 48 (m.mhz (q / 2560))
  match c.run with
  | .waiting => { c with waits := c.waits + n }
  | .stalled => { c with stalls := c.stalls + n }
  | _ => c

/-- Theodolite counts the cycles of a core that runs, stalls or waits (R513); ACLK_CYCLES once for a cluster. -/
def Mach.thdCycles (m : Mach) : Mach :=
  let m := m.cores.foldl (fun m e =>
    let n := m.mhz (e.1 / 2560)
    match e.2.run with
    | .waiting => m.thd (e.1 / 16) (some (e.1 % 16)) 7 n
    | .stalled => m.thd (e.1 / 16) (some (e.1 % 16)) 6 n
    | _ => m) m
  let busy := (m.cores.filter fun e => e.2.run == .running || e.2.run == .waiting || e.2.run == .stalled).map fun e => e.1 / 16
  busy.eraseDups.foldl (fun m k => m.thd k none 1 (m.mhz (k / 160))) m

/-- Does a port owe the other end something that only a control frame carries? -/
def Lnk.owes (l : Lnk) : Bool :=
  l.owedAck.isSome || l.owedNack.isSome || !l.owedCredit.isEmpty || !l.owedMarkers.isEmpty || l.owedRanks || l.echo.isSome

/-- One microsecond passes. DESIGN CHOICE: a port that owes the other end something sends it in one control frame a microsecond, beside those
that packets call for (R386). -/
def Mach.tick (m : Mach) : Mach :=
  let m := { m with time := m.time.tick }
  let m := if m.clocked then
      let m := (List.range 4).foldl (fun m t => m.modTrc t fun p => { p with cycles := p.cycles + BitVec.ofNat 48 p.mhz.toNat }) m
      ({ m with cores := Tab.mapVals {} m.tickCore m.cores }).thdCycles
    else m
  let m := if m.arrived.isEmpty then m
    else (List.range 64).foldl (fun m n => if m.queueFull n then m.modChan n fun p => { p with stalls := p.stalls + 1200 } else m) m
  let ns := m.mgt.ptimeNs + tickNs
  let m := { m with mgt := { m.mgt with ptime := m.mgt.ptime + BitVec.ofNat 32 (ns / 1000000000),
                                        ptimeNs := ns % 1000000000 } }
  let uj := m.pwr.energyUj + m.pwr.moduleW.toNat
  let m := { m with pwr := { m.pwr with energy := m.pwr.energy + BitVec.ofNat 48 (uj / 1000), energyUj := uj % 1000 } }
  m.lnk.foldl (fun m e => if e.2.state == .up && e.2.owes then m.sendControl e.1 else m) m

end Sys2Proof.Machine
end

