-- ==== Sys2Proof/Safety.lean ====
section
/-!
DEFINITION. The terms claims use: what counts as a well-formed state, when a command completes, when a core or a lane issues
an instruction, and what an instruction of a core leaves unchanged.
-/
namespace Sys2Proof.Machine

/-- Memory is in canonical form: offsets strictly rising, no zero byte listed. -/
abbrev Mach.memWf (m : Mach) : Prop := Tab.wf (0 : Byte) m.mem = true

/-- The byte that memory holds at an offset of the local address space. -/
def Mach.byteAt (m : Mach) (a : Nat) : Byte := Tab.get 0 m.mem a

/-- A command completes on s with P: exec answers a next state, no waiting command is touched, and P holds of its module. -/
def Completes (o : Host.Outcome State Fault Refusal) (s : State) (P : Mach → Prop) : Prop :=
  ∃ t, o = .next t ∧ t.pending = s.pending ∧ P t.mach

/-- A core issues and executes the word of CLASS cls and OP op with the fields f: it stands at that word, the predicate is
met, and no routed TMMA of its cluster is outstanding, so that nothing stalls it (R176 to R178, R233). -/
def Issues (m : Mach) (q : Nat) (f : CoreFields) (cls op : Nat) : Prop :=
  m.standsAt q (f.word cls op) = true ∧ (m.getCore q).pred f.pred ≠ f.pneg ∧ (m.getSpr (q / 16)).routed = []

/-- Nothing of the module has changed but core q and the Theodolite counters that count its instruction: no other core, no
memory, no counter of a cluster, no page header, no job, context, port or engine. -/
def CoreOnly (m m' : Mach) (q : Nat) : Prop :=
  (∀ r, r ≠ q → m'.getCore r = m.getCore r) ∧ m' = { m with cores := m'.cores, thdClu := m'.thdClu }

/-- Where a core goes on after an instruction that does not branch: its registers but those of its progress are as in `c`
(R175, R183, R196). -/
def GoesOn (c c' : CoreSt) : Prop :=
  c' = { c with loops := c'.loops, pc := c'.pc, passed := c'.passed, run := c'.run, since := c'.since,
                retired := c.retired + 1 }

/-- A core instruction writes scalar register A with v, or nothing where A is s0, and goes on (R174, R180). -/
def WritesScalar (o : Host.Outcome State Fault Refusal) (s : State) (q : Nat) (f : CoreFields) (v : BitVec 64) : Prop :=
  Completes o s fun m' =>
    let c := s.mach.getCore q
    let c' := m'.getCore q
    (∀ i, c'.sreg i = if i % 32 = f.a % 32 ∧ f.a % 32 ≠ 0 then v else c.sreg i) ∧ GoesOn { c with s := c'.s } c' ∧
      CoreOnly s.mach m' q

/-- A core instruction writes predicate A with b, or nothing where A is p0, and goes on (R174, R180). -/
def WritesPred (o : Host.Outcome State Fault Refusal) (s : State) (q : Nat) (f : CoreFields) (b : Bool) : Prop :=
  Completes o s fun m' =>
    let c := s.mach.getCore q
    let c' := m'.getCore q
    (∀ i, c'.pred i = if i % 8 = f.a % 8 ∧ f.a % 8 ≠ 0 then b else c.pred i) ∧ GoesOn { c with p := c'.p } c' ∧
      CoreOnly s.mach m' q

/-- A core instruction changes its core by g, and goes on; nothing else changes. -/
def ChangesCore (o : Host.Outcome State Fault Refusal) (s : State) (q : Nat) (g : CoreSt → CoreSt) : Prop :=
  Completes o s fun m' => GoesOn (g (s.mach.getCore q)) (m'.getCore q) ∧ CoreOnly s.mach m' q

/-! ## Frames of core instructions that tally -/

/-- The module m with the fields of m' that counting an occurrence can change: page headers, raised interrupts, datagrams
out, and the Theodolite counters (R40, R435, R436, R511). -/
def Mach.withReports (m m' : Mach) : Mach :=
  { m with hdrs := m'.hdrs, apc := m'.apc, dom := m'.dom, svc := m'.svc, thdClu := m'.thdClu }

/-- Nothing has changed but core q, what counting changes, and its page's tallies of chapter 03, which have risen by t
(R73). -/
def CoreTallies (m m' : Mach) (q : Nat) (t : Tal) : Prop :=
  (∀ r, r ≠ q → m'.getCore r = m.getCore r) ∧
  m'.getHdr (hdrKey tyCor q) =
    ((((m.getHdr (hdrKey tyCor q)).occur 0 t.sat).occur 1 t.unf).occur 2 t.special).occur 3 t.hdr ∧
  (∀ k, k ≠ hdrKey tyCor q → m'.getHdr k = m.getHdr k) ∧
  m' = { m.withReports m' with cores := m'.cores }

/-- Element slot e of tile register r (R197). -/
def CoreSt.slot (c : CoreSt) (r e : Nat) : BitVec 32 := Tab.get 0 (c.tile r).slots e

/-- The byte at an offset of a core's local store; offsets wrap modulo 32 KiB (R198). -/
def Mach.storeByte (m : Mach) (q o : Nat) : Byte := m.byteAt (storeBase q + o % 2 ^ 15)

/-- The n bytes of a core's local store from an offset on, as a little-endian number. -/
def Mach.storeNat (m : Mach) (q o n : Nat) : Nat := leNat ((List.range n).map fun i => m.storeByte q (o + i))

/-- Memory after the bytes of a list have been written to core q's local store from offset o on: those bytes hold the list,
and every other byte of memory is as before. -/
def StoreWritten (m m' : Mach) (q o : Nat) (bs : List Byte) : Prop :=
  (∀ i, i < bs.length → m'.storeByte q (o + i) = bs.getD i 0) ∧
  ∀ a, (∀ i, i < bs.length → a ≠ storeBase q + (o + i) % 2 ^ 15) → m'.byteAt a = m.byteAt a

/-- A core instruction writes tile register r alone: its header word is h, its slot e holds x e; the core goes on and its
page's tallies rise by t. -/
def WritesTile (o : Host.Outcome State Fault Refusal) (s : State) (q r : Nat) (h : BitVec 64) (x : Nat → BitVec 32)
    (t : Tal) : Prop :=
  Completes o s fun m' =>
    let c := s.mach.getCore q
    let c' := m'.getCore q
    (c'.tile r).hdr = h ∧ (∀ e, e < 1024 → c'.slot r e = x e) ∧ (∀ r', r' ≠ r → c'.tile r' = c.tile r') ∧
      GoesOn { c with t := c'.t } c' ∧ CoreTallies s.mach m' q t

/-- A core instruction stores bytes to the core's local store at an offset, and goes on. -/
def StoresBytes (o : Host.Outcome State Fault Refusal) (s : State) (q off : Nat) (bs : List Byte) (t : Tal) : Prop :=
  Completes o s fun m' =>
    StoreWritten s.mach m' q off bs ∧ GoesOn (s.mach.getCore q) (m'.getCore q) ∧
      CoreTallies s.mach { m' with mem := s.mach.mem } q t

/-- Lane i of vector register r (R250). -/
def CoreSt.laneOf (c : CoreSt) (r i : Nat) : BitVec 32 := (Tab.get 0 c.v (r % 32)).extractLsb' (32 * i) 32

/-- The lanes that the active mask of an instruction selects (R251). -/
def CoreSt.isActive (c : CoreSt) (f : CoreFields) (i : Nat) : Bool := (c.mreg (f.flags % 8)).getLsbD i

/-- A vector instruction gives every active lane i of vA the value g i and leaves the inactive lanes; the tallies rise by
those of the active lanes; the core goes on (R251). -/
def WritesLanes (o : Host.Outcome State Fault Refusal) (s : State) (q : Nat) (f : CoreFields) (g : Nat → BitVec 32)
    (t : Nat → Tal) : Prop :=
  Completes o s fun m' =>
    let c := s.mach.getCore q
    let c' := m'.getCore q
    (∀ i, i < 64 → c'.laneOf f.a i = if c.isActive f i then g i else c.laneOf f.a i) ∧
    (∀ r i, r % 32 ≠ f.a % 32 → c'.laneOf r i = c.laneOf r i) ∧
    GoesOn { c with v := c'.v } c' ∧
    CoreTallies s.mach m' q (((List.range 64).filter (c.isActive f)).foldl (fun a i => a.plus (t i)) {})

/-- A vector instruction writes mask register A, or nothing where A is m0, and the core goes on (R250). -/
def WritesMask (o : Host.Outcome State Fault Refusal) (s : State) (q : Nat) (f : CoreFields) (b : Nat → Bool) (t : Tal) : Prop :=
  Completes o s fun m' =>
    let c := s.mach.getCore q
    let c' := m'.getCore q
    (∀ r i, r < 8 → i < 64 → (c'.mreg r).getLsbD i = if r = f.a % 8 ∧ r ≠ 0 then b i else (c.mreg r).getLsbD i) ∧
    GoesOn { c with m := c'.m } c' ∧ CoreTallies s.mach m' q t

/-! ## Engines -/

/-- Closure counter n of cluster k (R193). -/
def Mach.counter (m : Mach) (k n : Nat) : BitVec 32 := Tab.get 0 (m.getClu k).counters n

/-- The n bytes of a core's local store from an offset on. -/
def Mach.storeBytes (m : Mach) (q o n : Nat) : List Byte := (List.range n).map fun i => m.storeByte q (o + i)

/-- No domain traces, so that nothing writes a trace record into memory (R515). -/
def Mach.untraced (m : Mach) : Prop := ∀ d, (m.getThdDom d).mode = 0

/-- Closure counter n of cluster k has risen by v, and no other closure counter has changed (R193). -/
def CounterRaised (m m' : Mach) (k n : Nat) (v : BitVec 32) : Prop :=
  ∀ k' n', m'.counter k' n' = if k' = k ∧ n' = n then m.counter k n + v else m.counter k' n'

/-! ## Lanes of an update die -/

/-- Lane `lane` of a die works on element l of job j, and its next instruction, which is not the last of its program, is the
word of OP op with the fields f (R280, R281). -/
def LaneIssues (m : Mach) (die lane : Nat) (f : UpdFields) (op : Nat) (l : LaneSt) (j : Job) : Prop :=
  Tab.get none (m.getUpd die).lanes lane = some l ∧ m.job? l.slot = some j ∧ j.updates = true ∧
  let prog := (m.getUpd die).programs.getD (m.groupDesc j l.group).program []
  prog[l.pc]? = some (f.word op) ∧ l.pc + 1 < prog.length

/-- The next state of a lane instruction: the lane holds l', one instruction on; BUSY has risen by 1, and the die's tallies of
chapter 03 by t; no other lane, no other die, no memory and no job has changed (R280, R289, R299). -/
def LaneGoes (o : Host.Outcome State Fault Refusal) (s : State) (die lane : Nat) (l' : LaneSt) (t : Tal) : Prop :=
  Completes o s fun m' =>
    let u := s.mach.getUpd die
    m'.getUpd die = { u with busy := u.busy + 1, lanes := (m'.getUpd die).lanes } ∧
    Tab.get none (m'.getUpd die).lanes lane = some { l' with pc := l'.pc + 1 } ∧
    (∀ i, i ≠ lane → Tab.get none (m'.getUpd die).lanes i = Tab.get none u.lanes i) ∧
    (∀ i, i ≠ die → m'.getUpd i = s.mach.getUpd i) ∧
    m'.getHdr (hdrKey tyUpd die) =
      ((((s.mach.getHdr (hdrKey tyUpd die)).occur 0 t.sat).occur 1 t.unf).occur 2 t.special).occur 3 t.hdr ∧
    m' = { s.mach.withReports m' with upd := m'.upd }

/-! ## The step protocol -/

/-- A commit message c of a kind stands delivered to the commit unit in packet p, and concerns the job j of a slot (R312). -/
def Mach.hears (m : Mach) (p : Packet) (kind slot : Nat) (j : Job) (c : CommitMsg) : Prop :=
  ({ target := cmtUnit, pkt := p } : Arrived) ∈ m.arrived ∧ p.op = 0x30 ∧ c = CommitMsg.ofPacket p ∧ c.kind = kind ∧
    m.slotOfJob c.job = some slot ∧ m.job? slot = some j

/-- One message to every participant of a job. -/
def Job.everyone (j : Job) (msg : List Byte) : List (Nat × List Byte) := j.participants.map fun d => (d, msg)

/-- The commit unit has sent the payloads of a list for a job, each to the commit unit of the module beside it, in this order, and
router 0 holds no other new packet (R312). -/
def Said (m m' : Mach) (j : Job) (xs : List (Nat × List Byte)) : Prop :=
  ∃ ps : List Packet, (m'.getRte 0).held = (m.getRte 0).held ++ ps.map (fun p => { pkt := p, input := 15 }) ∧
    ps.map (fun p => (p.dst, p.data)) = xs.map (fun x => (x.1 * 8192 + cmtUnit, x.2)) ∧
    ∀ p ∈ ps, p.op = 0x30 ∧ p.tc = 3 ∧ p.src = m.station cmtUnit ∧ p.job = j.id ∧ p.domain = j.domain ∧ p.len = p.data.length

/-- Nothing of the module has changed but the job of a slot, the list of delivered packets, router 0 and what a packet sent
changes; the packet p is no longer listed (R312, R390). -/
def JobOnly (m m' : Mach) (slot : Nat) (p : Packet) : Prop :=
  (∀ i, i ≠ slot → m'.job? i = m.job? i) ∧ (∀ t, t ≠ 0 → m'.getRte t = m.getRte t) ∧
  m' = { m with arrived := m.arrived.erase { target := cmtUnit, pkt := p }, cmt := { m.cmt with jobs := m'.cmt.jobs },
                rte := m'.rte, flowSeq := m'.flowSeq, thdDom := m'.thdDom }

/-! ## Packets -/

/-- A packet p of operation op stands delivered at endpoint t, and its step tag is current or it needs none (R391, R455). -/
def Mach.takes (m : Mach) (p : Packet) (op t : Nat) : Prop :=
  (m.arrived.find? fun a => a.pkt == p && p.op == op) = some { target := t, pkt := p } ∧ (p.tc = 3 ∨ m.accepts p = true)

/-- Unit l of the module has put one packet, of which P holds, into the fabric, behind what its router held (R390, R396). -/
def Sent (m m' : Mach) (l : Nat) (P : Packet → Prop) : Prop :=
  ∃ q : Packet, let e := m.entryFor l q.dst
    (m'.getRte e.1).held = (m.getRte e.1).held ++ [{ pkt := q, input := e.2 }] ∧
    q.src = m.station l ∧ q.epoch = (m.getRte e.1).inject ∧ q.down = false ∧ P q

/-- Memory after a list of bytes has been written at an offset. -/
def Written (m m' : Mach) (a : Nat) (bs : List Byte) : Prop :=
  ∀ b, m'.byteAt b = if a ≤ b ∧ b < a + bs.length then bs.getD (b - a) 0 else m.byteAt b

/-- Memory is unchanged. -/
def MemSame (m m' : Mach) : Prop := ∀ b, m'.byteAt b = m.byteAt b

/-! ## Hosts -/

/-- The module m with the fields of m' that counting occurrences, memory accesses and notifications can change. -/
def Mach.withCounts (m m' : Mach) : Mach := { m.withReports m' with chan := m'.chan, ntm := m'.ntm, thdDom := m'.thdDom }

/-- Context c of domain d has taken command n, of an opcode and with these bytes, and has not accepted it yet (R426). -/
def Mach.orders (m : Mach) (c n op d : Nat) (bs : List Byte) : Prop :=
  (∃ t, m.taken? c n = some t ∧ t.opcode = op ∧ t.accepted = false ∧ t.bytes = bs) ∧ m.domOfCtx c = some d

/-- The completion record of command n of context c is decided, and n is taken no longer (R429, R430). -/
def Finished (m m' : Mach) (c n status : Nat) (reason detail value flags : Nat := 0) : Prop :=
  ∃ t, m.taken? c n = some t ∧ (m'.getCtx c).taken = (m.getCtx c).taken.filter (·.n != n) ∧
    (m'.getCtx c).finished = (m.getCtx c).finished ++
      [(n, { tag := t.tag, status := status, reason := reason, detail := detail, value := value, flags := flags, opcode := t.opcode,
             notify := t.notify })]

/-- Command n of context c is accepted: its record waits for what it orders (R426). -/
def Accepted (m m' : Mach) (c n : Nat) : Prop :=
  (m'.getCtx c).taken = (m.getCtx c).taken.map fun t => if t.n = n then { t with accepted := true } else t

/-- A refusal: the record is decided, and nothing else changes. -/
def Refused (m m' : Mach) (c n status : Nat) (reason : Nat := 0) : Prop :=
  Finished m m' c n status reason ∧ (∀ k, k ≠ c → m'.getCtx k = m.getCtx k) ∧ m' = { m with ctx := m'.ctx }

/-- A commit message for job j stands in router 0, to the commit unit of module k (R312). -/
def Tells (m' : Mach) (j : Job) (k : Nat) : Prop :=
  ∃ h ∈ (m'.getRte 0).held, h.pkt.op = 0x30 ∧ h.pkt.dst = k * 8192 + cmtUnit ∧ h.pkt.job = j.id

/-- Record r has been written at the tail of the completion ring of context c, and counted (R431). -/
def RecordWritten (m m' : Mach) (c : Nat) (r : Record) : Prop :=
  ∃ e d, (m.getCtx c).desc = some e ∧ m.domOfCtx c = some d ∧
    Written m m' ((m.getDom d).hostAt + e.cqBase + 16 * ((m.getCtx c).cqTail.toNat % e.cqEntries))
      (leBytes 2 r.tag ++ leBytes 1 r.status ++ leBytes 1 r.reason ++ leBytes 4 r.detail ++ leBytes 6 r.value ++ leBytes 1 r.flags ++
        leBytes 1 (((m.getCtx c).cqTail.toNat / e.cqEntries + 1) % 2)) ∧
    (m'.getCtx c).cqTail = (m.getCtx c).cqTail + 1 ∧ (m'.getCtx c).completions = (m.getCtx c).completions + 1

/-- A well-formed datagram g of a type arrives at a service port that is up, from its domain's host and under its key (R437). -/
def Mach.hearsGram (m : Mach) (port type : Nat) (g : Datagram) : Prop :=
  port < 2 ∧ (m.getSvc port).state = 2 ∧ g.toPort = (m.getSvc port).udpPort ∧ g.type = type ∧ m.gramGood g = true ∧
    gramMac g (m.getDom g.domain).key = g.tag

/-- The last datagram that waits for a domain's remote host is of a type, and P holds of it (R438). -/
def Answers (m' : Mach) (d type : Nat) (P : Datagram → Prop) : Prop :=
  ∃ o, (m'.getDom d).out.getLast? = some o ∧ o.gram.type = type ∧ o.gram.domain = d ∧ P o.gram

/-! ## Core instructions -/

/-- Every core instruction of the table on core q with the fields f, with its CLASS and OP (R176, R178). -/
def coreCommands (q : Nat) (f : CoreFields) (flt1 flt2 : List (Nat × Int)) : List (Instr × Nat × Nat) :=
  [ (.nop q f, 0, 0x00), (.halt q f, 0, 0x01), (.br q f, 0, 0x02), (.loop q f, 0, 0x03), (.li q f, 0, 0x04),
    (.lui q f, 0, 0x05), (.add q f, 0, 0x06), (.addi q f, 0, 0x07), (.sub q f, 0, 0x08), (.mul q f, 0, 0x09),
    (.andB q f, 0, 0x0A), (.orB q f, 0, 0x0B), (.xorB q f, 0, 0x0C), (.shl q f, 0, 0x0D), (.shr q f, 0, 0x0E),
    (.sra q f, 0, 0x0F), (.minS q f, 0, 0x10), (.maxS q f, 0, 0x11), (.cmp q f, 0, 0x12), (.cmpi q f, 0, 0x13),
    (.ld q f, 0, 0x14), (.st q f, 0, 0x15), (.pset q f, 0, 0x16), (.lidx q f, 0, 0x17), (.xfer q f, 1, 0x00),
    (.trvSubmit q f, 1, 0x01), (.gthLookup q f, 1, 0x02), (.gthScatter q f, 1, 0x03), (.drain q f, 1, 0x04),
    (.signal q f, 2, 0x00), (.wait q f, 2, 0x01), (.rdcnt q f, 2, 0x02), (.zero q f, 2, 0x03), (.tld q f, 3, 0x00),
    (.tst q f, 3, 0x01), (.tzero q f, 3, 0x02), (.tmma q f flt1 flt2, 3, 0x03), (.tmma32 q f flt1 flt2, 3, 0x04),
    (.tmma64 q f flt1 flt2, 3, 0x05), (.tout q f, 3, 0x06), (.ttrans q f, 3, 0x07), (.taccSt q f, 3, 0x08),
    (.taccLd q f, 3, 0x09), (.sseg q f, 4, 0x00), (.senc q f, 4, 0x01), (.sdec q f, 4, 0x02), (.smchk q f, 4, 0x03),
    (.smgrad q f, 4, 0x04), (.vld q f, 5, 0x00), (.vst q f, 5, 0x01), (.vbcast q f, 5, 0x02), (.vadd q f, 5, 0x03),
    (.vsub q f, 5, 0x04), (.vmul q f, 5, 0x05), (.vfma q f, 5, 0x06), (.vmin q f, 5, 0x07), (.vmax q f, 5, 0x08),
    (.vabs q f, 5, 0x09), (.vsel q f, 5, 0x0A), (.vcmp q f, 5, 0x0B), (.vperm q f, 5, 0x0C), (.vshuf q f, 5, 0x0D),
    (.vpack q f, 5, 0x0E), (.vunpack q f, 5, 0x0F), (.vredt q f, 5, 0x10), (.vsegred q f, 5, 0x11),
    (.vexp2 q f, 5, 0x12), (.vlog2 q f, 5, 0x13), (.vrcp q f, 5, 0x14), (.vrsq q f, 5, 0x15), (.vcvt q f, 5, 0x16),
    (.mtail q f, 5, 0x17), (.mlogic q f, 5, 0x18), (.vfma64 q f, 5, 0x19), (.vtget q f, 5, 0x1A), (.vtput q f, 5, 0x1B),
    (.rkey q f, 6, 0x00), (.rbern q f, 6, 0x01), (.rfree q f, 6, 0x02), (.cvt q f, 7, 0x00), (.camax q f, 7, 0x01),
    (.cred64 q f, 7, 0x02) ]

end Sys2Proof.Machine
end

