-- ==== Sys2Proof/Certificates/Slice0/Obligations.lean ====
section
/-!
DEFINITION. The statements for the provers, chapter by chapter of the spec.
-/
open Sys2Proof Sys2Proof.Machine

/-! ## Core programs: chapter 07 -/

/-- R174, R180: the CTL instructions that write a scalar register, and those that write a predicate, each with its result; the register named
alone changes beside the core's progress, and s0 and p0 discard the write. Integer arithmetic wraps. -/
def Obligations.CtlResults : Prop :=
  (∀ (s : State) (q : Nat) (f : CoreFields),
     let c := s.mach.getCore q
     let x := c.sreg f.b
     let y := c.sreg f.c
     (Issues s.mach q f 0 0x04 → WritesScalar (exec (.li q f) s) s q f ((BitVec.ofNat 32 f.imm).signExtend 64)) ∧
     (Issues s.mach q f 0 0x05 → WritesScalar (exec (.lui q f) s) s q f
       ((c.sreg f.a &&& 0xFFFFFFFF#64) ||| BitVec.ofNat 64 (f.imm * 2 ^ 32))) ∧
     (Issues s.mach q f 0 0x06 → WritesScalar (exec (.add q f) s) s q f (x + y)) ∧
     (Issues s.mach q f 0 0x07 → WritesScalar (exec (.addi q f) s) s q f (x + (BitVec.ofNat 32 f.imm).signExtend 64)) ∧
     (Issues s.mach q f 0 0x08 → WritesScalar (exec (.sub q f) s) s q f (x - y)) ∧
     (Issues s.mach q f 0 0x09 → WritesScalar (exec (.mul q f) s) s q f (x * y)) ∧
     (Issues s.mach q f 0 0x0A → WritesScalar (exec (.andB q f) s) s q f (x &&& y)) ∧
     (Issues s.mach q f 0 0x0B → WritesScalar (exec (.orB q f) s) s q f (x ||| y)) ∧
     (Issues s.mach q f 0 0x0C → WritesScalar (exec (.xorB q f) s) s q f (x ^^^ y)) ∧
     (Issues s.mach q f 0 0x0D → WritesScalar (exec (.shl q f) s) s q f (x <<< (y.toNat % 64))) ∧
     (Issues s.mach q f 0 0x0E → WritesScalar (exec (.shr q f) s) s q f (x >>> (y.toNat % 64))) ∧
     (Issues s.mach q f 0 0x0F → WritesScalar (exec (.sra q f) s) s q f (x.sshiftRight (y.toNat % 64))) ∧
     (Issues s.mach q f 0 0x10 → WritesScalar (exec (.minS q f) s) s q f (BitVec.ofInt 64 (min x.toInt y.toInt))) ∧
     (Issues s.mach q f 0 0x11 → WritesScalar (exec (.maxS q f) s) s q f (BitVec.ofInt 64 (max x.toInt y.toInt))) ∧
     (Issues s.mach q f 0 0x17 → WritesScalar (exec (.lidx q f) s) s q f
       (match c.loops[f.flags % 4]? with
        | some l => l.idx
        | none => 0))) ∧
  ∀ (s : State) (q : Nat) (f : CoreFields),
     let c := s.mach.getCore q
     let x := c.sreg f.b
     let holds (y : BitVec 64) : Bool :=
       match f.flags with
       | 0 => x == y
       | 1 => x != y
       | 2 => decide (x.toInt < y.toInt)
       | 3 => decide (y.toInt ≤ x.toInt)
       | 4 => decide (x.toNat < y.toNat)
       | _ => decide (y.toNat ≤ x.toNat)
     (Issues s.mach q f 0 0x12 → f.flags ≤ 5 → WritesPred (exec (.cmp q f) s) s q f (holds (c.sreg f.c))) ∧
     (Issues s.mach q f 0 0x13 → f.flags ≤ 5 →
       WritesPred (exec (.cmpi q f) s) s q f (holds ((BitVec.ofNat 32 f.imm).signExtend 64))) ∧
     (Issues s.mach q f 0 0x16 → f.flags ≤ 3 → WritesPred (exec (.pset q f) s) s q f
       (match f.flags with
        | 0 => c.pred f.b && c.pred f.c
        | 1 => c.pred f.b || c.pred f.c
        | 2 => c.pred f.b != c.pred f.c
        | _ => c.pred f.b && !c.pred f.c))

/-- R180: LD and ST move the aligned u64 at bits [14:3] of sB + sext(IMM) of the core's own local store. ST changes those eight
bytes of memory and no other byte. Where memory has no detection-code error. -/
def Obligations.LocalStoreLoadAndStore : Prop :=
  ∀ (s : State) (q : Nat) (f : CoreFields),
    let c := s.mach.getCore q
    let o := (c.sreg f.b + (BitVec.ofNat 32 f.imm).signExtend 64).toNat % 2 ^ 15 / 8 * 8
    let at' := storeBase q + o
    s.mach.granErr = [] →
    (Issues s.mach q f 0 0x14 →
      WritesScalar (exec (.ld q f) s) s q f
        (BitVec.ofNat 64 (leNat ((List.range 8).map fun i => s.mach.byteAt (at' + i))))) ∧
    (Issues s.mach q f 0 0x15 → s.mach.memWf →
      Completes (exec (.st q f) s) s fun m' =>
        (∀ a, m'.byteAt a =
          if at' ≤ a ∧ a < at' + 8 then BitVec.ofNat 8 ((c.sreg f.a).toNat / 2 ^ (8 * (a - at'))) else s.mach.byteAt a) ∧
        GoesOn c (m'.getCore q) ∧ (∀ r, r ≠ q → m'.getCore r = s.mach.getCore r) ∧
        m' = { s.mach with cores := m'.cores, thdClu := m'.thdClu, mem := m'.mem })

/-- R183, R175, R188: where execution goes on. NOP at the end of no loop body goes to the next instruction; at the end of a body
the index advances and the body runs again, or execution leaves it; passing the last instruction the core issues nothing
further. BR goes to pc + sext(IMM) with the levels popped whose body lacks the target. LOOP with count 0 skips its body and
otherwise pushes a level. HALT ends the program. -/
def Obligations.ControlFlow : Prop :=
  ∀ (s : State) (q : Nat) (f : CoreFields),
    let c := s.mach.getCore q
    let core (o : Host.Outcome State Fault Refusal) (c' : CoreSt) : Prop :=
      Completes o s fun m' => m'.getCore q = { c' with retired := c.retired + 1 } ∧ CoreOnly s.mach m' q
    (Issues s.mach q f 0 0x00 → c.loops = [] → c.pc.toNat + 1 < c.ibuf.length →
      core (exec (.nop q f) s) { c with run := .running, pc := BitVec.ofNat 11 (c.pc.toNat + 1) }) ∧
    (Issues s.mach q f 0 0x00 → c.loops = [] → c.ibuf.length ≤ c.pc.toNat + 1 →
      core (exec (.nop q f) s) { c with run := .running, passed := true, since := s.mach.now }) ∧
    (∀ l ls, Issues s.mach q f 0 0x00 → c.loops = l :: ls → c.pc.toNat + 1 = l.start + l.len → l.idx + 1 < l.count →
      l.start < c.ibuf.length →
      core (exec (.nop q f) s)
        { c with run := .running, loops := { l with idx := l.idx + 1 } :: ls, pc := BitVec.ofNat 11 l.start }) ∧
    (∀ l, Issues s.mach q f 0 0x00 → c.loops = [l] → c.pc.toNat + 1 = l.start + l.len → ¬ l.idx + 1 < l.count →
      c.pc.toNat + 1 < c.ibuf.length →
      core (exec (.nop q f) s) { c with run := .running, loops := [], pc := BitVec.ofNat 11 (c.pc.toNat + 1) }) ∧
    (∀ t : Nat, Issues s.mach q f 0 0x02 → (c.pc.toNat : Int) + ((BitVec.ofNat 32 f.imm).signExtend 64).toInt = t →
      t < c.ibuf.length →
      core (exec (.br q f) s)
        { c with run := .running, pc := BitVec.ofNat 11 t,
                 loops := c.loops.dropWhile fun l => !(decide (l.start ≤ t) && decide (t < l.start + l.len)) }) ∧
    (let len := f.imm % 4096
     let count := if f.flags % 2 = 1 then c.sreg f.b else BitVec.ofNat 64 (f.imm / 65536)
     (Issues s.mach q f 0 0x03 → count = 0 → c.loops = [] → c.pc.toNat + 1 + len < c.ibuf.length →
       core (exec (.loop q f) s) { c with run := .running, pc := BitVec.ofNat 11 (c.pc.toNat + 1 + len) }) ∧
     (Issues s.mach q f 0 0x03 → count ≠ 0 → 0 < len → c.pc.toNat + 1 < c.ibuf.length →
       core (exec (.loop q f) s)
         { c with run := .running, pc := BitVec.ofNat 11 (c.pc.toNat + 1),
                  loops := { start := c.pc.toNat + 1, len := len, count := count, idx := 0 } :: c.loops })) ∧
    (Issues s.mach q f 0 0x01 → core (exec (.halt q f) s) { c with run := .halted, since := s.mach.now })

/-- R193 to R195, R180: SIGNAL without FENCE adds IMM to a counter of its own cluster, modulo 2^32; ZERO makes a counter zero;
RDCNT reads one; WAIT goes on where (count − T) mod 2^32 is below 2^31 and waits otherwise; DRAIN goes on where no transfer of
the core is left and waits otherwise. SIGNAL and ZERO change no other counter of any cluster. -/
def Obligations.ClosureInstructions : Prop :=
  ∀ (s : State) (q : Nat) (f : CoreFields),
    let c := s.mach.getCore q
    let k := q / 16
    let n := f.imm % 256
    let counter (m : Mach) (k n : Nat) : BitVec 32 := Tab.get 0 (m.getClu k).counters n
    (Issues s.mach q f 2 0x00 → f.flags % 2 = 0 → (c.sreg f.b).toNat % 2 ^ 24 = 0xFFFFFF →
      let i := (c.sreg f.b).toNat % 2 ^ 32 / 2 ^ 24
      Completes (exec (.signal q f) s) s fun m' =>
        ∀ k' n', counter m' k' n' = if k' = k ∧ n' = i then counter s.mach k i + BitVec.ofNat 32 f.imm else counter s.mach k' n') ∧
    (Issues s.mach q f 2 0x03 →
      Completes (exec (.zero q f) s) s fun m' =>
        ∀ k' n', counter m' k' n' = if k' = k ∧ n' = n then 0 else counter s.mach k' n') ∧
    (Issues s.mach q f 2 0x02 → WritesScalar (exec (.rdcnt q f) s) s q f ((counter s.mach k n).setWidth 64)) ∧
    (let t := (c.sreg f.b).setWidth 32
     (Issues s.mach q f 2 0x01 → (counter s.mach k n - t).toNat < 2 ^ 31 → ChangesCore (exec (.wait q f) s) s q id) ∧
     (Issues s.mach q f 2 0x01 → ¬ (counter s.mach k n - t).toNat < 2 ^ 31 →
       Completes (exec (.wait q f) s) s fun m' =>
         m'.getCore q = { c with run := .waiting, waitCounter := BitVec.ofNat 8 n, waitTarget := t, draining := false,
                                 since := s.mach.now } ∧ CoreOnly s.mach m' q)) ∧
    (Issues s.mach q f 1 0x04 → c.xfers = [] → ChangesCore (exec (.drain q f) s) s q id) ∧
    (Issues s.mach q f 1 0x04 → c.xfers ≠ [] →
      Completes (exec (.drain q f) s) s fun m' =>
        m'.getCore q = { c with run := .waiting, waitCounter := 0, waitTarget := 0, draining := true, since := s.mach.now } ∧
        CoreOnly s.mach m' q)

/-! ## Tiles and conversions: chapters 03, 04, 08, 09 -/

/-- R198, R199, R57: TLD of a dense tile with a valid header gives the register that header and the elements, each in the low
bits of its slot; an L4 tile is expanded to L8. TST writes header and elements back in dense layout, TZERO empties an accumulator, TTRANS transposes.
Tiles of one register; where memory has no detection-code error. -/
def Obligations.TileRegisterInstructions : Prop :=
  ∀ (s : State) (q : Nat) (f : CoreFields),
    let c := s.mach.getCore q
    let width (n : Nat) : Nat := if n = 0 then 1 else if n = 4 then 4 else 2
    s.mach.memWf → s.mach.granErr = [] →
    (let o := (c.sreg f.b).toNat % 2 ^ 15 / 8 * 8
     let h := TileHdr.ofWord (s.mach.storeNat q o 8)
     (Issues s.mach q f 3 0x00 → h.invalid = false → h.dense = true → h.format ∈ [0, 1, 3, 4] →
       WritesTile (exec (.tld q f) s) s q (f.a % 8) (BitVec.ofNat 64 h.toWord)
         (fun e => BitVec.ofNat 32 (s.mach.storeNat q (o + 8 + e * width h.format) (width h.format))) {}) ∧
     (Issues s.mach q f 3 0x00 → h.invalid = false → h.dense = true → h.format = 2 →
       WritesTile (exec (.tld q f) s) s q (f.a % 8) (BitVec.ofNat 64 ({ h with format := 0 } : TileHdr).toWord)
         (fun e => BitVec.ofNat 32 (expandL4 ((s.mach.storeByte q (o + 8 + e / 2)).toNat / 16 ^ (e % 2) % 16))) {}) ∧
     (Issues s.mach q f 3 0x00 → h.invalid = true → h.format ≠ 5 →
       WritesTile (exec (.tld q f) s) s q (f.a % 8) (BitVec.ofNat 64 (s.mach.storeNat q o 8)) (fun _ => 0)
         { hdr := 1024 })) ∧
    (let t := c.tile (f.a % 8)
     let h := TileHdr.ofWord t.hdr.toNat
     Issues s.mach q f 3 0x01 → h.invalid = false → h.dense = true → h.format ∈ [0, 1, 3, 4] →
       StoresBytes (exec (.tst q f) s) s q ((c.sreg f.b).toNat % 2 ^ 15 / 8 * 8)
         (leBytes 8 t.hdr.toNat ++
           (List.range 1024).flatMap fun e => leBytes (width h.format) (c.slot (f.a % 8) e).toNat) {}) ∧
    (Issues s.mach q f 3 0x02 → c.a0.mode ≠ .f64 → c.a1.mode ≠ .f64 →
      ChangesCore (exec (.tzero q f) s) s q fun c => if f.a % 2 = 0 then { c with a0 := {} } else { c with a1 := {} }) ∧
    (Issues s.mach q f 3 0x02 → c.a0.mode = .f64 → c.a1.mode = .f64 →
      ChangesCore (exec (.tzero q f) s) s q fun c => { c with a0 := {}, a1 := {} }) ∧
    (let t := c.tile (f.b % 8)
     let h := TileHdr.ofWord t.hdr.toNat
     Issues s.mach q f 3 0x07 → h.invalid = false → h.dense = true → h.format = 4 →
       WritesTile (exec (.ttrans q f) s) s q (f.a % 8) t.hdr (fun e => c.slot (f.b % 8) (32 * (e % 32) + e / 32)) {})

/-- R200, R211, R228, R233: a multiply that the core's array takes writes its accumulator and no other register and advances the
core's multiply ordinal; TMMA32 on an F32
accumulator gives every element the exact sum rounded once (with the units of 2^-149 that an upset of the array adds, an operand of
the command). A TMMA whose operands are both sparse goes to the
cluster's engine with what it took at issue, and the core goes on. Unchecked multiplies.
Choices of the model that show in it: log 38. -/
def Obligations.Multiplies : Prop :=
  ∀ (s : State) (q : Nat) (f : CoreFields) (x1 x2 : List (Nat × Int)),
    let c := s.mach.getCore q
    let h := s.mach.getHdr (hdrKey tySpr (q / 16))
    let th := (s.mach.getSpr (q / 16)).threshold.toNat
    let sparse (r : Nat) : Prop := (c.tileHdr (r % 8)).format ≤ 1 ∧ (c.tileHdr (r % 8)).nnz < th
    let routed : Prop := th ≠ 0 ∧ sparse f.b ∧ sparse f.c ∧ h.enable = true ∧ h.quiesce = false
    let onArray (o : Host.Outcome State Fault Refusal) (d : CoreSt) : Prop :=
      Completes o s fun m' =>
        GoesOn { c with a0 := d.a0, a1 := d.a1, mulOrd := c.mulOrd + 1 } (m'.getCore q) ∧
        (∀ r, r ≠ q → m'.getCore r = s.mach.getCore r) ∧ (∀ k, k ≠ hdrKey tyCor q → m'.getHdr k = s.mach.getHdr k) ∧
        m' = { s.mach.withReports m' with cores := m'.cores }
    let fields := c.mulFields (c.sreg 29) (c.sreg 30) (c.sreg 31)
    c.bind.check = 0 →
    (Issues s.mach q f 3 0x03 → ¬ routed →
      onArray (exec (.tmma q f x1 x2) s) (c.tmma f.a (c.view (f.b % 8)) (c.view (f.c % 8)) fields x1 false).core) ∧
    (Issues s.mach q f 3 0x03 → routed →
      Completes (exec (.tmma q f x1 x2) s) s fun m' =>
        GoesOn { c with mulOrd := c.mulOrd + 1 } (m'.getCore q) ∧
        (m'.getSpr (q / 16)).routed =
          [{ core := q, pc := c.pc, accIx := f.a % 2, tb := f.b % 8, tc := f.c % 8, s29 := c.sreg 29,
             s30 := c.sreg 30, s31 := c.sreg 31, check := false, tiles := [], started := false, flt1 := x1, flt2 := x2 }]) ∧
    (Issues s.mach q f 3 0x04 →
      onArray (exec (.tmma32 q f x1 x2) s) (c.tmma32 f.a (c.view (f.b % 8)) (c.view (f.c % 8)) x1 false).core) ∧
    (let a := if f.a % 2 = 0 then c.a0 else c.a1
     Issues s.mach q f 3 0x04 → a.mode = .f32 →
      (c.view (f.b % 8)).bad = false → (c.view (f.b % 8)).fmt ≠ .f64 →
      (c.view (f.c % 8)).bad = false → (c.view (f.c % 8)).fmt ≠ .f64 →
      let value (t : TView) (e : Nat) : Val := (t.fmt.read (t.bits e) t.hdr.s).1
      let dot (i j : Nat) : Val := (List.range 32).foldl (fun (x : Val) p =>
        x.add ((value (c.view (f.b % 8)) (32 * i + p)).mul (value (c.view (f.c % 8)) (32 * p + j)))) {}
      let noise (e : Nat) : Val := Val.ofInt ((x1.filter (·.1 == e)).foldl (fun x y => x + y.2) 0) (-149)
      Completes (exec (.tmma32 q f x1 x2) s) s fun m' =>
        let a' := if f.a % 2 = 0 then (m'.getCore q).a0 else (m'.getCore q).a1
        a'.mode = .f32 ∧ ∀ i j, i < 32 → j < 32 →
          (Tab.get 0 a'.vals (32 * i + j)).toNat =
            (Ieee.b32.round ((Ieee.b32.read ((Tab.get 0 a.vals (32 * i + j)).toNat % 2 ^ 32)).val.add
              ((dot i j).add (noise (32 * i + j)))).exact).bits) ∧
    (Issues s.mach q f 3 0x05 →
      onArray (exec (.tmma64 q f x1 x2) s) (c.tmma64 (c.view (f.b % 8)) (c.view (f.c % 8)) x1 false).core)

/-- R233, R234, R232, R230: the engine starts the oldest routed TMMA, taking the core's tiles as they are then, and ends the one it
has started: the accumulator takes what the array would have given, and the engine counts it. An instruction that reads or writes an accumulator which
a routed TMMA of its core has still to write stalls, and nothing else happens. -/
def Obligations.RoutedMultiplies : Prop :=
  (∀ (s : State) (k : Nat) (r : Routed) (rs : List Routed),
     let c := s.mach.getCore r.core
     s.mach.aclkOn = true → k < 640 → (s.mach.getSpr k).routed = r :: rs →
     (r.started = false →
       Completes (exec (.routedTmmaStart k) s) s fun m' =>
         (m'.getSpr k) = { s.mach.getSpr k with routed := { r with started := true, tiles := c.t } :: rs } ∧
         m' = { s.mach with spr := m'.spr }) ∧
     (r.started = true → r.check = false →
       let seen : CoreSt := { c with t := r.tiles }
       let d := c.tmma r.accIx (seen.view r.tb) (seen.view r.tc) (c.mulFields r.s29 r.s30 r.s31) r.flt1 false
       Completes (exec (.routedTmmaDone k) s) s fun m' =>
         m'.getCore r.core = { c with a0 := d.core.a0, a1 := d.core.a1 } ∧
         (∀ q, q ≠ r.core → m'.getCore q = s.mach.getCore q) ∧
         m'.getSpr k = { s.mach.getSpr k with routed := rs, tiles := (s.mach.getSpr k).tiles + 1,
                                              matched := (s.mach.getSpr k).matched + BitVec.ofNat 48 d.matched } ∧
         m' = { s.mach.withReports m' with cores := m'.cores, spr := m'.spr })) ∧
  ∀ (s : State) (q : Nat) (f : CoreFields) (r : Routed),
    let c := s.mach.getCore q
    let stalls (o : Host.Outcome State Fault Refusal) : Prop :=
      Completes o s fun m' => (m'.getCore q).run = .stalled ∧ CoreOnly s.mach m' q ∧
        m'.getCore q = { c with run := (m'.getCore q).run, since := (m'.getCore q).since }
    let waits (op : Nat) : Prop :=
      s.mach.standsAt q (f.word 3 op) = true ∧ c.pred f.pred ≠ f.pneg ∧ r ∈ (s.mach.getSpr (q / 16)).routed ∧ r.core = q ∧
        r.accIx = (if op = 6 then f.b % 2 else f.a % 2)
    (waits 2 → stalls (exec (.tzero q f) s)) ∧ (∀ x1 x2, waits 3 → stalls (exec (.tmma q f x1 x2) s)) ∧
    (∀ x1 x2, waits 4 → stalls (exec (.tmma32 q f x1 x2) s)) ∧ (waits 6 → stalls (exec (.tout q f) s)) ∧
    (waits 8 → stalls (exec (.taccSt q f) s)) ∧ (waits 9 → stalls (exec (.taccLd q f) s))

/-- R182, R213, R214, R68: CVT and TOUT convert each exact value once under IMM and form the header: the target's FORMAT, DENSE, OVF, the
scale used, NNZ, no hint, AMAX; the running maximum rises to AMAX. Nearest rounding with the scale from IMM, into one register.
CAMAX reads the running maximum and clears it. -/
def Obligations.Conversions : Prop :=
  ∀ (s : State) (q : Nat) (f : CoreFields) (fmt : Fmt),
    let c := s.mach.getCore q
    let scale : Int := if fmt.isLog then sgn 8 (f.imm / 2 ^ 24 % 256) else 0
    let converts (o : Host.Outcome State Fault Refusal) (ovf : Bool) (ins : List ConvIn) (t : Tal) : Prop :=
      let outs := ins.map (convOne fmt scale .nearest)
      let amax := ins.foldl (fun a x => max a x.amax) 0
      Completes o s fun m' =>
        let c' := m'.getCore q
        (c'.tile (f.a % 8)).hdr = BitVec.ofNat 64
          ({ format := fmt.toCode, dense := true, ovf := ovf, scale := scale, nnz := outs.countP fun o => fmt.nonzero o.bits,
             whint := 0x80, amax := amax } : TileHdr).toWord ∧
        (∀ e, e < 1024 → (c'.slot (f.a % 8) e).toNat = (outs.getD e { bits := 0 }).bits % 2 ^ 32) ∧
        (∀ r, r ≠ f.a % 8 → c'.tile r = c.tile r) ∧
        GoesOn { c with t := c'.t, amax := BitVec.ofNat 15 (max c.amax.toNat amax) } c' ∧
        CoreTallies s.mach m' q (t.plus { sat := outs.countP (·.sat), unf := outs.countP (·.unf) })
    Fmt.ofCode (f.imm % 16) = some fmt → fmt ≠ .f64 → f.imm / 2 ^ 4 % 2 = 0 → f.imm / 2 ^ 8 % 4 = 0 →
    (let t := c.view (f.b % 8)
     Issues s.mach q f 7 0x00 → t.bad = false →
       converts (exec (.cvt q f) s) t.hdr.ovf ((List.range 1024).map fun e => (t.fmt.readConv (t.bits e) t.hdr.s).1) t.tal) ∧
    (let a := c.accSrc f.b
     Issues s.mach q f 3 0x06 → f.flags = 0 →
       converts (exec (.tout q f) s) (c.acc f.b).ovf
         ((List.range 1024).map fun e => { val := a.elem (Tab.get 0 a.vals e).toNat }) {}) ∧
    (Issues s.mach q f 7 0x01 →
      Completes (exec (.camax q f) s) s fun m' =>
        let c' := m'.getCore q
        (∀ i, c'.sreg i = if i % 32 = f.a % 32 ∧ f.a % 32 ≠ 0 then c.amax.setWidth 64 else c.sreg i) ∧
        GoesOn { c with s := c'.s, amax := 0 } c' ∧ CoreOnly s.mach m' q)

/-- R77, R180, R215, R226: what CRED64, TACC_ST and SENC store. CRED64 stores the 1,024 RED64 integers of tB; TACC_ST an accumulator image of
8,208 bytes; SENC the sparse layout where it is the smaller, and otherwise the dense one. TACC_LD reads what TACC_ST wrote. -/
def Obligations.StoringInstructions : Prop :=
  ∀ (s : State) (q : Nat) (f : CoreFields),
    let c := s.mach.getCore q
    let off (x : BitVec 64) : Nat := x.toNat % 2 ^ 15 / 8 * 8
    s.mach.memWf → s.mach.granErr = [] →
    (let t := c.view (f.b % 8)
     let e := sgn 16 ((c.sreg f.c).toNat % 2 ^ 16)
     Issues s.mach q f 7 0x02 → (∀ v ∈ t.vals.toList, (red64Contribution v e).2 = false) →
       StoresBytes (exec (.cred64 q f) s) s q (off (c.sreg f.a))
         (t.vals.toList.flatMap fun v => leBytes 8 (wrapN 64 (red64Contribution v e).1)) t.tal) ∧
    (let a := c.accSrc f.a
     let code : AccMode → Nat := fun | .empty => 0 | .log => 1 | .f32 => 2 | .f64 => 3
     Issues s.mach q f 3 0x08 →
       StoresBytes (exec (.taccSt q f) s) s q (off (c.sreg f.b))
         (leBytes 1 (code a.mode) ++ leBytes 1 (if (c.acc f.a).ovf then 1 else 0) ++
           leBytes 2 (if a.mode = .log then (a.wa % 2 ^ 16).toNat else 0) ++ List.replicate 12 0 ++
           (List.range 1024).flatMap fun e => leBytes 8 (Tab.get 0 a.vals e).toNat) {}) ∧
    (let a := c.accSrc f.b
     Issues s.mach q f 3 0x09 → a.mode = .log → a.ovf = (c.acc f.b).ovf → -2 ^ 15 ≤ a.wa → a.wa < 2 ^ 15 →
       (∀ e, e < 1024 → -(2 ^ 47 - 1) ≤ (Tab.get 0 a.vals e).toInt ∧ (Tab.get 0 a.vals e).toInt ≤ 2 ^ 47 - 1) →
       c.a0.mode ≠ .f64 → c.a1.mode ≠ .f64 →
       (∀ i, i < 8208 → s.mach.storeByte q (off (c.sreg f.b) + i) = (c.accImage f.b).getD i 0) →
       Completes (exec (.taccLd q f) s) s fun m' =>
         let d := (m'.getCore q).acc f.a
         d.mode = .log ∧ d.ovf = a.ovf ∧ d.wa = a.wa ∧ (∀ e, e < 1024 → Tab.get 0 d.vals e = Tab.get 0 a.vals e) ∧
         GoesOn { c with a0 := (m'.getCore q).a0, a1 := (m'.getCore q).a1 } (m'.getCore q) ∧
         (m'.getCore q).acc (f.a + 1) = c.acc (f.a + 1) ∧ CoreTallies s.mach m' q {}) ∧
    (let t := c.view (f.b % 8)
     let n := t.elems.toList.countP t.fmt.nonzero
     Issues s.mach q f 4 0x01 → t.bad = false → (t.fmt = .l8 ∧ n ≤ 895 ∨ t.fmt = .l16 ∧ n ≤ 959) →
       StoresBytes (exec (.senc q f) s) s q (off (c.sreg f.a))
         (leBytes 8 ({ t.hdr with dense := false, nnz := n } : TileHdr).toWord ++ sparseBody t.fmt t.elems.toList) {})

/-- R222, R223, R226, R227: what SENC writes of an L8 or L16 tile, SDEC reads back: the same 1,024 elements, NNZ the number of non-zero
ones, DENSE 1, every other header field as it was. -/
def Obligations.SparseLayoutReadsBack : Prop :=
  ∀ (fmt : Fmt) (h : TileHdr) (xs : List Nat),
    fmt = .l8 ∨ fmt = .l16 → h.format = fmt.toCode → h.whint < 256 → h.amax < 2 ^ 15 → -128 ≤ h.scale → h.scale < 128 →
    xs.length = 1024 → (∀ x ∈ xs, x < 2 ^ fmt.bits) →
    let n := xs.countP fmt.nonzero
    (fmt = .l8 → n ≤ 895) → (fmt = .l16 → n ≤ 959) →
    let bytes := leBytes 8 ({ h with dense := false, nnz := n } : TileHdr).toWord ++ sparseBody fmt xs
    bytes.length = 136 + n * (fmt.bits / 8) ∧
    loadTile true (fun o k => (bytes.drop o).take k) =
      { hdr := ({ h with dense := true, nnz := n } : TileHdr).toWord, fmt := fmt,
        elems := xs.map fun x => if fmt.nonzero x then x else 0, tal := {} }

/-- R227, R246, R247: SDEC recounts NNZ; SMCHK answers whether every row and column of every aligned 8 by 8 block has at most 4
non-zero elements; SMGRAD of a mask that is none leaves the accumulator and records core, pc and s31. -/
def Obligations.SparseMaskInstructions : Prop :=
  ∀ (s : State) (q : Nat) (f : CoreFields),
    let c := s.mach.getCore q
    s.mach.memWf → s.mach.granErr = [] →
    (let r := loadTile true fun o n => (List.range n).map fun i => s.mach.storeByte q ((c.sreg f.b).toNat / 8 * 8 + o + i)
     Issues s.mach q f 4 0x02 → r.fmt ≠ .f64 →
       WritesTile (exec (.sdec q f) s) s q (f.a % 8) (BitVec.ofNat 64 r.hdr)
         (fun e => BitVec.ofNat 32 (r.elems.getD e 0)) r.tal) ∧
    (let t := c.view (f.b % 8)
     let nz (i j : Nat) : Bool := t.fmt.nonzero (t.bits (32 * i + j))
     let good : Prop := ∀ u v i, u < 4 → v < 4 → i < 8 →
       ((List.range 8).countP fun j => nz (8 * u + i) (8 * v + j)) ≤ 4 ∧
       ((List.range 8).countP fun j => nz (8 * u + j) (8 * v + i)) ≤ 4
     Issues s.mach q f 4 0x03 → t.bad = false →
       (good → WritesPred (exec (.smchk q f) s) s q f true) ∧ (¬ good → WritesPred (exec (.smchk q f) s) s q f false)) ∧
    (let h := s.mach.getHdr (hdrKey tySpr (q / 16))
     let r := loadTile false fun o n => (List.range n).map fun i => s.mach.storeByte q ((c.sreg f.b).toNat / 8 * 8 + o + i)
     let nz (i j : Nat) : Bool := r.fmt.nonzero (r.elems.getD (32 * i + j) 0)
     Issues s.mach q f 4 0x04 → h.quiesce = false → h.enable = true →
       (transposable nz = false →
         Completes (exec (.smgrad q f) s) s fun m' =>
           GoesOn c (m'.getCore q) ∧
           m'.getSpr (q / 16) = { s.mach.getSpr (q / 16) with maskTile := c.sreg 31, maskCore := BitVec.ofNat 14 q, maskPc := c.pc } ∧
           m'.getHdr (hdrKey tySpr (q / 16)) = h.occur 1 1 ∧
           m' = { s.mach.withReports m' with cores := m'.cores, spr := m'.spr }) ∧
       (transposable nz = true →
         let d := c.smgrad f.a (c.view (f.b % 8)) (c.view (f.c % 8)) (fun i j => if f.flags % 2 = 1 then nz j i else nz i j)
           (c.mulFields (c.sreg 29) (c.sreg 30) (c.sreg 31))
         Completes (exec (.smgrad q f) s) s fun m' =>
           GoesOn { c with a0 := d.core.a0, a1 := d.core.a1 } (m'.getCore q) ∧
           m' = { s.mach.withReports m' with cores := m'.cores, spr := m'.spr }))

/-- R88, R89, R92, R95: RKEY gives slot e field e mod 4 of word e div 4 of the keyed stream; RBERN's element e is non-zero exactly when
that field is below p; RFREE advances the generator of each lane by one step and gives bits [63:48] of its output.
Choices of the model that show in it: log 34. -/
def Obligations.RandomDraws : Prop :=
  ∀ (s : State) (q : Nat) (f : CoreFields),
    let c := s.mach.getCore q
    let key (stream : Nat) : BitVec 64 := hashH c.bind.seed [1, BitVec.ofNat 64 stream, c.step, c.sreg f.c, c.sreg f.b]
    let field (k : BitVec 64) (e : Nat) : BitVec 16 := (keyedFields k).getD e 0
    let draws (o : Host.Outcome State Fault Refusal) (x : CoreSt → Nat → Prop) : Prop :=
      Completes o s fun m' =>
        let c' := m'.getCore q
        (∀ e, e < 1024 → x c' e) ∧ (∀ r, r ≠ f.a % 8 → c'.tile r = c.tile r) ∧ GoesOn { c with t := c'.t } c' ∧
          CoreOnly s.mach m' q
    (Issues s.mach q f 6 0x00 →
      draws (exec (.rkey q f) s) fun c' e => c'.slot (f.a % 8) e = (field (key (f.imm % 2 ^ 32)) e).setWidth 32) ∧
    (Issues s.mach q f 6 0x01 →
      draws (exec (.rbern q f) s) fun c' e =>
        (c'.slot (f.a % 8) e ≠ 0 ↔ (field (key ((c.sreg 30).toNat % 2 ^ 32)) e).toNat < f.imm % 2 ^ 16)) ∧
    (Issues s.mach q f 6 0x02 →
      Completes (exec (.rfree q f) s) s fun m' =>
        let c' := m'.getCore q
        let n := c.bind.ctx
        (∀ l, l < 64 →
          let g := 64 * q + l
          let x := Tab.get 0 (s.mach.getCtx n).gens g
          let x := if x = 0 then rngNonzero (hashH c.bind.seed [2, BitVec.ofNat 64 n, BitVec.ofNat 64 g]) else x
          let y := rngAdvance x (poly (g % 1024))
          Tab.get 0 (m'.getCtx n).gens g = y ∧ c'.laneOf f.a l = ((rngOut y).extractLsb' 48 16).setWidth 32) ∧
        (∀ g, ¬ (64 * q ≤ g ∧ g < 64 * q + 64) → Tab.get 0 (m'.getCtx n).gens g = Tab.get 0 (s.mach.getCtx n).gens g) ∧
        (∀ r i, r % 32 ≠ f.a % 32 → c'.laneOf r i = c.laneOf r i) ∧ GoesOn { c with v := c'.v } c' ∧
        (∀ r, r ≠ q → m'.getCore r = s.mach.getCore r) ∧
        m' = { s.mach with cores := m'.cores, thdClu := m'.thdClu, ctx := m'.ctx })

/-! ## Vectors: chapter 10 -/

/-- R254, R255: with INT set, VADD, VSUB and VMUL of int32 lanes wrap modulo 2^32, VMIN and VMAX are signed, VABS of −2^31 gives
−2^31; inactive lanes keep their values (R251), and no int32 operation counts a tally. VCMP's mask bits, clear where inactive. -/
def Obligations.VectorInt32 : Prop :=
  ∀ (s : State) (q : Nat) (f : CoreFields),
    let c := s.mach.getCore q
    let x (i : Nat) : BitVec 32 := c.laneOf f.b i
    let y (i : Nat) : BitVec 32 := c.laneOf f.c i
    f.imm / 2 ^ 31 % 2 = 1 →
    (Issues s.mach q f 5 0x03 → WritesLanes (exec (.vadd q f) s) s q f (fun i => x i + y i) fun _ => {}) ∧
    (Issues s.mach q f 5 0x04 → WritesLanes (exec (.vsub q f) s) s q f (fun i => x i - y i) fun _ => {}) ∧
    (Issues s.mach q f 5 0x05 → WritesLanes (exec (.vmul q f) s) s q f (fun i => x i * y i) fun _ => {}) ∧
    (Issues s.mach q f 5 0x07 →
      WritesLanes (exec (.vmin q f) s) s q f (fun i => if (x i).toInt ≤ (y i).toInt then x i else y i) fun _ => {}) ∧
    (Issues s.mach q f 5 0x08 →
      WritesLanes (exec (.vmax q f) s) s q f (fun i => if (x i).toInt ≤ (y i).toInt then y i else x i) fun _ => {}) ∧
    (Issues s.mach q f 5 0x09 →
      WritesLanes (exec (.vabs q f) s) s q f (fun i => if (x i).toInt < 0 then -(x i) else x i) fun _ => {}) ∧
    (Issues s.mach q f 5 0x0B → f.imm % 8 ≤ 5 →
      WritesMask (exec (.vcmp q f) s) s q f (fun i => c.isActive f i &&
        match f.imm % 8 with
        | 0 => decide (x i = y i)
        | 1 => decide (x i ≠ y i)
        | 2 => decide ((x i).toInt < (y i).toInt)
        | 3 => decide ((y i).toInt ≤ (x i).toInt)
        | 4 => decide ((x i).toNat < (y i).toNat)
        | _ => decide ((y i).toNat ≤ (x i).toNat)) {})

/-- R255, R70, R71, R256: in binary32 each active lane forms the exact result of its inputs and rounds it once; VMIN and VMAX return an
operand; the tallies are those of reading the inputs and of the rounding. VFMA64 does so on the lane pairs whose even lane is
active, in binary64. -/
def Obligations.VectorBinary32 : Prop :=
  ∀ (s : State) (q : Nat) (f : CoreFields),
    let c := s.mach.getCore q
    let x (i : Nat) : IeeeIn := Ieee.b32.read (c.laneOf f.b i).toNat
    let y (i : Nat) : IeeeIn := Ieee.b32.read (c.laneOf f.c i).toNat
    let z (i : Nat) : IeeeIn := Ieee.b32.read (c.laneOf f.a i).toNat
    let out (v : Val) : Rounded := Ieee.b32.round v.exact
    let lane (g : Nat → Val) : Nat → BitVec 32 := fun i => BitVec.ofNat 32 (out (g i)).bits
    let two (i : Nat) : Tal := (x i).tal.plus (y i).tal
    f.imm / 2 ^ 31 % 2 = 0 →
    (let g (i : Nat) : Val := (x i).val.add (y i).val
     Issues s.mach q f 5 0x03 → WritesLanes (exec (.vadd q f) s) s q f (lane g) fun i => (two i).plus (out (g i)).tal) ∧
    (let g (i : Nat) : Val := (x i).val.add (y i).val.opp
     Issues s.mach q f 5 0x04 → WritesLanes (exec (.vsub q f) s) s q f (lane g) fun i => (two i).plus (out (g i)).tal) ∧
    (let g (i : Nat) : Val := (x i).val.mul (y i).val
     Issues s.mach q f 5 0x05 → WritesLanes (exec (.vmul q f) s) s q f (lane g) fun i => (two i).plus (out (g i)).tal) ∧
    (let g (i : Nat) : Val := ((x i).val.mul (y i).val).add (z i).val
     Issues s.mach q f 5 0x06 →
       WritesLanes (exec (.vfma q f) s) s q f (lane g) fun i => ((two i).plus (z i).tal).plus (out (g i)).tal) ∧
    (Issues s.mach q f 5 0x07 → WritesLanes (exec (.vmin q f) s) s q f
      (lane fun i => if (x i).val.lt (y i).val then (x i).val else (y i).val) two) ∧
    (Issues s.mach q f 5 0x08 → WritesLanes (exec (.vmax q f) s) s q f
      (lane fun i => if (x i).val.lt (y i).val then (y i).val else (x i).val) two) ∧
    (Issues s.mach q f 5 0x09 →
      WritesLanes (exec (.vabs q f) s) s q f (lane fun i => { (x i).val with neg := false }) fun i => (x i).tal) ∧
    (Issues s.mach q f 5 0x0B → f.imm % 8 = 2 →
      WritesMask (exec (.vcmp q f) s) s q f (fun i => c.isActive f i && (x i).val.lt (y i).val)
        (((List.range 64).filter (c.isActive f)).foldl (fun t i => t.plus (two i)) {})) ∧
    (let pair (r i : Nat) : IeeeIn := Ieee.b64.read ((c.laneOf r (2 * i)).toNat + 2 ^ 32 * (c.laneOf r (2 * i + 1)).toNat)
     let g (i : Nat) : Rounded :=
       Ieee.b64.round (((pair f.b i).val.mul (pair f.c i).val).add (pair f.a i).val).exact
     Issues s.mach q f 5 0x19 →
       Completes (exec (.vfma64 q f) s) s fun m' =>
         let c' := m'.getCore q
         (∀ i, i < 32 →
           (c'.laneOf f.a (2 * i)).toNat + 2 ^ 32 * (c'.laneOf f.a (2 * i + 1)).toNat =
             if c.isActive f (2 * i) then (g i).bits
             else (c.laneOf f.a (2 * i)).toNat + 2 ^ 32 * (c.laneOf f.a (2 * i + 1)).toNat) ∧
         (∀ r i, r % 32 ≠ f.a % 32 → c'.laneOf r i = c.laneOf r i) ∧ GoesOn { c with v := c'.v } c' ∧
         m' = { s.mach.withReports m' with cores := m'.cores })

/-- R268, R270 to R274: each of the four functions acts lane by lane, and for special inputs gives the table's result and tally: VEXP2 of
x ≥ 128 the largest finite, SATURATED, below −160 the value +0, UNDERFLOW; VLOG2 of 0 minus the largest finite, SATURATED; VRCP and VRSQ of 0
the largest finite, SATURATED; VLOG2 and VRSQ of a negative value +0, NAN_IN. Of a non-zero x, with m from 2^23 to 2^24 − 1 and
|x| = m × 2^(e − 23), VRCP is the steps of R272, and of a positive one VRSQ those of R273. -/
def Obligations.VectorFunctions : Prop :=
  (∀ (s : State) (q : Nat) (f : CoreFields),
    let c := s.mach.getCore q
    let x (i : Nat) : Nat := (c.laneOf f.b i).toNat
    let lanes (o : Host.Outcome State Fault Refusal) (g : Nat → Nat × Tal) : Prop :=
      WritesLanes o s q f (fun i => BitVec.ofNat 32 (g (x i)).1) fun i => (g (x i)).2
    (Issues s.mach q f 5 0x12 → lanes (exec (.vexp2 q f) s) vexp2) ∧
    (Issues s.mach q f 5 0x13 → lanes (exec (.vlog2 q f) s) vlog2) ∧
    (Issues s.mach q f 5 0x14 → lanes (exec (.vrcp q f) s) vrcp) ∧
    (Issues s.mach q f 5 0x15 → lanes (exec (.vrsq q f) s) vrsq)) ∧
  (∀ b : Nat, b < 2 ^ 32 → (Ieee.b32.read b).nan = false → (Ieee.b32.read b).inf = false →
    let v := (Ieee.b32.read b).val
    let largest : Nat := 0x7F7FFFFF
    (v.lt ⟨false, 128, 0⟩ = false → vexp2 b = (largest, { sat := 1 })) ∧
    (v.lt ⟨true, 160, 0⟩ = true → vexp2 b = (0, { unf := 1 })) ∧
    (v.mag = 0 → vexp2 b = (0x3F800000, {}) ∧ vlog2 b = (0xFF7FFFFF, { sat := 1 }) ∧ vrcp b = (largest, { sat := 1 }) ∧
      vrsq b = (largest, { sat := 1 })) ∧
    (v.mag ≠ 0 → v.neg = true → vlog2 b = (0, { special := 1 }) ∧ vrsq b = (0, { special := 1 })) ∧
    (v.mag ≠ 0 → ∃ (m : Nat) (e : Int), 2 ^ 23 ≤ m ∧ m < 2 ^ 24 ∧ v.abs.eq ⟨false, m, e - 23⟩ = true ∧
      vrcp b = trunc32 v.neg (2 ^ 47 / m) (-e - 24) ∧
      (v.neg = false →
        let u := if e % 2 = 1 then m * 2 ^ 24 else m * 2 ^ 23
        let t := if e % 2 = 1 then (e - 47) / 2 else (e - 46) / 2
        ∃ r, r * r ≤ 2 ^ 94 / u ∧ 2 ^ 94 / u < (r + 1) * (r + 1) ∧ vrsq b = trunc32 false r (-t - 47))) ∧
    (b = 0x3F800000 → vlog2 b = (0, {})) ∧ (b = 0x3FF00000 → vrcp b = (0x3F088888, {})))

/-- R254, R258, R262 to R265: moving lanes. VLD and VST move 256 bytes of the local store, the active lanes alone; VBCAST, VSEL, VPERM,
VSHUF, VUNPACK and VTGET with RAW give a lane bits of another; VTPUT puts lanes into raw slots; VPACK packs fields. -/
def Obligations.VectorMoves : Prop :=
  ∀ (s : State) (q : Nat) (f : CoreFields),
    let c := s.mach.getCore q
    let off := (c.sreg f.b).toNat % 2 ^ 15 / 4 * 4
    let none (_ : Nat) : Tal := {}
    let slot (i : Nat) : Nat :=
      let line := 2 * (f.imm % 16) + i / 32
      if f.imm / 2 ^ 4 % 2 = 1 then 32 * (i % 32) + line else 32 * line + i % 32
    (Issues s.mach q f 5 0x00 → s.mach.granErr = [] →
      WritesLanes (exec (.vld q f) s) s q f (fun i => BitVec.ofNat 32 (s.mach.storeNat q (off + 4 * i) 4)) none) ∧
    (Issues s.mach q f 5 0x01 → s.mach.granErr = [] → s.mach.memWf →
      Completes (exec (.vst q f) s) s fun m' =>
        (∀ i, i < 64 → c.isActive f i → m'.storeNat q (off + 4 * i) 4 = (c.laneOf f.a i).toNat) ∧
        (∀ a, (∀ i j, i < 64 → c.isActive f i → j < 4 → a ≠ storeBase q + (off + 4 * i + j) % 2 ^ 15) →
          m'.byteAt a = s.mach.byteAt a) ∧
        GoesOn c (m'.getCore q) ∧ CoreOnly s.mach { m' with mem := s.mach.mem } q) ∧
    (Issues s.mach q f 5 0x02 → WritesLanes (exec (.vbcast q f) s) s q f (fun _ => (c.sreg f.b).setWidth 32) none) ∧
    (Issues s.mach q f 5 0x0A → WritesLanes (exec (.vsel q f) s) s q f
      (fun i => if (c.mreg (f.imm % 8)).getLsbD i then c.laneOf f.b i else c.laneOf f.c i) none) ∧
    (Issues s.mach q f 5 0x0C →
      WritesLanes (exec (.vperm q f) s) s q f (fun i => c.laneOf f.b ((c.laneOf f.c i).toNat % 64)) none) ∧
    (let a := f.imm / 2 ^ 8 % 64
     Issues s.mach q f 5 0x0D → f.imm % 8 ≤ 4 → WritesLanes (exec (.vshuf q f) s) s q f
      (fun i => match f.imm % 8 with
        | 0 => c.laneOf f.b (i ^^^ 2 ^ (if a ≤ 5 then a else 0))
        | 1 => c.laneOf (if i % 2 = 0 then f.b else f.c) (i / 2)
        | 2 => c.laneOf (if i % 2 = 0 then f.b else f.c) (i / 2 + 32)
        | 3 => c.laneOf (if i < 32 then f.b else f.c) (2 * (i % 32) + if a = 1 then 1 else 0)
        | _ => c.laneOf f.b ((i + a) % 64)) none) ∧
    (let w := if f.imm % 4 = 0 then 16 else if f.imm % 4 = 1 then 8 else 4
     let part := f.imm / 2 ^ 4 % 8 % (32 / w)
     let field (v : BitVec 2048) (j : Nat) : Nat := v.toNat / 2 ^ ((64 * part + j) * w) % 2 ^ w
     (Issues s.mach q f 5 0x0F → f.imm % 4 ≠ 3 → f.imm / 2 ^ 7 % 2 = 0 →
       WritesLanes (exec (.vunpack q f) s) s q f (fun i => BitVec.ofNat 32 (field (Tab.get 0 c.v (f.b % 32)) i)) none) ∧
     (Issues s.mach q f 5 0x0E → f.imm % 4 ≠ 3 → f.imm / 2 ^ 7 % 2 = 0 → f.flags % 8 = 0 →
       Completes (exec (.vpack q f) s) s fun m' =>
         let v := Tab.get 0 c.v (f.a % 32)
         let v' := Tab.get 0 (m'.getCore q).v (f.a % 32)
         (∀ j, j < 64 → field v' j = (c.laneOf f.b j).toNat % 2 ^ w) ∧
         (∀ b, b < 2048 → (b < 64 * part * w ∨ 64 * (part + 1) * w ≤ b) → v'.getLsbD b = v.getLsbD b) ∧
         (∀ r i, r % 32 ≠ f.a % 32 → (m'.getCore q).laneOf r i = c.laneOf r i) ∧
         GoesOn { c with v := (m'.getCore q).v } (m'.getCore q) ∧ CoreTallies s.mach m' q {})) ∧
    (Issues s.mach q f 5 0x1A → f.imm / 2 ^ 5 % 2 = 1 →
      WritesLanes (exec (.vtget q f) s) s q f (fun i => c.slot (f.b % 8) (slot i)) none) ∧
    (Issues s.mach q f 5 0x1B →
      Completes (exec (.vtput q f) s) s fun m' =>
        let c' := m'.getCore q
        (c'.tile (f.a % 8)).hdr = (c.tile (f.a % 8)).hdr ∧
        (∀ i, i < 64 → c'.slot (f.a % 8) (slot i) = if c.isActive f i then c.laneOf f.b i else c.slot (f.a % 8) (slot i)) ∧
        (∀ e, (∀ i, i < 64 → e ≠ slot i) → c'.slot (f.a % 8) e = c.slot (f.a % 8) e) ∧
        (∀ r, r ≠ f.a % 8 → c'.tile r = c.tile r) ∧ GoesOn { c with t := c'.t } c' ∧ CoreOnly s.mach m' q)

/-- R252, R250: MTAIL sets the mask bits below sB; MLOGIC combines two masks, inverted where IMM[2] is 1. Their mask m0 stays all ones. -/
def Obligations.MaskFormation : Prop :=
  ∀ (s : State) (q : Nat) (f : CoreFields),
    let c := s.mach.getCore q
    (Issues s.mach q f 5 0x17 →
      WritesMask (exec (.mtail q f) s) s q f (fun i => decide (i < (c.sreg f.b).toNat)) {}) ∧
    (Issues s.mach q f 5 0x18 →
      WritesMask (exec (.mlogic q f) s) s q f (fun i =>
        let x := (c.mreg (f.b % 8)).getLsbD i
        let y := (c.mreg (f.c % 8)).getLsbD i
        (match f.imm % 4 with
         | 0 => x && y
         | 1 => x || y
         | 2 => x != y
         | _ => x && !y) != decide (f.imm / 2 ^ 2 % 2 = 1)) {})

/-- R257, R259, R260, R266: VREDT reduces the tile's rows or columns into one half of vA. VSEGRED in int32, forward, without CARRY: every
active lane holds the wrapped sum of the active lanes from the start of its segment to itself, and the carry becomes lane 63's
running value, OPEN. VCVT converts each lane. -/
def Obligations.VectorReductionsAndConversion : Prop :=
  ∀ (s : State) (q : Nat) (f : CoreFields),
    let c := s.mach.getCore q
    (let t := c.view (f.b % 8)
     let line (j i : Nat) : Val × Tal := t.read (if f.imm % 2 = 1 then 32 * i + j else 32 * j + i)
     let base := if f.imm / 2 ^ 3 % 2 = 1 then 32 else 0
     let sum (j : Nat) : Rounded := Ieee.b32.round ((List.range 32).foldl (fun (a : Val) i => a.add (line j i).1) {}).exact
     Issues s.mach q f 5 0x10 → f.imm / 2 % 4 = 0 →
       WritesLanes (exec (.vredt q f) s) s q f
         (fun l => if base ≤ l ∧ l < base + 32 then BitVec.ofNat 32 (sum (l - base)).bits else c.laneOf f.a l)
         (fun l => if base ≤ l ∧ l < base + 32 then
           ((List.range 32).foldl (fun (a : Tal) i => a.plus (line (l - base) i).2) {}).plus (sum (l - base)).tal else {})) ∧
    (let starts := c.mreg (f.c % 8)
     let first (i : Nat) : Nat := ((List.range (i + 1)).filter fun j => starts.getLsbD j).getLastD 0
     let sum (i : Nat) : BitVec 32 :=
       ((List.range 64).filter fun j => decide (first i ≤ j ∧ j ≤ i) && c.isActive f j).foldl (fun a j => a + c.laneOf f.b j) 0
     Issues s.mach q f 5 0x11 → f.imm = 2 ^ 31 →
       Completes (exec (.vsegred q f) s) s fun m' =>
         let c' := m'.getCore q
         (∀ i, i < 64 → c'.laneOf f.a i = if c.isActive f i then sum i else c.laneOf f.a i) ∧
         ((∃ j, first 63 ≤ j ∧ j < 64 ∧ c.isActive f j = true) → c'.carry = sum 63) ∧ c'.carryOpen = true ∧
         (∀ r i, r % 32 ≠ f.a % 32 → c'.laneOf r i = c.laneOf r i) ∧
         GoesOn { c with v := c'.v, carry := c'.carry, carryOpen := c'.carryOpen } c' ∧ CoreTallies s.mach m' q {}) ∧
    (let x (i : Nat) : Int := (c.laneOf f.b i).toInt
     Issues s.mach q f 5 0x16 → f.imm = 0x804 →
       WritesLanes (exec (.vcvt q f) s) s q f
         (fun i => BitVec.ofNat 32 (Ieee.b32.round (Val.ofInt (x i) 0).exact).bits) fun _ => {})

/-! ## Transfers and the engines of a cluster: chapters 05, 06, 07, 09 -/

/-- R190, R192, R194: XFER. A COPY of one row within the module, which the checks of R192 pass, moves its bytes and no other byte of memory, and
adds INCREMENT to the counter it names, of its own cluster; no byte is moved where ROW_BYTES is 0. Bytes that land in the memory of another
cluster of the module raise a counter of that cluster by the number of WRITE packets they need (R391), and no other counter rises. A refused transfer moves nothing, still adds INCREMENT,
records its reason and counts DMA_REFUSED. Where memory has no detection-code error and no domain traces. -/
def Obligations.Transfers : Prop :=
  ∀ (s : State) (q : Nat) (f : CoreFields),
    let c := s.mach.getCore q
    let d := XferDesc.ofBytes (s.mach.storeBytes q ((c.sreg f.a).toNat / 8 * 8) 64)
    let why := s.mach.xferRefused c.bind.ctx d
    Issues s.mach q f 1 0x00 → s.mach.memWf → s.mach.granErr = [] → s.mach.untraced → c.xfers = [] → c.held = [] →
    d.counter.toNat % 2 ^ 24 = 0xFFFFFF →
    (∀ sa da, why = 0 → d.op = 0 → d.rows = 1 → s.mach.xferSrc c.bind.ctx d 0 = some (s.mach.self, sa) →
      s.mach.xferDst c.bind.ctx d 0 = some (s.mach.self, da) →
      Completes (exec (.xfer q f) s) s fun m' =>
        (∀ a, m'.byteAt a = if da ≤ a ∧ a < da + d.rowBytes then s.mach.byteAt (sa + (a - da)) else s.mach.byteAt a) ∧
        (∀ k' n', m'.counter k' n' = s.mach.counter k' n' +
          (if k' = q / 16 ∧ n' = d.counter.toNat / 2 ^ 24 then d.increment else 0) +
          (if inCluster da ∧ k' = unitOf da ∧ k' ≠ q / 16 ∧ s.mach.clusterPresent k' ∧ n' = Config.writeCounter.toNat then
            BitVec.ofNat 32 (pieces da d.rowBytes).length else 0)) ∧ (m'.getCore q).xfers = []) ∧
    (why ≠ 0 →
      Completes (exec (.xfer q f) s) s fun m' =>
        (∀ a, m'.byteAt a = s.mach.byteAt a) ∧
        CounterRaised s.mach m' (q / 16) (d.counter.toNat / 2 ^ 24) d.increment ∧
        (m'.getCore q).dmaPc = c.pc ∧ (m'.getCore q).dmaReason = BitVec.ofNat 8 why ∧ (m'.getCore q).xfers = [] ∧
        m'.getHdr (hdrKey tyCor q) = (s.mach.getHdr (hdrKey tyCor q)).occur 7 1)

/-- R108, R145, R165, R235: TRV_SUBMIT, GTH_LOOKUP, GTH_SCATTER and SSEG put the descriptor of the local store, with core, context, job and
step tag, at the end of the engine's queue; where the queue is full the core stalls at the instruction. -/
def Obligations.DescriptorSubmissions : Prop :=
  ∀ (s : State) (q : Nat) (f : CoreFields),
    let c := s.mach.getCore q
    let k := q / 16
    let org (tag : BitVec 16) : Origin := { core := q, ctx := c.bind.ctx, slot := c.bind.slot, tag := tag }
    let tag := (s.mach.causeOf c.bind.slot).tag
    let off (x : BitVec 64) : Nat := x.toNat / 8 * 8
    let goes (o : Host.Outcome State Fault Refusal) (queued : Mach → Prop) : Prop :=
      Completes o s fun m' => queued m' ∧ GoesOn c (m'.getCore q) ∧ (∀ r, r ≠ q → m'.getCore r = s.mach.getCore r) ∧
        m' = { s.mach with cores := m'.cores, thdClu := m'.thdClu, trv := m'.trv, gth := m'.gth, spr := m'.spr }
    let stalls (o : Host.Outcome State Fault Refusal) : Prop :=
      Completes o s fun m' => (m'.getCore q).run = .stalled ∧ (m'.getCore q).pc = c.pc ∧ CoreOnly s.mach m' q
    s.mach.granErr = [] →
    (let bs := s.mach.storeBytes q (off (c.sreg f.a)) 128
     let step := leNat ((bs.drop 0x10).take 8)
     (Issues s.mach q f 1 0x01 → (s.mach.getTrv k).queue.length < 64 →
       goes (exec (.trvSubmit q f) s) fun m' =>
         m'.getTrv k = { s.mach.getTrv k with
                         queue := (s.mach.getTrv k).queue ++ [BatchDesc.ofBytes (org (stepTag step 3)) bs] }) ∧
     (Issues s.mach q f 1 0x01 → 64 ≤ (s.mach.getTrv k).queue.length → stalls (exec (.trvSubmit q f) s))) ∧
    (let bs := s.mach.storeBytes q (off (c.sreg f.a)) 64
     (Issues s.mach q f 1 0x02 → (s.mach.getGth k).queue.length < 64 →
       goes (exec (.gthLookup q f) s) fun m' =>
         m'.getGth k = { s.mach.getGth k with
                         queue := (s.mach.getGth k).queue ++ [GthDesc.ofBytes (org tag) false bs] }) ∧
     (Issues s.mach q f 1 0x03 → (s.mach.getGth k).queue.length < 64 →
       goes (exec (.gthScatter q f) s) fun m' =>
         m'.getGth k = { s.mach.getGth k with
                         queue := (s.mach.getGth k).queue ++ [GthDesc.ofBytes (org tag) true bs] }) ∧
     (Issues s.mach q f 1 0x02 → 64 ≤ (s.mach.getGth k).queue.length → stalls (exec (.gthLookup q f) s)) ∧
     (Issues s.mach q f 1 0x03 → 64 ≤ (s.mach.getGth k).queue.length → stalls (exec (.gthScatter q f) s))) ∧
    (let bs := s.mach.storeBytes q (off (c.sreg f.b)) 64
     let free := s.mach.takesWork tySpr k = true
     (Issues s.mach q f 4 0x00 → (s.mach.getSpr k).queue.length < 16 → free →
       goes (exec (.sseg q f) s) fun m' =>
         m'.getSpr k = { s.mach.getSpr k with
                         queue := (s.mach.getSpr k).queue ++ [SegDesc.ofBytes q c.bind.ctx c.bind.slot tag bs] }) ∧
     (Issues s.mach q f 4 0x00 → 16 ≤ (s.mach.getSpr k).queue.length → stalls (exec (.sseg q f) s)) ∧
     (Issues s.mach q f 4 0x00 → ¬ free → stalls (exec (.sseg q f) s)))

/-- R109, R130, R132, R133, R135: BATCH_START takes the first queued descriptor, whose checks pass, into work; the next one waits where its
STEP is beyond the lookahead. BATCH_COMPLETE of a batch whose block is written whole raises its counter, records the batch and leaves
the block to the job. The graph that a started batch names is the job's to read alone from then on (R107), and no batch starts while 32 of the
engine are being sampled (R101).
Choices of the model that show in it: log 26, 52, 158, 161 and 164. -/
def Obligations.TraverseEngine : Prop :=
  ∀ (s : State) (k : Nat) (d : BatchDesc) (rest : List BatchDesc) (j : Job),
    let t := s.mach.getTrv k
    s.mach.takesWork tyTrv k = true → k < 640 → s.mach.job? d.org.slot = some j →
    (t.queue = d :: rest → j.step.toNat + t.lookahead.toNat + 1 < d.step.toNat →
      Completes (exec (.batchStart k) s) s fun m' => m' = s.mach) ∧
    (32 ≤ (t.work.countP fun w => !w.written) → Completes (exec (.batchStart k) s) s fun m' => m' = s.mach) ∧
    (t.queue = d :: rest → d.step.toNat ≤ j.step.toNat + t.lookahead.toNat + 1 → j.attempt = 0 →
      (t.work.countP fun w => !w.written) < 32 →
      ∀ m1, s.mach.runRd (.trvStart k) (some (s.mach.causeTag d.org.slot d.org.tag).domain) (s.mach.causeTag d.org.slot d.org.tag) d.check = (some (0, false), m1) →
      Completes (exec (.batchStart k) s) s fun m' =>
        m'.getTrv k = { m1.getTrv k with
                        queue := rest, nextId := (m1.getTrv k).nextId + 1,
                        work := (m1.getTrv k).work ++ [{ id := (m1.getTrv k).nextId, desc := d, since := m1.now }] } ∧
        (∀ i, i ≠ k → m'.getTrv i = m1.getTrv i) ∧ m' = { m1 with trv := m'.trv, cmt := m'.cmt, ctx := m'.ctx } ∧
        (∀ c, m'.getCtx c = { m1.getCtx c with guards := (m'.getCtx c).guards }) ∧
        (∀ i, i ≠ d.org.slot → m'.job? i = m1.job? i) ∧
        ∀ x j1, m1.xlate d.org.ctx .read d.graph 64 = some x → m1.job? d.org.slot = some j1 →
          ∃ j', m'.job? d.org.slot = some j' ∧ j' = { j1 with graphs := j'.graphs } ∧ x ∈ j'.graphs ∧
            ∀ y ∈ j1.graphs, y ∈ j'.graphs) ∧
    (∀ w : TrvWork, t.work = [w] → w.desc = d → w.written = true → w.writes = [] → w.status = 0 → s.mach.untraced →
      Completes (exec (.batchComplete k w.id) s) s fun m' =>
        (m'.getTrv k).work = [] ∧ (m'.getTrv k).batches = t.batches + 1 ∧ (m'.getTrv k).lastBatch = d.batch ∧
        CounterRaised s.mach m' k d.closure 1 ∧
        (∃ j', m'.job? d.org.slot = some j' ∧ j'.blocks = j.blocks ++ [{ desc := d, flags := w.flags }]) ∧
        ∀ a, m'.byteAt a = s.mach.byteAt a)

/-- R151, R160, R169, R171: LOOKUP_START takes a lookup whose checks pass into work, and a descriptor that fails one is refused with its
reason, still raising CLOSURE. LOOKUP_COMPLETE of one whose output is written, and SCATTER_COMPLETE after flushing the coalescing buffer, raise CLOSURE.
SCATTER_START of a scatter that contributes nothing takes it into work.
Choices of the model that show in it: log 26, 60 and 162. -/
def Obligations.GatherEngine : Prop :=
  ∀ (s : State) (k : Nat) (d : GthDesc) (rest : List GthDesc) (j : Job),
    let g := s.mach.getGth k
    let w := s.mach.causeTag d.org.slot d.org.tag
    s.mach.takesWork tyGth k = true → s.mach.aclkOn = true → s.mach.job? d.org.slot = some j →
    (∀ p t m1, g.queue = d :: rest → d.scatter = false → p.failed = false →
      s.mach.runRd (.gthStart k) (some w.domain) w (d.begin' j (s.mach.tableSlots j) fun _ _ => (pure () : Rd Unit)) =
        (some (p, some (t, ())), m1) →
      Completes (exec (.lookupStart k) s) s fun m' =>
        m'.getGth k = { m1.getGth k with
                        queue := rest, nextId := (m1.getGth k).nextId + 1,
                        work := (m1.getGth k).work ++ [{ id := (m1.getGth k).nextId, desc := d, since := m1.now }] } ∧
        (∀ i, i ≠ k → m'.getGth i = m1.getGth i) ∧ m' = { m1 with gth := m'.gth }) ∧
    (∀ p m1, g.queue = d :: rest → d.scatter = false → p.failed = false → p.table.failed = false → d.bagsOk = false →
      s.mach.runRd (.gthStart k) (some w.domain) w (d.begin' j (s.mach.tableSlots j) fun _ _ => (pure () : Rd Unit)) =
        (some (p, none), m1) → (m1.getGth k).work = [] → m1.untraced →
      Completes (exec (.lookupStart k) s) s fun m' =>
        (m'.getGth k).queue = rest ∧ (m'.getGth k).work = [] ∧ (m'.getGth k).refuseReason = BitVec.ofNat 8 p.reason ∧
        (m'.getGth k).refuseStep = d.step ∧ (m'.getGth k).refuseTable = BitVec.ofNat 12 d.tableId ∧
        m'.getHdr (hdrKey tyGth k) = (m1.getHdr (hdrKey tyGth k)).occur 7 1 ∧
        CounterRaised m1 m' k d.closure 1 ∧ ∀ a, m'.byteAt a = m1.byteAt a) ∧
    (∀ x : GthWork, g.work = [x] → x.desc = d → d.scatter = false → x.done = true → x.writes = [] → s.mach.untraced →
      Completes (exec (.lookupComplete k x.id) s) s fun m' =>
        (m'.getGth k).work = [] ∧ (m'.getGth k).lookups = g.lookups + 1 ∧ CounterRaised s.mach m' k d.closure 1 ∧
        ∀ a, m'.byteAt a = s.mach.byteAt a) ∧
    (∀ evict p t r m1, g.queue = d :: rest → d.scatter = true → p.failed = false →
      s.mach.runRd (.gthStart k) (some w.domain) w
        (d.begin' j (s.mach.tableSlots j) fun p t => d.scatterAll k j t p) = (some (p, some (t, ({}, r))), m1) →
      r.working = false → r.committed = false → r.readErrors = 0 →
      Completes (exec (.scatterStart k evict) s) s fun m' =>
        m'.getGth k = { m1.getGth k with
                        queue := rest, nextId := (m1.getGth k).nextId + 1,
                        work := (m1.getGth k).work ++
                          [{ id := (m1.getGth k).nextId, desc := d, since := m1.now, done := true }] } ∧
        m' = { m1 with gth := m'.gth }) ∧
    (∀ (x : GthWork) (c : Coal), g.work = [x] → x.desc = d → d.scatter = true → g.coal = [c] → c.slot = d.org.slot →
      s.mach.untraced → Tab.get [] s.mach.posted k = [] → s.mach.postedHeld k < 512 →
      let e := s.mach.getRte (k / 160)
      Completes (exec (.scatterComplete k x.id) s) s fun m' =>
        (m'.getGth k).work = [] ∧ (m'.getGth k).coal = [] ∧ (m'.getGth k).addsSent = g.addsSent + 1 ∧
        CounterRaised s.mach m' k d.closure 1 ∧
        (k < 640 → ∃ p : Packet, (m'.getRte (k / 160)).held = e.held ++ [{ pkt := p, input := 16 }] ∧ p.op = 0x21 ∧ p.tc = 2 ∧
          p.addr = c.addr ∧ p.dst / 8192 = c.module ∧ p.arg = (if c.seg = 0 then c.count else 0) ∧ p.tag = c.tag ∧
          p.data = c.sums.flatMap fun x => leBytes 8 x.toNat) ∧
        (∃ j', m'.job? d.org.slot = some j' ∧ j'.sent = j.sent + 1))

/-- R160, R161, R163: PREFETCH_HINT queues a posted hint, or discards it where 4,096 wait; PREFETCH_FETCH keeps a fetched row in the
prefetch area; both change the gather engine alone. MIGRATION_SOURCE_FREE frees the source copy of a flipped migration once
the lookup closure of its step is complete. -/
def Obligations.PrefetchAndMigration : Prop :=
  (∀ (s : State) (k : Nat) (h : Hint) (r : List Hint), s.mach.aclkOn = true → (s.mach.getGth k).inHints = h :: r →
    let g := s.mach.getGth k
    Completes (exec (.prefetchHint k) s) s fun m' =>
      m'.getGth k = { g with inHints := r, hints := if g.hints.length < 4096 then g.hints ++ [h] else g.hints } ∧
      (∀ i, i ≠ k → m'.getGth i = s.mach.getGth i) ∧ m' = { s.mach with gth := m'.gth }) ∧
  (∀ (s : State) (k evict slot : Nat) (j : Job) (h : Hint) (t : TableDesc) (b : RowBytes) (g : GtSt) (m1 : Mach),
    let cap := (m1.getClu k).prefetchKib.toNat * 1024
    s.mach.aclkOn = true → s.mach.slotOfCluster k = some slot → s.mach.job? slot = some j → (m1.getGth k).hints = [h] →
    h.tables = [t.id] → (m1.getGth k).area = [] → b.bytes.length ≤ cap →
    s.mach.runRd (.prefetch k) (some j.domain) (s.mach.causeOf slot)
      (prefetchLook j slot (s.mach.tableSlots j) (s.mach.getGth k).hints) = (some (some (0, h, t, some b, g)), m1) →
    g.working = false → g.committed = false → g.readErrors = 0 →
    Completes (exec (.prefetchFetch k evict) s) s fun m' =>
      m'.getGth k = { m1.getGth k with
                      hints := [],
                      area := [{ slot := slot, table := t.id, version := t.version, row := h.row, frozen := t.frozen,
                                 master := b.master, cls := b.cls, bytes := b.bytes }] } ∧
      (∀ i, i ≠ k → m'.getGth i = m1.getGth i) ∧ m' = { m1 with gth := m'.gth }) ∧
  (∀ (s : State) (slot table row : Nat) (j : Job), s.mach.job? slot = some j → s.mach.lookupClosed j = true →
    Completes (exec (.migrationSourceFree slot table row) s) s fun m' =>
      m'.job? slot = some { j with migrations := j.migrations.filter fun g => !(g.flipped && g.table == table && g.row == row) } ∧
      (∀ i, i ≠ slot → m'.job? i = s.mach.job? i) ∧ m' = { s.mach with cmt := m'.cmt })

/-- R240 to R243, R245: SEGMENT_START refuses a descriptor that fails a check, raising CLOSURE, and takes a FINISH that passes into work; a
forwarded segment is processed once and reported to its origin; an AGGREGATE whose segments are all processed, reported and
applied, and a FINISH whose tiles are all written, raise CLOSURE.
Choices of the model that show in it: log 26, 67, 70 and 159. -/
def Obligations.SparseEngine : Prop :=
  ∀ (s : State) (k : Nat) (d : SegDesc) (rest : List SegDesc) (j : Job),
    let e := s.mach.getSpr k
    let w := s.mach.causeTag d.slot d.tag
    let check := d.check (s.mach.jobHdr j).reduces
    s.mach.takesWork tySpr k = true → s.mach.aclkOn = true → s.mach.job? d.slot = some j →
    (∀ why m1, e.queue = d :: rest → (∀ x ∈ e.work, x.computed = true) →
      s.mach.runRd (.sprStart k) (some w.domain) w check = (some (why, false), m1) → m1.untraced →
      (why ≠ 0 →
        Completes (exec (.segmentStart k) s) s fun m' =>
          m'.getSpr k = { m1.getSpr k with queue := rest, refuse := BitVec.ofNat 8 why } ∧
          m'.getHdr (hdrKey tySpr k) = (m1.getHdr (hdrKey tySpr k)).occur 6 1 ∧
          CounterRaised m1 m' k d.closure 1 ∧ ∀ a, m'.byteAt a = m1.byteAt a) ∧
      (why = 0 → d.kind = 1 →
        Completes (exec (.segmentStart k) s) s fun m' =>
          m'.getSpr k = { m1.getSpr k with
                          queue := rest, nextId := (m1.getSpr k).nextId + 1,
                          work := (m1.getSpr k).work ++
                            [{ id := (m1.getSpr k).nextId, desc := d, nextRow := 0, since := m1.now }] } ∧
          m' = { m1 with spr := m'.spr })) ∧
    (∀ (x : FwdSeg) (xs : List FwdSeg) (o : SegOut) (mod a : Nat) (m1 : Mach), e.fwd = x :: xs → x.desc = d → x.origin ≠ k → k < 640 →
      s.mach.runRd (.sprFwd k) (some w.domain) w (segment d (s.mach.segExp d) x.row x.seg fun _ _ => true) = (some o, m1) →
      o.clamps = 0 → o.invalid = 0 → o.errors = 0 → o.tal = {} →
      m1.xlate d.ctx .add (d.sums + x.row * d.pitch) d.pitch = some (mod, a) → a % 512 + 8 * (o.parts.length + 1) ≤ 512 →
      Tab.get [] m1.posted k = [] → m1.postedHeld k < 512 →
      Completes (exec (.forwardedSegment k) s) s fun m' =>
        m'.getSpr k = { m1.getSpr k with
                        fwd := xs, reports := (m1.getSpr k).reports ++ [(x.origin, x.id)],
                        segments := (m1.getSpr k).segments + 1 } ∧
        (∃ p : Packet, (m'.getRte (k / 160)).held = (m1.getRte (k / 160)).held ++ [{ pkt := p, input := 16 }] ∧
          p.op = 0x21 ∧ p.addr = a ∧ p.dst / 8192 = mod ∧ p.arg = 1 ∧ p.tag = d.tag ∧
          p.data = leBytes 8 1 ++ o.parts.flatMap fun n => leBytes 8 (BitVec.ofInt 64 n).toNat) ∧
        ∀ i, i ≠ k → i ≠ x.origin → m'.getSpr i = m1.getSpr i) ∧
    (∀ (o id : Nat) (rs : List (Nat × Nat)), e.reports = (o, id) :: rs → o ≠ k →
      let eo := s.mach.getSpr o
      Completes (exec (.segmentReport k) s) s fun m' =>
        m'.getSpr k = { e with reports := rs } ∧
        m'.getSpr o = { eo with work := eo.work.map fun x => if x.id = id then { x with fwdOut := x.fwdOut - 1 } else x } ∧
        m' = { s.mach with spr := m'.spr }) ∧
    (∀ x : SegWork, e.work = [x] → x.desc = d → x.computed = true → x.fwdOut = 0 → x.writes = [] → s.mach.untraced →
      (∀ y ∈ x.far, Config.appliedBy y.1 y.2.1 y.2.2 s.mach.now = true) →
      let ends (o : Host.Outcome State Fault Refusal) : Prop :=
        Completes o s fun m' => m'.getSpr k = { e with work := [] } ∧ CounterRaised s.mach m' k d.closure 1 ∧
          ∀ a, m'.byteAt a = s.mach.byteAt a
      (d.kind = 0 → ends (exec (.aggregateComplete k x.id) s)) ∧ (d.kind = 1 → ends (exec (.finishComplete k x.id) s)))

/-! ## Update dies: chapter 11 -/

/-- R280, R281, R282, R255: the update instructions that write rD with an exact result rounded once, or an exact choice of an operand,
from the operands that their codes name; every other register keeps its value. ST records a value for its stream, LD delivers the
value of its stream as it stood. -/
def Obligations.UpdateArithmetic : Prop :=
  ∀ (s : State) (die lane : Nat) (f : UpdFields) (l : LaneSt) (j : Job),
    let g := Tab.get {} j.groups l.group
    let operand (code : Nat) : Nat :=
      if code < 16 then (Tab.get 0 l.regs code).toNat
      else if code < 24 then (g.scalars.getD (code - 16) 0).toNat
      else if code = 0x18 then (Ieee.b32.round (Val.ofInt g.position.toNat 0).exact).bits
      else if code = 0x19 then (Ieee.b32.round (LogFmt.l16.decode g.amax.toNat 0).exact).bits
      else if code = 0x1A then f.imm
      else if code = 0x1C then 0x3F800000
      else 0
    let a := Ieee.b32.read (operand f.a)
    let b := Ieee.b32.read (operand f.b)
    let c := Ieee.b32.read (operand f.c)
    let out (v : Val) : Rounded := Ieee.b32.round v.exact
    let goes (o : Host.Outcome State Fault Refusal) (v : Nat) (t : Tal) : Prop :=
      LaneGoes o s die lane { l with regs := Tab.put 0 l.regs f.d (BitVec.ofNat 32 v) } t
    let rounds (o : Host.Outcome State Fault Refusal) (v : Val) (t : Tal) : Prop :=
      goes o (out v).bits (t.plus (out v).tal)
    let picks (o : Host.Outcome State Fault Refusal) (v : Val) (t : Tal) : Prop := goes o (out v).bits t
    let at' (op : Nat) : Prop := LaneIssues s.mach die lane f op l j
    let ab := a.tal.plus b.tal
    let ge (x y : Val) : Val := if x.lt y then y else x
    let le (x y : Val) : Val := if x.lt y then x else y
    (at' 0x00 → LaneGoes (exec (.updNop die lane f) s) s die lane l {}) ∧
    (at' 0x01 → f.f = 1 → goes (exec (.updLd die lane f) s) (out (Val.ofInt l.grad.toInt g.exp)).bits
      (out (Val.ofInt l.grad.toInt g.exp)).tal) ∧
    (let stream := Ieee.b32.read (l.loaded.getD (if f.f = 0 then 0 else f.f - 1) 0).toNat
     at' 0x01 → f.f ≠ 1 → picks (exec (.updLd die lane f) s) stream.val stream.tal) ∧
    (at' 0x02 → LaneGoes (exec (.updSt die lane f) s) s die lane
      { l with stored := l.stored.set (if f.f = 0 then 0 else f.f - 1) (some (BitVec.ofNat 32 (out a.val).bits)) } a.tal) ∧
    (at' 0x03 → rounds (exec (.updAdd die lane f) s) (a.val.add b.val) ab) ∧
    (at' 0x04 → rounds (exec (.updSub die lane f) s) (a.val.add b.val.opp) ab) ∧
    (at' 0x05 → rounds (exec (.updMul die lane f) s) (a.val.mul b.val) ab) ∧
    (at' 0x06 → rounds (exec (.updFma die lane f) s) ((a.val.mul b.val).add c.val) (ab.plus c.tal)) ∧
    (at' 0x0A → picks (exec (.updMin die lane f) s) (le a.val b.val) ab) ∧
    (at' 0x0B → picks (exec (.updMax die lane f) s) (ge a.val b.val) ab) ∧
    (at' 0x0C → picks (exec (.updAbs die lane f) s) { a.val with neg := false } a.tal) ∧
    (at' 0x0D → goes (exec (.updSign die lane f) s)
      (if a.val.mag = 0 then 0 else if a.val.neg then 0xBF800000 else 0x3F800000) a.tal) ∧
    (at' 0x0E → f.f < 4 →
      let holds := match f.f with
        | 0 => !a.val.neg && a.val.mag != 0
        | 1 => !a.val.neg || a.val.mag == 0
        | 2 => a.val.mag == 0
        | _ => a.val.neg && a.val.mag != 0
      picks (exec (.updSel die lane f) s) (if holds then b.val else c.val) (a.tal.plus (if holds then b.tal else c.tal))) ∧
    (at' 0x0F → a.nan = false → a.inf = false → b.nan = false → b.inf = false → c.nan = false → c.inf = false →
      picks (exec (.updClip die lane f) s) (le (ge a.val b.val) c.val) {}) ∧
    (at' 0x10 → rounds (exec (.updLerp die lane f) s) (a.val.add (c.val.mul (b.val.add a.val.opp))) (ab.plus c.tal))

/-- R274, R282 to R284, R288: division and roots with the table's results for special inputs, POW, AMAX and SRND. DIV by zero gives the largest
finite with SATURATED, 0 / 0 gives zero with NAN_IN; SQRT and POW of a negative value give zero with NAN_IN; RSQRT is the algorithm of R273. AMAX raises
the group's pending code to that of A and writes no register. SRND into binary16 of a value that binary16 holds exactly leaves it. -/
def Obligations.UpdateFunctions : Prop :=
  ∀ (s : State) (die lane : Nat) (f : UpdFields) (l : LaneSt) (j : Job),
    let g := Tab.get {} j.groups l.group
    let a := (Tab.get 0 l.regs f.a).toNat
    let b := (Tab.get 0 l.regs f.b).toNat
    let va := (Ieee.b32.read a).val
    let vb := (Ieee.b32.read b).val
    let finite (x : Nat) : Prop := (Ieee.b32.read x).nan = false ∧ (Ieee.b32.read x).inf = false
    let goes (o : Host.Outcome State Fault Refusal) (v : Nat) (t : Tal) : Prop :=
      LaneGoes o s die lane { l with regs := Tab.put 0 l.regs f.d (BitVec.ofNat 32 v) } t
    let at' (op : Nat) : Prop := LaneIssues s.mach die lane f op l j
    f.a < 16 → finite a →
    (f.b < 16 → finite b → at' 0x07 → vb.mag = 0 → va.mag ≠ 0 →
      goes (exec (.updDiv die lane f) s) (if va.neg then 0xFF7FFFFF else 0x7F7FFFFF) { sat := 1 }) ∧
    (f.b < 16 → finite b → at' 0x07 → vb.mag = 0 → va.mag = 0 → goes (exec (.updDiv die lane f) s) 0 { special := 1 }) ∧
    (f.b < 16 → finite b → at' 0x07 → vb.mag ≠ 0 →
      goes (exec (.updDiv die lane f) s) (Ieee.b32.round (divTrunc 30 va vb)).bits (Ieee.b32.round (divTrunc 30 va vb)).tal) ∧
    (at' 0x08 → va.neg = true → va.mag ≠ 0 → goes (exec (.updSqrt die lane f) s) 0 { special := 1 }) ∧
    (at' 0x08 → va.neg = false → va.mag ≠ 0 →
      goes (exec (.updSqrt die lane f) s) (Ieee.b32.round (sqrtTrunc 30 va)).bits (Ieee.b32.round (sqrtTrunc 30 va)).tal) ∧
    (at' 0x09 → goes (exec (.updRsqrt die lane f) s) (vrsq a).1 (vrsq a).2) ∧
    (f.b = 0x1C → at' 0x11 → va.neg = true → va.mag ≠ 0 → goes (exec (.updPow die lane f) s) 0 { special := 1 }) ∧
    (f.b = 0x1C → at' 0x11 → va.mag = 0 → goes (exec (.updPow die lane f) s) 0 {}) ∧
    (f.b = 0x1B → at' 0x11 → va.mag = 0 → goes (exec (.updPow die lane f) s) 0x3F800000 {}) ∧
    (f.b = 0x1B → at' 0x11 → va.neg = false → va.mag ≠ 0 → goes (exec (.updPow die lane f) s) 0x3F800000 {}) ∧
    (at' 0x12 →
      Completes (exec (.updAmax die lane f) s) s fun m' =>
        (∃ j', m'.job? l.slot = some j' ∧ j' = { j with groups := j'.groups } ∧
          (Tab.get {} j'.groups l.group) = { g with pending := BitVec.ofNat 15 (max g.pending.toNat (amaxCode va)) } ∧
          ∀ i, i ≠ l.group → Tab.get {} j'.groups i = Tab.get {} j.groups i) ∧
        Tab.get none (m'.getUpd die).lanes lane = some { l with pc := l.pc + 1 } ∧
        m' = { s.mach.withReports m' with upd := m'.upd, cmt := m'.cmt }) ∧
    (∀ (neg : Bool) (n : Nat) (e : Int), at' 0x13 → f.f = 3 → n < 2048 → -24 ≤ e → e ≤ 5 →
      a = (Ieee.b32.round (Val.exact ⟨neg, n, e⟩)).bits → goes (exec (.updSrnd die lane f) s) a {})

/-- R280, R310: the last instruction of an element's program ends it. A new value that differs from none is written in place after the granule's old
contents have been appended to the die's undo log, once for each granule; the lane is free, and the group counts the element. Where the log is full
the lane keeps its element, and nothing is written.
Choices of the model that show in it: log 75. -/
def Obligations.UpdateElementEnds : Prop :=
  ∀ (s : State) (die lane : Nat) (f : UpdFields) (l : LaneSt) (j : Job) (a : Nat) (v : BitVec 32),
    let prog := (s.mach.getUpd die).programs.getD (s.mach.groupDesc j l.group).program []
    let undo := if die = 0 then j.undo0 else j.undo1
    let granule := a / 64 * 64
    let log := j.logAt die + 80 * undo.length
    Tab.get none (s.mach.getUpd die).lanes lane = some l → s.mach.job? l.slot = some j → j.updates = true →
    prog[l.pc]? = some (f.word 0x00) → l.pc + 1 = prog.length → l.addrs = [a] → l.stored = [some v] →
    s.mach.granErr = [] → s.mach.memWf → j.part.granted = false → a % 4 = 0 →
    (log + 80 ≤ granule ∨ granule + 64 ≤ log) →
    ((∀ x ∈ undo, x.addr ≠ granule) → undo.length < min j.logLive.toNat j.logPlaced.toNat * 2 ^ 24 / 80 →
      Completes (exec (.updNop die lane f) s) s fun m' =>
        (∀ x, m'.byteAt x =
          if a ≤ x ∧ x < a + 4 then BitVec.ofNat 8 (v.toNat / 2 ^ (8 * (x - a)))
          else if log ≤ x ∧ x < log + 8 then BitVec.ofNat 8 (granule / 2 ^ (8 * (x - log)))
          else if log + 8 ≤ x ∧ x < log + 16 then BitVec.ofNat 8 (j.step.toNat / 2 ^ (8 * (x - (log + 8))))
          else if log + 16 ≤ x ∧ x < log + 80 then s.mach.byteAt (granule + (x - (log + 16)))
          else s.mach.byteAt x) ∧
        (∃ j', m'.job? l.slot = some j' ∧
          (if die = 0 then j'.undo0 else j'.undo1) = undo ++ [{ addr := granule, step := j.step }] ∧
          Tab.get 0 (Tab.get {} j'.groups l.group).updated die = Tab.get 0 (Tab.get {} j.groups l.group).updated die + 1) ∧
        Tab.get none (m'.getUpd die).lanes lane = none) ∧
    ((∀ x ∈ undo, x.addr ≠ granule) → min j.logLive.toNat j.logPlaced.toNat * 2 ^ 24 / 80 ≤ undo.length →
      Completes (exec (.updNop die lane f) s) s fun m' =>
        (∀ x, m'.byteAt x = s.mach.byteAt x) ∧ m'.job? l.slot = some j ∧
        Tab.get none (m'.getUpd die).lanes lane = some { l with pc := l.pc + 1 }) ∧
    ((∃ x ∈ undo, x.addr = granule) →
      Completes (exec (.updNop die lane f) s) s fun m' =>
        (∀ x, m'.byteAt x = if a ≤ x ∧ x < a + 4 then BitVec.ofNat 8 (v.toNat / 2 ^ (8 * (x - a))) else s.mach.byteAt x) ∧
        Tab.get none (m'.getUpd die).lanes lane = none)

/-- R313, R318, R297, R294: the update phase done, the participant votes READY 1 once; a die whose full log holds an element asks for a point of no return
once; the matrix unit starts the queued computation of the earliest trigger step, lowest PRECOND first, and ends it with its result
standing with the preconditioner. -/
def Obligations.UpdatePhaseAndRoots : Prop :=
  (∀ (s : State) (slot : Nat) (j : Job), s.mach.job? slot = some j → j.updates = true →
    s.mach.dieDone slot j 0 = true → s.mach.dieDone slot j 1 = true → j.carriedNow = [] →
    Completes (exec (.updatePhaseDone slot) s) s fun m' =>
      ∃ j', m'.job? slot = some j' ∧ j'.state = .voted ∧ j'.part.voteSent = true ∧ j'.part.readyEver = true ∧
        ∃ p : Packet, (m'.getRte 0).held = (s.mach.getRte 0).held ++ [{ pkt := p, input := 15 }] ∧ p.op = 0x30 ∧
          p.dst = j.coordModule * 8192 + 0x910 ∧ p.data = commitMsg 3 j.attempt.toNat j.id 1 0 0 j.step.toNat 0 0) ∧
  (∀ (s : State) (die slot : Nat) (j : Job), s.mach.job? slot = some j → j.updates = true → s.mach.diePaused die slot = true →
    j.part.granted = false →
    (j.part.pnrAsked = false →
      Completes (exec (.undoLogFull die slot) s) s fun m' =>
        (∃ j', m'.job? slot = some j' ∧ j'.part.pnrAsked = true) ∧
        ∃ p : Packet, (m'.getRte 0).held = (s.mach.getRte 0).held ++ [{ pkt := p, input := 15 }] ∧
          p.data = commitMsg 8 j.attempt.toNat j.id 0 0 0 j.step.toNat 0 0) ∧
    (j.part.pnrAsked = true → Completes (exec (.undoLogFull die slot) s) s fun m' => m' = s.mach)) ∧
  (∀ (s : State) (die : Nat) (r : RootJob), let u := s.mach.getUpd die
    s.mach.takesWork tyUpd die = true → u.rootRunning = none → r ∈ u.rootQueue →
    (∀ x ∈ u.rootQueue, x = r ∨ r.step.toNat < x.step.toNat ∨ (r.step = x.step ∧ r.precond < x.precond)) →
    Completes (exec (.rootComputeStart die) s) s fun m' =>
      m'.getUpd die = { u with rootRunning := some r, rootQueue := u.rootQueue.erase r } ∧ m' = { s.mach with upd := m'.upd }) ∧
  (∀ (s : State) (die : Nat) (r : RootJob) (j : Job) (n : BitVec 64) (a : List (BitVec 64)), let u := s.mach.getUpd die
    u.rootRunning = some r → s.mach.job? r.slot = some j → (Tab.get {} j.preconds r.precond).snapshot = some (n, a) →
    (∀ slot j', s.mach.job? slot = some j' → j'.part.commit = none) →
    let c := (rootCompute (s.mach.precondDesc j r.precond) (a.map (·.toNat)).toArray).run {}
    Completes (exec (.rootComputeDone die) s) s fun m' =>
      m'.getUpd die = { u with rootRunning := none, roots := u.roots + 1 } ∧
      (∃ j', m'.job? r.slot = some j' ∧ (Tab.get {} j'.preconds r.precond).residual = BitVec.ofNat 64 c.1.2 ∧
        (Tab.get {} j'.preconds r.precond).result =
          some (c.1.1.map fun x => x.toList.map (BitVec.ofNat 64), BitVec.ofNat 64 c.1.2)) ∧
      m' = { s.mach.withReports m' with upd := m'.upd, cmt := m'.cmt })

/-! ## Steps and commit -/

/-- R309, R313, R314, R318: what the coordinator sends on the messages of its participants, before its decision. REDUCED: CLOSED to
every participant once every REDUCED is there and the sums agree. VOTE with READY 1: COMMIT and all carried commands once every vote
is ready and its carried
commands have come; READY 0: ABORT. PNR_REQUEST: PNR_QUERY; PNR_ANSWER: PNR_GRANT once every answer is ready, ABORT where one is not. -/
def Obligations.CoordinatorMessages : Prop :=
  ∀ (s : State) (p : Packet) (slot : Nat) (j : Job) (c : CommitMsg),
    let x := j.coord
    let msg (kind ready reason carried : Nat) : List Byte := commitMsg kind j.attempt.toNat j.id ready reason carried j.step.toNat 0 0
    let abort (reason : Nat) : List (Nat × List Byte) :=
      j.everyone (commitMsg 5 x.attempt.toNat j.id 0 (if x.granted then 22 else reason) 0 x.step.toNat 0 0)
    let commits (vs : List (Option (Bool × Nat × Nat) × List (List Byte))) : Bool := x.closedSent && vs.all fun v => match v.1 with
      | some (true, _, n) => v.2.length == n
      | _ => false
    let commit (vs : List (Option (Bool × Nat × Nat) × List (List Byte))) : List (Nat × List Byte) :=
      let cs := vs.flatMap (·.2)
      j.everyone (msg 4 0 0 cs.length) ++ j.participants.flatMap fun d => cs.map fun b => (d, msg 13 0 0 0 ++ b)
    let goes (o : Host.Outcome State Fault Refusal) (said : List (Nat × List Byte)) (P : CoordSt → Prop) : Prop :=
      Completes o s fun m' =>
        Said s.mach m' j said ∧ JobOnly s.mach m' slot p ∧ ∃ j', m'.job? slot = some j' ∧ P j'.coord
    j.coordModule = s.mach.self → x.names c = true → x.commitSent = false → x.abortSent = false →
    (s.mach.hears p 1 slot j c →
      let rs := x.peers.map fun y => if y.module = c.source then some (c.sent, c.applied) else y.reduced
      let closes : Bool := !x.closedSent && rs.all (·.isSome) &&
        (rs.map fun r => (r.getD (0, 0)).1).sum == (rs.map fun r => (r.getD (0, 0)).2).sum
      goes (exec (.reduced p) s) (if closes then j.everyone (msg 2 0 0 0) else []) fun x' =>
        x'.peers.map (·.reduced) = rs ∧ x'.closedSent = (x.closedSent || closes) ∧ x'.live = true) ∧
    (s.mach.hears p 3 slot j c → c.ready = true →
      let vs := x.peers.map fun y => (if y.module = c.source then some (true, c.reason, c.carried) else y.vote, y.carried)
      goes (exec (.vote p) s) (if commits vs then commit vs else []) fun x' =>
        x'.peers.map (fun y => (y.vote, y.carried)) = vs ∧ x'.commitSent = commits vs) ∧
    (s.mach.hears p 13 slot j c →
      let vs := x.peers.map fun y => (y.vote, if y.module = c.source then y.carried ++ [c.command] else y.carried)
      goes (exec (.carry p) s) (if commits vs then commit vs else []) fun x' =>
        x'.peers.map (fun y => (y.vote, y.carried)) = vs ∧ x'.commitSent = commits vs) ∧
    (s.mach.hears p 3 slot j c → c.ready = false →
      goes (exec (.vote p) s) (abort c.reason) fun x' => x'.abortSent = true) ∧
    (s.mach.hears p 8 slot j c → x.granted = false → x.pnrAsked = false →
      goes (exec (.pnrRequest p) s) (j.everyone (msg 9 0 0 0)) fun x' => x'.pnrAsked = true) ∧
    (s.mach.hears p 8 slot j c → x.granted = true →
      goes (exec (.pnrRequest p) s) [(c.source, msg 11 0 0 0)] fun x' => x'.granted = true) ∧
    (s.mach.hears p 10 slot j c → x.granted = false → c.ready = false →
      goes (exec (.pnrAnswer p) s) (abort c.reason) fun x' => x'.abortSent = true) ∧
    (s.mach.hears p 10 slot j c → x.granted = false → c.ready = true →
      let as := x.peers.map fun y => if y.module = c.source then some true else y.pnr
      let grants : Bool := as.all (· == some true)
      goes (exec (.pnrAnswer p) s) (if grants then j.everyone (msg 11 0 0 0) else []) fun x' =>
        x'.peers.map (·.pnr) = as ∧ x'.granted = grants)

/-- R315, R317, R318, R319, R454: a participant answers PNR_QUERY with READY 1 where it has found no abort condition so far; a
PNR_GRANT lifts its logging and is counted; ALIVE notes that its sender is heard, and the coordinator's that the step is live; CARRY adds its command to the COMMIT
it belongs to; a READY 0 vote for an attempt that is not the one the coordinator decides on is counted as stale. -/
def Obligations.ParticipantMessages : Prop :=
  ∀ (s : State) (p : Packet) (slot : Nat) (j : Job) (c : CommitMsg),
    let peers (g : PeerSt → PeerSt) : List PeerSt := j.coord.peers.map fun y =>
      if y.module = c.source then g { y with heard := s.mach.now } else y
    let part : PartSt := if c.source = j.coordModule then { j.part with heard := s.mach.now } else j.part
    (s.mach.hears p 9 slot j c → j.names c = true → j.part.aborting = false →
      Completes (exec (.pnrQuery p) s) s fun m' => JobOnly s.mach m' slot p ∧
        Said s.mach m' j [(j.coordModule, commitMsg 10 j.attempt.toNat j.id (if j.condition = 0 then 1 else 0) j.condition 0
          j.step.toNat 0 0)]) ∧
    (s.mach.hears p 11 slot j c → j.names c = true → j.part.aborting = false → j.part.granted = false →
      (∀ die, (s.mach.getUpd die).lanes = []) →
      Completes (exec (.pnrGrant p) s) s fun m' =>
        m'.job? slot = some { j with coord := { j.coord with peers := peers id }, part := { part with granted := true },
                                     pnr := j.pnr + 1, runGranted := true,
                                     state := if j.state = .updating then .pastPnr else j.state } ∧
        m'.getHdr (hdrKey tyCmt 0) = (s.mach.getHdr (hdrKey tyCmt 0)).occur 2 1 ∧
        m' = { s.mach.withReports m' with arrived := m'.arrived, cmt := m'.cmt }) ∧
    (s.mach.hears p 12 slot j c →
      let coordinators := c.source = j.coordModule ∧ j.names c = true ∧ j.state ≠ .halted
      Completes (exec (.alive p) s) s fun m' => JobOnly s.mach m' slot p ∧ Said s.mach m' j [] ∧
        m'.job? slot = some { j with coord := { j.coord with peers := peers id },
                                     part := if coordinators then { part with live := true } else part }) ∧
    (s.mach.hears p 13 slot j c → (j.coordModule ≠ s.mach.self ∨ j.coord.commitSent = true) → j.names c = true →
      j.part.applied = false → j.part.aborting = false → (∀ n, j.part.commit = some n → j.part.carriedIn.length + 1 < n) →
      Completes (exec (.carry p) s) s fun m' => JobOnly s.mach m' slot p ∧ Said s.mach m' j [] ∧
        m'.job? slot = some { j with coord := { j.coord with peers := peers id },
                                     part := { part with carriedIn := j.part.carriedIn ++ [c.command] } }) ∧
    (s.mach.hears p 3 slot j c → j.coordModule = s.mach.self → c.ready = false →
      (j.coord.names c = false ∨ j.coord.commitSent = true ∨ j.coord.abortSent = true) →
      Completes (exec (.vote p) s) s fun m' => m'.flt.stale = s.mach.flt.stale + 1 ∧ Said s.mach m' j [] ∧
        m'.job? slot = some { j with coord := { j.coord with peers := peers id }, part := part })

/-- R303, R313, R316, R286, R288: what a step's end brings at a participant. CLOSED begins the update phase: of dense groups without
curves the scalars are 0 and the exponents those of their reductions. COMMIT whose carried commands have not all come waits; otherwise, on
a module that holds no rows, no dense shares, no sketch and no preconditioner of the job, the apply moves positions, amax codes and the step
number, and ends the logs and sites. APPLY_DONE sends DONE once.
Choices of the model that show in it: log 77 and 173. -/
def Obligations.StepEnds : Prop :=
  ∀ (s : State) (p : Packet) (slot : Nat) (j : Job) (c : CommitMsg),
    let n := (s.mach.jobHdr j).groups
    (s.mach.hears p 2 slot j c → j.names c = true → j.part.closed = false → j.part.aborting = false →
      j.part.updating = false → j.part.voteSent = false → s.mach.granErr = [] → (∀ x ∈ j.placed, x.kind ≠ 2) →
      (∀ g, g < n → (s.mach.groupDesc j g).curveMask = 0 ∧ (s.mach.groupDesc j g).kind = 0) →
      Completes (exec (.closed p) s) s fun m' => ∃ j', m'.job? slot = some j' ∧
        j'.state = (if j.part.granted then .pastPnr else .updating) ∧ j'.part.closed = true ∧ j'.part.updating = true ∧
        (∀ g, g < n → (Tab.get {} j'.groups g).scalars = List.replicate 8 0 ∧
          (Tab.get {} j'.groups g).exp = (s.mach.reduceDesc j (s.mach.groupDesc j g).reduce).exp ∧
          (Tab.get {} j'.groups g).position = (Tab.get {} j.groups g).position) ∧
        (∀ d, d < 2 → m'.getUpd d = if s.mach.takesWork tyUpd d then { s.mach.getUpd d with state := 1, step := j.step }
          else s.mach.getUpd d) ∧ ∀ x, m'.byteAt x = s.mach.byteAt x) ∧
    (s.mach.hears p 4 slot j c → j.names c = true → j.part.commit = none → j.part.aborting = false → j.part.applied = false →
      (j.part.carriedIn.length < c.carried →
        Completes (exec (.stepCommit p) s) s fun m' => JobOnly s.mach m' slot p ∧ ∃ j', m'.job? slot = some j' ∧
          j'.state = .applying ∧ j'.part.commit = some c.carried ∧ j'.step = j.step) ∧
      (c.carried = 0 → j.part.carriedIn = [] → j.placed = [] → j.deltas = [] → j.raised = [] → j.flipRows = [] →
        j.carried = [] → j.participants.length = 1 → s.mach.sketchTables j (s.mach.tableSlots j) = [] →
        Completes (exec (.stepCommit p) s) s fun m' =>
          m'.cmt.commits = s.mach.cmt.commits + 1 ∧ (s.mach.untraced → ∀ x, m'.byteAt x = s.mach.byteAt x) ∧
          ∃ j', m'.job? slot = some j' ∧ j'.step = j.step + 1 ∧ j'.commits = j.commits + 1 ∧ j'.part.applied = true ∧
            j'.logLive = j.logStaged ∧ j'.undo0 = [] ∧ j'.undo1 = [] ∧ j'.sites = [] ∧
            ∀ g, g < n → let x := Tab.get {} j.groups g
              Tab.get {} j'.groups g =
                { x with position := if x.updated.isEmpty then x.position else x.position + 1, amax := x.pending, pending := 0,
                         elements := x.updated, updated := [] })) ∧
    (s.mach.job? slot = some j → j.part.applied = true → j.part.refresh = [] → j.part.doneSent = false →
      Completes (exec (.applyDone slot) s) s fun m' =>
        Said s.mach m' j [(j.coordModule, commitMsg 6 j.attempt.toNat j.id (b2n j.stopAsked)
          (if j.part.halt = 0 then (if j.noFit then 15 else 0) else 16 + j.part.halt) 0 (j.step - 1).toNat 0 0)] ∧
        (∃ j', m'.job? slot = some j' ∧ j'.part.doneSent = true ∧
          j'.state = if j.monuments.any fun o => o.step + 1 == j.step then .capturing else j.state) ∧
        let other : Bool := (List.range 64).any fun k => k != slot && ((s.mach.job? k).map (·.updates)).getD false
        ∀ d, d < 2 → m'.getUpd d = { s.mach.getUpd d with state := if other then 1 else 0 }) ∧
    (s.mach.job? slot = some j → j.part.applied = true → j.part.doneSent = true →
      Completes (exec (.applyDone slot) s) s fun m' => m' = s.mach)

/-- R304, R313, R325, R428: DONE at the coordinator is noted; once the last participant has sent it, START of the next step goes to
every participant, or START of the next attempt after an abort. START begins the step at a participant.
Choices of the model that show in it: log 79. -/
def Obligations.DoneAndStart : Prop :=
  ∀ (s : State) (p : Packet) (slot : Nat) (j : Job) (c : CommitMsg),
    let x := j.coord
    let now := s.mach.now
    let last := x.peers.all fun y => y.module == c.source || y.done
    (s.mach.hears p 6 slot j c → c.carried = 0 → c.reason = 0 → c.ready = false → j.coordModule = s.mach.self → x.names c = true →
      (last = false →
        Completes (exec (.stepDone p) s) s fun m' => JobOnly s.mach m' slot p ∧ Said s.mach m' j [] ∧
          ∃ j', m'.job? slot = some j' ∧
            j'.coord.peers.map (fun y => (y.module, y.done)) = x.peers.map fun y => (y.module, y.module == c.source || y.done)) ∧
      (last = true → x.halt = 0 → j.noFit = false → j.stopAsked = false → j.state ≠ .halted →
        let begins (step : BitVec 64) (attempt : BitVec 2) : Prop :=
          Completes (exec (.stepDone p) s) s fun m' => JobOnly s.mach m' slot p ∧
            Said s.mach m' j (j.everyone (commitMsg 7 attempt.toNat j.id 0 0 0 step.toNat 0 0)) ∧
            ∃ j', m'.job? slot = some j' ∧ j'.coord.step = step ∧ j'.coord.attempt = attempt ∧
              j'.coord.peers.map (·.module) = j.participants ∧ ∀ y ∈ j'.coord.peers, y.done = false ∧ y.reduced = none ∧ y.vote = none
        (x.abortSent = true → x.attempt ≠ 2 → begins x.step (x.attempt + 1)) ∧
        (x.abortSent = false → x.commitSent = true → (∀ o ∈ j.monuments, o.step ≠ x.step) → j.part.monumentDone = false →
          j.stepsLeft ≠ some 0 → begins (x.step + 1) 0))) ∧
    (s.mach.hears p 7 slot j c → j.state ≠ .halted → j.run ≠ none → c.source = j.coordModule → j.badBlocks.contains c.step = false →
      Completes (exec (.stepStart p) s) s fun m' => ∃ j', m'.job? slot = some j' ∧
        j'.state = .running ∧ j'.step = BitVec.ofNat 64 c.step ∧ j'.attempt = BitVec.ofNat 2 c.attempt ∧
        j'.tag = some (stepTag c.step c.attempt) ∧ j'.phase = 0 ∧ j'.phaseBegun = false ∧ j'.sent = 0 ∧ j'.applied = 0 ∧
        j'.undo0 = [] ∧ j'.undo1 = [] ∧ j'.sites = [] ∧ j'.part.closed = false ∧ j'.part.voteSent = false ∧ j'.part.doneSent = false ∧
        j'.part.commit = none ∧ j'.part.heard = now ∧
        j'.replays = (if c.attempt = 0 then j.replays else j.replays + 1) ∧
        (m'.getCtx j.ctx).state = (if (s.mach.getCtx j.ctx).state = .active then .running else (s.mach.getCtx j.ctx).state))

/-- R322, R325, R321: ABORT stops the attempt at a participant: its logs end, its reason shows, the abort is counted; with the
rollback complete the participant sends DONE, and halts where the abort carries a halt code or was that of attempt 2.
Choices of the model that show in it: log 79 and 172. -/
def Obligations.AbortAndItsDone : Prop :=
  ∀ (s : State) (p : Packet) (slot : Nat) (j : Job) (c : CommitMsg),
    (s.mach.hears p 5 slot j c → j.names c = true → j.part.aborting = false → j.state ≠ .halted →
      Completes (exec (.stepAbort p) s) s fun m' => m'.cmt.aborts = s.mach.cmt.aborts + 1 ∧ ∃ j', m'.job? slot = some j' ∧
        j'.state = .aborting ∧ j'.abort = BitVec.ofNat 8 c.reason ∧ j'.part.aborting = true ∧ j'.part.abortReason = c.reason ∧
        j'.part.commit = none ∧ j'.undo0 = [] ∧ j'.undo1 = [] ∧ j'.sites = [] ∧ j'.sent = 0 ∧ j'.applied = 0 ∧
        j'.step = j.step ∧ j'.attempt = j.attempt ∧ ∀ die lane l, Tab.get none (m'.getUpd die).lanes lane = some l → die < 2 → l.slot ≠ slot) ∧
    (s.mach.job? slot = some j → j.part.aborting = true → j.part.rolledBack = true → j.part.doneSent = false →
      j.part.refresh = [] → j.part.abortReason ≠ 2 →
      let h := j.haltAfter
      let done := commitMsg 6 j.attempt.toNat j.id (b2n j.stopAsked) (if h = 0 then 0 else 16 + h) 0 j.step.toNat
        (b2n j.part.rollbackBad) 0
      Completes (exec (.abortDone slot) s) s fun m' => Said s.mach m' j [(j.coordModule, done)] ∧
        ∃ j', m'.job? slot = some j' ∧ j'.part.doneSent = true ∧
          (h = 0 → j'.state = j.state ∧ m'.cmt.halts = s.mach.cmt.halts) ∧
          (h ≠ 0 → j.state ≠ .halted → j'.state = .halted ∧ j'.halt = BitVec.ofNat 8 h ∧
            j'.inconsistent = (j.inconsistent || h == 6 || j.part.rollbackBad) ∧ m'.cmt.halts = s.mach.cmt.halts + 1 ∧
            (m'.getCtx j.ctx).state = .stopped))

/-- R311: rolling a die's log back gives every logged granule its old contents again, and changes no other byte of memory. -/
def Obligations.RollbackRestoresLoggedGranules : Prop :=
  ∀ (m : Mach) (j : Job) (die n : Nat) (addr : Nat → Nat),
    m.granErr = [] → m.memWf →
    (∀ i, i < n → m.peekNat (j.logAt die + 80 * i) 6 = addr i ∧
      (addr i + 64 ≤ j.logAt die ∨ j.logAt die + 80 * n ≤ addr i)) →
    (∀ i k, i < k → k < n → addr i + 64 ≤ addr k ∨ addr k + 64 ≤ addr i) →
    let r := m.rollDie j die n (m, false)
    r.2 = false ∧
    (∀ i k, i < n → k < 64 → r.1.byteAt (addr i + k) = m.byteAt (j.logAt die + 80 * i + 16 + k)) ∧
    ∀ a, (∀ i, i < n → a < addr i ∨ addr i + 64 ≤ a) → r.1.byteAt a = m.byteAt a

/-- R317, R320, R329, R451, R453: the timeouts of a live step, the closure watchdog, and the monument part of a
job that has only its undo-log sizes on this module, written where it has room.
Choices of the model that show in it: log 43, 87, 113 and 174. -/
def Obligations.TimeoutsAndMonumentParts : Prop :=
  ∀ (s : State) (slot : Nat) (j : Job), s.mach.job? slot = some j →
    let m := s.mach
    let x := j.coord
    let now := m.now
    let T := m.timeoutNs
    let halts (o : Host.Outcome State Fault Refusal) (code : Nat) : Prop :=
      Completes o s fun m' => m'.cmt.halts = m.cmt.halts + 1 ∧ (m'.getCtx j.ctx).state = .stopped ∧ ∃ j', m'.job? slot = some j' ∧
        j'.state = .halted ∧ j'.halt = BitVec.ofNat 8 code ∧ j'.inconsistent = true ∧ j'.run = none
    let aborts (o : Host.Outcome State Fault Refusal) (reason : Nat) : Prop :=
      Completes o s fun m' =>
        Said m m' j (j.everyone (commitMsg 5 x.attempt.toNat j.id 0 (if x.granted then 22 else reason) 0 x.step.toNat 0 0)) ∧
        ∃ j', m'.job? slot = some j' ∧ j'.coord.abortSent = true
    (m.live j = true → j.part.told + T / 4 ≤ now →
      Completes (exec (.aliveDue slot j.coordModule) s) s fun m' =>
        Said m m' j [(j.coordModule, commitMsg 12 j.attempt.toNat j.id 0 0 0 j.step.toNat 0 0)] ∧
        ∃ j', m'.job? slot = some j' ∧ j'.part.told = now) ∧
    (j.coordModule = m.self → x.live = true → x.commitSent = false → x.abortSent = false → (∃ y ∈ x.peers, y.heard + T ≤ now) →
      aborts (exec (.peerSilent slot) s) 6) ∧
    (j.coordModule = m.self → x.closedSent = false → x.abortSent = false → x.commitSent = false →
      (∀ y ∈ x.peers, y.reduced ≠ none) → x.appliedAt + T ≤ now → aborts (exec (.reduceLost slot) s) 7) ∧
    (j.coordModule = m.self → x.live = true → x.commitSent = true → (∃ y ∈ x.peers, y.heard + 2 * T ≤ now) → j.state ≠ .halted →
      halts (exec (.peerLost slot) s) (if x.granted then 6 else 8)) ∧
    (j.part.live = true → j.state ≠ .halted → j.tag ≠ none → j.part.heard + 2 * T ≤ now →
      halts (exec (.coordinatorLost slot) s) (if j.part.granted then 6 else 7)) ∧
    (j.state = .running → j.phaseBegun = true → j.waitingSince = none → (m.getCtx j.ctx).state ≠ .stopped → j.watchdogNs ≤ now →
      j.watchdogAt ≤ now - j.watchdogNs → m.watchedWait slot j (now - j.watchdogNs) = true → j.part.voteSent = false →
      Completes (exec (.closureWatchdog slot) s) s fun m' =>
        m'.flt.watchdogs = m.flt.watchdogs + 1 ∧
        Said m m' j [(j.coordModule, commitMsg 3 j.attempt.toNat j.id 0 5 0 j.step.toNat 0 0)] ∧
        ∃ j', m'.job? slot = some j' ∧ j'.condition = 5 ∧ j'.part.voteSent = true) ∧
    (∀ o : MonOrder, m.granErr = [] → m.memWf → j.state = .capturing → j.monuments = [o] → o.step + 1 = j.step →
      j.part.monumentDone = false → j.part.doneSent = true → j.part.captureGo = true → j.placed = [] → j.replicas = [] →
      (m.jobHdr j).groups = 0 → j.reduceCount = 0 →
      let part := partBytes j.id (j.participants.findIdx (· == m.self)) j.participants.length j.step.toNat j.digest
        [{ kind := 7, body := [] }, { kind := 8, id := tyCmt, count := 1, body := leBytes 4 j.logLive.toNat ++ leBytes 4 j.logStaged.toNat }]
      let a := (m.getDom j.domain).hostAt + o.dest
      Completes (exec (.monumentWritten slot) s) s fun m' =>
        (part.length ≤ o.bytes →
          (∀ b, m'.byteAt b = if a ≤ b ∧ b < a + part.length then part.getD (b - a) 0 else m.byteAt b) ∧
          m'.cmt.monuments = m.cmt.monuments + 1) ∧
        (o.bytes < part.length → (∀ b, m'.byteAt b = m.byteAt b) ∧ m'.cmt.monuments = m.cmt.monuments) ∧
        Said m m' j [(j.coordModule, commitMsg 6 j.attempt.toNat j.id 0 0 3 (j.step - 1).toNat 0 0)] ∧
        ∃ j', m'.job? slot = some j' ∧ j'.part.monumentDone = true ∧ j'.monuments = [] ∧ j'.state = .applying)

/-! ## Planner -/

/-- R187, R188, R344, R345: a drawn plat that the rules allow is the job's newest. PHASE_START at a boundary without a newer plat carries
the plat in force and tallies it; on a cluster of the plat it gives the engines the step and starts the core of the one first run there with
its registers, its program and its argument block; a boundary that a draw is forced at waits, and the phase does not begin; a newer plat
that the job may still hold is adopted first. CORE_PHASE_END ends the phase on a core that has no further run, once what the core ordered has completed.
Choices of the model that show in it: log 45, 92, 93, 98, 165 and 176. -/
def Obligations.PlatsAndPhases : Prop :=
  ∀ (s : State) (slot : Nat) (j : Job), s.mach.job? slot = some j →
    let m := s.mach
    let ctx := (m.getCtx j.ctx).state
    let rd := m.jobRd j
    let h := m.jobHdr j
    let ready : Prop := j.state = .running ∧ j.tag ≠ none ∧ j.part.aborting = false ∧ j.noFit = false ∧ j.image = none ∧ j.phase < h.phases ∧
      (ctx = .running ∨ ctx = .active ∨ ctx = .stopping) ∧ m.ctxHeld j.ctx = false
    let runs (m' : Mach) (b : Bind) : Prop :=
      let p := imgProg rd h b.program
      let c := m'.getCore (16 * b.cluster + b.slot)
      c.run = .running ∧ c.pc = 0 ∧ c.ibuf = progWords rd p ∧ c.loops = [] ∧ c.bind.index = b.index ∧ c.bind.run = b.run ∧
      (∀ i, i < 32 → c.sreg i = if i = 1 then BitVec.ofNat 64 b.index else if i = 2 then j.step else
        if i = 3 then BitVec.ofNat 64 p.argBytes else 0) ∧
      (∀ i, i < 8 → c.pred i = (i == 0)) ∧
      (m.untraced → m.memWf → m.granErr = [] → ∀ i, i < 2 ^ 15 → m'.storeByte (16 * b.cluster + b.slot) i =
        if i < p.argBytes then m.byteAt (j.imageAt + p.args + b.index * p.argBytes + i) else 0)
    (∀ p : Plat, m.platOk j p = true →
      Completes (exec (.platDrawn slot p) s) s fun m' =>
        m'.pln.draws = m.pln.draws + 1 ∧ m'.pln.drawMax = BitVec.ofNat 32 (max m.pln.drawMax.toNat p.drawNs) ∧
        m'.job? slot = some { j with newest := some p, newestAt := m.now, newestFrozen := j.frozen } ∧
        m' = { m with pln := m'.pln, cmt := m'.cmt }) ∧
    (∀ (k : Nat) (b : Bind) (p : Plat), ready → m.granErr = [] → m.coresTake j k = true → k < 640 → j.plat = some p → k ∈ p.clusters → j.bound.contains k = false →
      (m.phaseBinds j k).filter (fun x => x.run == 0) = [b] → b.slot < 16 → (imgProg rd h b.program).argBytes ≤ 2 ^ 15 →
      (j.phaseBegun = true ∨ (j.forcedNow = 0 ∧ (j.newest = none ∨ j.frozen = true) ∧ m.skipsPhase j j.phase = false)) →
      Completes (exec (.phaseStart slot k) s) s fun m' => runs m' b ∧
        (m'.getTrv k).step = j.step ∧ (m'.getGth k).step = j.step ∧ (m'.getSpr k).spread = p.spread.getD j.phase [] ∧
        m'.getHdr (hdrKey tyPln 0) =
          if j.phaseBegun then m.getHdr (hdrKey tyPln 0) else (m.getHdr (hdrKey tyPln 0)).occur 0 1) ∧
    (∀ k, ready → j.phaseBegun = false → j.forcedNow ≠ 0 → j.newest = none → j.waitingSince = none → m.jobFits j = true →
      Completes (exec (.phaseStart slot k) s) s fun m' =>
        m'.job? slot = some { j with forced := j.forcedNow, waitingSince := some m.now } ∧ m'.cores = m.cores ∧
        m'.getHdr (hdrKey tyPln 0) = (m.getHdr (hdrKey tyPln 0)).occur 1 1) ∧
    (∀ (k : Nat) (p : Plat), ready → j.phaseBegun = false → j.newest = some p → p.moves = [] →
      (if j.forcedNow = 0 then j.frozen = false else p.reason = j.forcedNow) → m.platClustersOk j p = true →
      m.copiesFree slot p = true →
      Completes (exec (.phaseStart slot k) s) s fun m' =>
        m'.pln.adopted = m.pln.adopted + 1 ∧ (m'.getPlnDom j.domain).seq = (m.getPlnDom j.domain).seq + 1 ∧
        ∃ j', m'.job? slot = some j' ∧ j'.plat = some p ∧ j'.newest = none ∧ j'.waitingSince = none ∧ j'.placed = p.placed) ∧
    (∀ q, let c := m.getCore q
      c.bind.slot = slot → c.run = .halted → c.bind.ended = false → c.xfers = [] → c.held = [] → m.submissionsDone q j.step = true →
      j.phaseBegun = true → j.bound.contains (q / 16) = true →
      (∀ b, ((m.phaseBinds j (q / 16)).find? fun b => b.slot == q % 16 && b.run == c.bind.run + 1) = some b → b.cluster = q / 16 →
        (imgProg rd h b.program).argBytes ≤ 2 ^ 15 → q < 10240 → m.takesWork tyCor q = true →
        Completes (exec (.corePhaseEnd q) s) s fun m' => runs m' b) ∧
      (((m.phaseBinds j (q / 16)).find? fun b => b.slot == q % 16 && b.run == c.bind.run + 1) = none →
        Completes (exec (.corePhaseEnd q) s) s fun m' =>
          m'.getCore q = { c with bind := { c.bind with ended := true }, since := m.now } ∧
          (∀ r, r ≠ q → m'.getCore r = m.getCore r) ∧
          (m.untraced → (∃ k b p, j.plat = some p ∧ k ∈ p.clusters ∧ b ∈ m.phaseBinds j k ∧ 16 * k + b.slot ≠ q ∧
            (m.getCore (16 * k + b.slot)).bind.ended = false) → m'.job? slot = some j)))

/-! ## Fabric -/

/-- R396, R401, R407, R386, R387, R391, R403: a router sends or delivers the packet that an output takes next: one of those the output is the choice of,
control packets first. A delivered packet of another class stands at its endpoint; on a hop the packet takes DOWN where the hop is a down
hop, and enters the replay buffer of a link port under the next link sequence number, after a control frame where 21 packet frames have
gone since the last, or waits unframed where the buffer is full, or enters the next router of the ring; a packet with no route is discarded
and tallied. Where no add of the module is stalled.
Choices of the model that show in it: log 18, 19 and 154. -/
def Obligations.Routing : Prop :=
  ∀ (s : State) (t o : Nat) (x : Held), t < 4 →
    let m := s.mach
    let r := m.getRte t
    let here (d : Decision) (h : Held) : Prop := h ∈ r.held ∧ m.decision t h.pkt = d
    let chosen (d : Decision) (h : Held) : Prop := here d h ∧ ((∃ y, here d y ∧ y.pkt.tc = 3) → h.pkt.tc = 3)
    (∀ h ∈ r.held, h.pkt.tc < 4 ∧ h.pkt.domain < 16) → (∀ k, Tab.get [] m.posted k = []) →
    (14 ≤ o → o ≤ 16 → here (.deliver o) x →
      Completes (exec (.packetRoute t o) s) s fun m' => ∃ h, chosen (.deliver o) h ∧
        (m'.getRte t).held = r.held.erase h ∧ (m'.getRte t).routed = r.routed + 1 ∧
        (h.pkt.tc ≠ 3 → m'.arrived = m.arrived ++ [{ target := h.pkt.dst % 8192, pkt := h.pkt }]) ∧ MemSame m m') ∧
    (∀ down : Bool, o < 14 → here (.hop o) x → down = decide ((r.ver x.pkt.epoch).rank.toNat < (m.hopRank t o x.pkt.epoch).toNat) →
      (∀ y, here (.hop o) y → y = x) →
      Completes (exec (.packetRoute t o) s) s fun m' =>
        (m'.getRte t).held = r.held.erase x ∧ (m'.getRte t).routed = r.routed + 1 ∧ m'.arrived = m.arrived ∧ MemSame m m' ∧
        let p := { x.pkt with down := x.pkt.down || down }
        (o < 12 → let l := m.getLnk (12 * t + o)
          let l' := m'.getLnk (12 * t + o)
          (l.sinceControl < 21 → l.replay.length < 2048 →
            l'.replay = l.replay ++ [{ seq := l.txSeq, content := .inl p, sentAt := m.now }] ∧ l'.txSeq = l.txSeq + 1 ∧
              l'.framesTx = l.framesTx + 1 ∧ l'.sinceControl = l.sinceControl + 1) ∧
          (21 ≤ l.sinceControl → l.replay.length < 2047 → ∃ c,
            l'.replay = l.replay ++ [{ seq := l.txSeq, content := .inr c, sentAt := m.now },
                                     { seq := l.txSeq + 1, content := .inl p, sentAt := m.now }] ∧
              l'.txSeq = l.txSeq + 1 + 1 ∧ l'.framesTx = l.framesTx + 1 + 1 ∧ l'.sinceControl = 1) ∧
          (2048 ≤ l.replay.length → l'.replay = l.replay ∧ l'.queue = l.queue ++ [x.pkt])) ∧
        (12 ≤ o → (m'.getRte (ringTo t o)).held = (m.getRte (ringTo t o)).held ++ [{ pkt := p, input := 25 - o }])) ∧
    (∀ ev, r.held = [x] → m.decision t x.pkt = .discard ev → (∀ v, (r.ver v).state ≠ .draining) →
      Completes (exec (.packetRoute t 17) s) s fun m' =>
        (m'.getRte t).held = [] ∧ (m'.getRte t).discarded = r.discarded + 1 ∧ m'.arrived = m.arrived ∧
        m'.getHdr (hdrKey tyRte t) = (m.getHdr (hdrKey tyRte t)).occur ev 1)

/-- R394: a duplicate filter accepts a SEQ that is at or above its floor and not recorded, whatever its order of arrival, refuses it when
it comes again, and moves its floor only past values it has accepted or passed over.
Choices of the model that show in it: log 22. -/
def Obligations.DuplicateFilter : Prop :=
  ∀ (f : DupFilter) (seq : BitVec 32), let d := (seq - f.floor).toNat
    ((f.take seq).2 = true ↔ d < 2 ^ 31 ∧ seq ∉ f.seen) ∧
    ((f.take seq).2 = true → ((f.take seq).1.take seq).2 = false) ∧
    ((f.take seq).2 = false → (f.take seq).1 = f) ∧
    ((f.take seq).2 = true → ∀ x : BitVec 32, x ∉ f.seen → x ≠ seq → (x - f.floor).toNat < 4096 → d < 4096 →
      ((f.take seq).1.take x).2 = true)

/-- R391, R374, R308, R167, R455: what the destination of a packet does. READ answers its data, WRITE writes and counts where it came from
elsewhere, ADD_ACKED and RED64_ADD add, at words of memory or at the site of a table row, whose values and count stand in the pool;
POSTED_WRITE writes, COUNT counts, responses end what waits for them, LINK_LOSS is an abort condition with reason 4, a control message that
is none of the commit unit's is kept for its unit; a packet of a tag that is not current is counted late and has no other effect. A packet
that names bytes without memory of this module behind them does nothing (the model's choice).
Choices of the model that show in it: log 16, 17, 24, 71, 91 and 154. -/
def Obligations.PacketEffects : Prop :=
  ∀ (s : State) (p : Packet) (t : Nat),
    let m := s.mach
    let ns := words8 p.data
    let gone (m' : Mach) : Prop := m'.arrived = m.arrived.erase { target := t, pkt := p }
    let noSums : Prop := ∀ j ∈ m.job? (m.slotOfPacket p), ∀ x ∈ j.placed, x.kind ≠ 1
    let added (m' : Mach) : Prop :=
      (∀ i, i < ns.length → m'.peekNat (p.addr + 8 * i) 8 = (m.peekNat (p.addr + 8 * i) 8 + ns.getD i 0) % 2 ^ 64) ∧
      ∀ b, (b < p.addr ∨ p.addr + 8 * ns.length ≤ b) → m'.byteAt b = m.byteAt b
    m.granErr = [] → m.memWf → m.untraced →
    (m.takes p 0x01 t → p.tc ≠ 3 → m.serves p = true →
      Completes (exec (.readReq p) s) s fun m' => gone m' ∧ MemSame m m' ∧ Sent m m' t fun q =>
        q.op = 0x10 ∧ q.tc = 1 ∧ q.dst = p.src ∧ q.arg = p.arg ∧ q.data = (List.range p.len).map fun i => m.byteAt (p.addr + i)) ∧
    (m.takes p 0x02 t → p.tc ≠ 3 → m.serves p = true →
      Completes (exec (.writeReq p) s) s fun m' => gone m' ∧ Written m m' p.addr p.data ∧
        (if m.clusterPresent t = true ∧ p.src ≠ m.station t then CounterRaised m m' t p.ctr 1 else ∀ k n, m'.counter k n = m.counter k n) ∧
        Sent m m' t fun q => q.op = 0x11 ∧ q.tc = 1 ∧ q.dst = p.src ∧ q.arg = p.arg ∧ q.data = []) ∧
    (m.takes p 0x03 t → p.tc ≠ 3 → m.serves p = true → noSums →
      Completes (exec (.addAcked p) s) s fun m' => gone m' ∧ added m' ∧ Sent m m' t fun q =>
        q.op = 0x11 ∧ q.tc = 1 ∧ q.dst = p.src ∧ q.arg = p.arg ∧ q.data = []) ∧
    (m.takes p 0x20 t → p.tc ≠ 3 → m.serves p = true →
      Completes (exec (.postedWrite p) s) s fun m' => gone m' ∧ Written m m' p.addr p.data) ∧
    (∀ c ∈ [(Instr.readReq p, 0x01), (.writeReq p, 0x02), (.addAcked p, 0x03), (.postedWrite p, 0x20), (.red64Add p, 0x21)],
      m.takes p c.2 t → m.serves p = false → Completes (exec c.1 s) s fun m' => m' = { m with arrived := m'.arrived } ∧ gone m') ∧
    (∀ slot j, m.takes p 0x21 t → p.tc ≠ 3 → m.serves p = true → m.slotOfJob p.job = some slot → m.job? slot = some j →
      (j.siteOf p.addr = none → noSums →
        Completes (exec (.red64Add p) s) s fun m' => gone m' ∧ added m' ∧
          ∃ j', m'.job? slot = some j' ∧ j'.applied = j.applied + 1 ∧ j'.sites = j.sites) ∧
      (∀ x row e y, j.siteOf p.addr = some (x, row, e) → noSums → y ∈ j.sites → y.table = x.table ∧ y.row = row ∧ y.shard = x.shard →
        (∀ z ∈ j.sites, z.table = x.table → z.row = row → z.shard = x.shard → z = y) →
        let a := x.siteAt y.index + 8 * e
        let cw := x.countAt y.index
        a + 8 * ns.length ≤ cw →
        Completes (exec (.red64Add p) s) s fun m' => gone m' ∧
          (∀ i, i < ns.length → m'.peekNat (a + 8 * i) 8 = (m.peekNat (a + 8 * i) 8 + ns.getD i 0) % 2 ^ 64) ∧
          m'.peekNat cw 8 = (m.peekNat cw 8 + p.arg) % 2 ^ 64 ∧
          (∀ b, (b < a ∨ a + 8 * ns.length ≤ b) → (b < cw ∨ cw + 8 ≤ b) → m'.byteAt b = m.byteAt b) ∧
          ∃ j', m'.job? slot = some j' ∧ j'.applied = j.applied + 1 ∧ j'.sites.map (·.index) = j.sites.map (·.index)) ∧
      (∀ x row e, j.siteOf p.addr = some (x, row, e) → noSums →
        (∀ z ∈ j.sites, ¬ (z.table = x.table ∧ z.row = row ∧ z.shard = x.shard)) →
        let n := (j.sites.filter fun z => z.table == x.table && z.shard == x.shard).length
        let a := x.siteAt n
        n < 2 ^ x.siteShift → 8 * (e + ns.length) ≤ x.siteBytes → p.arg ≤ 65536 →
        Completes (exec (.red64Add p) s) s fun m' => gone m' ∧
          (∀ i, 8 * i + 8 ≤ x.siteBytes →
            m'.peekNat (a + 8 * i) 8 = if e ≤ i ∧ i < e + ns.length then ns.getD (i - e) 0 else 0) ∧
          m'.peekNat (x.countAt n) 8 = p.arg ∧
          (∀ b, (b < a ∨ a + x.siteBytes ≤ b) → (b < x.countAt n ∨ x.countAt n + 8 ≤ b) → m'.byteAt b = m.byteAt b) ∧
          ∃ j', m'.job? slot = some j' ∧ j'.applied = j.applied + 1 ∧
            j'.sites = j.sites ++ [{ table := x.table, row := row, shard := x.shard, index := n }])) ∧
    (m.takes p 0x22 t → p.tc ≠ 3 → m.clusterPresent t = true →
      Completes (exec (.count p) s) s fun m' => gone m' ∧ CounterRaised m m' t p.ctr (BitVec.ofNat 32 p.arg) ∧ MemSame m m') ∧
    (∀ f : Fetch, m.takes p 0x10 t → p.tc ≠ 3 → (m.fetches.find? fun x => x.handle == p.arg && x.data.isNone) = some f →
      (∀ slot, f.owner ≠ .cmt slot) → (∀ k, f.owner ≠ .prefetch k) →
      Completes (exec (.readData p) s) s fun m' => gone m' ∧ MemSame m m' ∧
        m'.fetches = m.fetches.map fun x => if x.handle = f.handle then { x with data := some p.data, failed := p.ctr == 1 } else x) ∧
    (m.takes p 0x11 t → p.tc ≠ 3 → t < 640 → p.ctr ≠ 1 →
      Completes (exec (.writeAck p) s) s fun m' => gone m' ∧ MemSame m m' ∧
        (m'.getTrv t).work = (m.getTrv t).work.map (fun w => { w with writes := w.writes.erase p.arg }) ∧
        (m'.getGth t).work = (m.getGth t).work.map (fun w => { w with writes := w.writes.erase p.arg }) ∧
        (m'.getSpr t).work = (m.getSpr t).work.map fun w => { w with writes := w.writes.erase p.arg }) ∧
    (m.takes p 0x12 t →
      Completes (exec (.regData p) s) s fun m' =>
        m' = { m with arrived := m'.arrived, regOut := m.regOut.filter (fun r => r.1 != p.arg),
                      regIn := m.regIn ++ [(p.arg, leNat p.data)] } ∧ gone m') ∧
    (m.takes p 0x13 t →
      Completes (exec (.regAck p) s) s fun m' =>
        m' = { m with arrived := m'.arrived, regOut := m.regOut.filter fun r => r.1 != p.arg } ∧ gone m') ∧
    (∀ id tag slot j, m.takes p 0x31 t → p.tc = 3 → t = cmtUnit → lossPairs p.data = [(id, tag)] → tag.toNat % 4 ≠ 3 →
      m.slotOfJob id = some slot → m.job? slot = some j →
      (j.tag = some tag → (j.state = .running ∨ j.state = .reducing ∨ j.state = .updating ∨ j.state = .pastPnr) →
        j.part.voteSent = false →
        Completes (exec (.linkLoss p) s) s fun m' =>
          Said m m' j [(j.coordModule, commitMsg 3 j.attempt.toNat j.id 0 4 0 j.step.toNat 0 0)] ∧
          ∃ j', m'.job? slot = some j' ∧ j'.condition = 4) ∧
      (j.tag ≠ some tag → Completes (exec (.linkLoss p) s) s fun m' =>
        m'.flt.stale = m.flt.stale + 1 ∧ m'.job? slot = some j)) ∧
    ((m.arrived.find? fun a => a.pkt == p && p.op == 0x30) = some { target := t, pkt := p } → t ≠ cmtUnit →
      Completes (exec (.control p) s) s fun m' =>
        m' = { m with arrived := m'.arrived, inbox := m.inbox ++ [{ target := t, pkt := p }] } ∧ gone m') ∧
    ((m.arrived.find? fun a => a.pkt == p && p.op == 0x22) = some { target := t, pkt := p } → p.tc ≠ 3 → m.accepts p = false →
      Completes (exec (.count p) s) s fun m' => gone m' ∧ MemSame m m' ∧ m'.flt.late = m.flt.late + 1 ∧
        (∀ k n, m'.counter k n = m.counter k n) ∧ m'.getHdr (hdrKey tyFlt 0) = (m.getHdr (hdrKey tyFlt 0)).occur 3 1)

/-- R384, R385, R387, R388: a port takes a good frame in sequence, holds one that another lane has brought early, refuses a bad one by its
link sequence number and discards later ones until it comes again; it resends from the first unanswered frame on, 2 µs after that was last
sent, unless the episode's frame would need a ninth resend; it leaves the up state when its retry episode is spent, and comes up after six
steps of training on the widest aligned group of lanes, lowest first, that pass in both directions and are fenced at neither end. The
neighbour's identity counts from step 4 on.
Choices of the model that show in it: log 18 and 21. -/
def Obligations.LinkPorts : Prop :=
  ∀ (s : State) (port : Nat), port < 48 →
    let m := s.mach
    let l := m.getLnk port
    let held (m' : Mach) : List Held := (m'.getRte (port / 12)).held
    (∀ fr : Frame, l.state = .up →
      let d := (fr.seq - l.rxSeq).toNat
      let corrected := l.corrected + BitVec.ofNat 48 fr.corrected
      (∀ p, frameGood fr = true → fr.content = .inl p → fr.seq = l.rxSeq → l.refused = none ∨ l.refused = some fr.seq → l.early = [] →
        Completes (exec (.frameReceived port fr) s) s fun m' => held m' = held m ++ [{ pkt := p, input := port % 12 }] ∧
          m'.getLnk port = { l with corrected := corrected, framesRx := l.framesRx + 1, rxSeq := l.rxSeq + 1,
                                    refused := none, owedAck := some fr.seq }) ∧
      (frameGood fr = true → 0 < d → d < l.width.toNat → l.refused = none → l.early = [] →
        Completes (exec (.frameReceived port fr) s) s fun m' => held m' = held m ∧
          m'.getLnk port = { l with corrected := corrected, early := [fr] }) ∧
      (frameGood fr = false → d < 2048 → l.refused = none → l.early = [] →
        Completes (exec (.frameReceived port fr) s) s fun m' => held m' = held m ∧
          m'.getLnk port = { l with corrected := corrected, refused := some fr.seq, owedNack := some fr.seq } ∧
          m'.getHdr (hdrKey tyLnk port) = (m.getHdr (hdrKey tyLnk port)).occur 0 1) ∧
      (∀ r, frameGood fr = true → l.refused = some r → (r - l.rxSeq).toNat < d → d < 2048 →
        Completes (exec (.frameReceived port fr) s) s fun m' => held m' = held m ∧
          m'.getLnk port = { l with corrected := corrected }) ∧
      (∀ f rest n, frameGood fr = true → fr.content = .inr { ack := some f.seq, stamp := n } → fr.seq = l.rxSeq → l.refused = none →
        l.early = [] → l.replay = f :: rest → l.queue = [] → l.episode = none →
        Completes (exec (.frameReceived port fr) s) s fun m' => held m' = held m ∧ (m'.getLnk port).replay = rest ∧
          (m'.getLnk port).rxSeq = l.rxSeq + 1 ∧ (m'.getLnk port).echo = some (n, m.now))) ∧
    (∀ (young rest : List TxFrame) f, l.state = .up → l.replay = young ++ f :: rest → (∀ x ∈ young, m.now < x.sentAt + 2000) →
      (∀ x ∈ young, x.seq ≠ f.seq) → f.sentAt + 2000 ≤ m.now →
      let e := l.episode.getD (f.seq, m.now)
      let spent : Prop := ∃ x ∈ f :: rest, x.seq = e.1 ∧ 8 ≤ x.resends
      (¬ spent → Completes (exec (.frameAckTimeout port) s) s fun m' =>
        m'.getLnk port = { l with
          replay := young ++ (f :: rest).map (fun x => { x with resends := x.resends + 1, sentAt := m.now }),
          resends := l.resends + BitVec.ofNat 48 (rest.length + 1), framesTx := l.framesTx + BitVec.ofNat 48 (rest.length + 1),
          episode := some e }) ∧
      (spent → Completes (exec (.frameAckTimeout port) s) s fun m' => m'.getLnk port = { l with episode := some e, ninth := true })) ∧
    (∀ f t0, l.state = .up → l.episode = some (f, t0) → l.ninth = true ∨ t0 + 40000 ≤ m.now →
      Completes (exec (.retryExhausted port) s) s fun m' =>
        (m'.getLnk port).state = .retraining ∧ (m'.getLnk port).replay = [] ∧ (m'.getLnk port).queue = [] ∧
        (∀ x ∈ l.replay, ∀ p, x.content = .inl p → p.tc = 3 → ({ pkt := p, input := 16 } : Held) ∈ held m') ∧
        (∀ p ∈ l.queue, ({ pkt := p, input := 16 } : Held) ∈ held m') ∧
        (∀ x ∈ l.replay, ∀ p, x.content = .inl p → p.tc ≠ 3 → ∃ h ∈ held m', h.input = 16 ∧ h.pkt.op = 0x31 ∧ h.pkt.tc = 3 ∧
          h.pkt.dst = p.src / 8192 * 8192 + 0x910 ∧ h.pkt.data = leBytes 2 p.job ++ leBytes 2 p.tag.toNat)) ∧
    (∀ r : Training, l.state = .training ∨ l.state = .retraining →
      let ok (j : Nat) : Prop := r.passing.getLsbD j = true ∧ r.farFenced.getLsbD j = false ∧ m.laneFenced (8 * port + j) = false
      let group (w g : Nat) : Prop := (w = 8 ∨ w = 4 ∨ w = 2 ∨ w = 1) ∧ g % w = 0 ∧ g + w ≤ 8 ∧ ∀ i, i < w → ok (g + i)
      (∀ w g, 6 ≤ r.steps → group w g → (∀ w' g', group w' g' → w' < w ∨ (w' = w ∧ g ≤ g')) →
        Completes (exec (.portTrainingDone port r) s) s fun m' => let l' := m'.getLnk port
          l'.state = .up ∧ l'.width = BitVec.ofNat 4 w ∧ l'.group = BitVec.ofNat 3 g ∧ l'.passing = r.passing ∧ l'.remoteValid = true ∧
            l'.remoteModule = BitVec.ofNat 11 r.remoteModule ∧ l'.remotePort = BitVec.ofNat 6 r.remotePort ∧
            l'.rank0 = r.rank0 ∧ l'.rank1 = r.rank1) ∧
      ((r.steps < 6 ∨ ∀ j, j < 8 → ¬ ok j) →
        Completes (exec (.portTrainingDone port r) s) s fun m' => let l' := m'.getLnk port
          l'.state = .down ∧ l'.width = 0 ∧
            (if 4 ≤ r.steps then l'.remoteValid = true ∧ l'.remoteModule = BitVec.ofNat 11 r.remoteModule ∧
                l'.remotePort = BitVec.ofNat 6 r.remotePort ∧ l'.rank0 = r.rank0 ∧ l'.rank1 = r.rank1
             else l'.remoteValid = l.remoteValid ∧ l'.remoteModule = l.remoteModule ∧ l'.remotePort = l.remotePort ∧
                l'.rank0 = l.rank0 ∧ l'.rank1 = l.rank1) ∧
            (m'.getHdr (hdrKey tyLnk port)).event.getLsbD 3 = true))

/-- R402, R404, R409, R413: a drain marker counts for its virtual channel of the version that drains, an input's four make its markers, and one goes for nothing once the version is empty; the time base
steps only forward, to the nearest whole second at a PPS edge of a root that follows it; a missing edge is tallied.
Choices of the model that show in it: log 187. -/
def Obligations.EpochsAndTime : Prop :=
  ∀ (s : State) (t i v : Nat), let m := s.mach
    let r := m.getRte t
    let st := (r.ver (v % 2 == 1)).state
    (t < 4 → (i, v) ∈ r.inbox → st = .empty →
      Completes (exec (.drainMarker t i v) s) s fun m' =>
        m'.getRte t = { r with inbox := r.inbox.erase (i, v) } ∧ m' = { m with rte := m'.rte }) ∧
    (t < 4 → i < 14 → v < 8 → (i, v) ∈ r.inbox → st = .draining → (r.ver (v % 2 != 1)).state ≠ .draining →
      Completes (exec (.drainMarker t i v) s) s fun m' =>
        ((m'.getRte t).ver (v % 2 == 1)).state = .empty ∨
          (((m'.getRte t).ver (v % 2 == 1)).state = .draining ∧ (m'.getRte t).vcMarkers.getLsbD (4 * i + v / 2) = true ∧
            ((∀ c, c < 4 → c = v / 2 ∨ r.vcMarkers.getLsbD (4 * i + c) = true) → (m'.getRte t).markers.getLsbD i = true))) ∧
    (m.time.root = true → m.time.pps = true → m.now + 500000000 < 2 ^ 64 →
      Completes (exec .timePpsEdge s) s fun m' =>
        m'.now = max m.now ((m.now + 500000000) / 1000000000 * 1000000000) ∧ m' = { m with time := m'.time, pins := m'.pins }) ∧
    (m.time.root = true → m.time.pps = true → m.time.lastPps + 1500000000 ≤ m.now →
      Completes (exec .ppsMissing s) s fun m' => m'.getHdr (hdrKey tyRte 0) = (m.getHdr (hdrKey tyRte 0)).occur 7 1 ∧ m'.now = m.now)

/-! ## Registers -/

/-- R32, R33, R35, R37, R39, R50: a read by the management processor gives the value and changes nothing but where it goes: the header of
a present instance; STATUS 4 and zeros on a fenced one, but for the place, with INDEX 0xFF, and MODE 3 of a fenced channel; zero where there is no page or register, and for an access of another size or
alignment. A local host that does not reach a page reads zero, and REG_REFUSED is counted on its own page.
Choices of the model that show in it: log 141, 145 and 155. -/
def Obligations.RegisterReads : Prop :=
  ∀ (s : State) (ty inst : Nat), let m := s.mach
    let h := m.getHdr (hdrKey ty inst)
    let reads (p off x : Nat) : Prop :=
      Completes (exec (.regRead .mgmt (pageAddr ty p inst off) 4) s) s fun m' => m' = { m with lastRead := x }
    m.rst.inReset = false → ty < 256 → inst < 16384 →
    (pageExists ty inst 0 = true → m.instFenced ty inst = false →
      reads 0 0x000 (ty * 2 ^ 24 + inst) ∧ reads 0 0x018 h.event.toNat ∧ reads 0 0x01C h.mask.toNat ∧
      reads 0 0x014 (2 * b2n h.quiesced + b2n (m.blockActive ty inst)) ∧
      ∀ e, e < 8 → reads 0 (0x020 + 4 * e) (Tab.get 0 h.tallies e).toNat) ∧
    (pageExists ty inst 0 = true → m.instFenced ty inst = true →
      reads 0 0x000 (ty * 2 ^ 24 + inst) ∧ reads 0 0x014 4 ∧
      (ty = tyMem → reads 0 0x040 (0xFF00 + inst / 4 * 16 + inst / 32) ∧ reads 0 0x048 3) ∧
      ∀ off, off < 4096 → off % 4 = 0 → 0x010 ≤ off → off ≠ 0x014 → (ty = tyMem → off ≠ 0x040 ∧ off ≠ 0x048) → reads 0 off 0) ∧
    (∀ p off, p < 4 → off < 4096 → off % 4 = 0 → pageExists ty inst p = false → reads p off 0) ∧
    (∀ p off size, p < 4 → off < 4096 → (size = 4 ∨ size = 8 → off % size ≠ 0) →
      Completes (exec (.regRead .mgmt (pageAddr ty p inst off) size) s) s fun m' => m' = { m with lastRead := 0 }) ∧
    (∀ d off, d < 16 → off < 4096 → off % 4 = 0 → (m.getDom d).host = .localHost →
      (pageExists ty inst 0 = false ∨ (m.reaches d ty inst 0).1 = false) →
      Completes (exec (.regRead (.host d) (pageAddr ty 0 inst off) 4) s) s fun m' =>
        m'.lastRead = 0 ∧ m'.getHdr (hdrKey tyDom d) = (m.getHdr (hdrKey tyDom d)).occur 0 1 ∧
        m' = { m.withReports m' with lastRead := 0 })

/-- R36, R38, R40, R41, R46: writes of the header of a present instance. A write of EVENT clears the bits it names, and an event that occurs
at the same time stays set and counts; QUIESCE and ENABLE take their values; COMMIT of a page with no page-triggered group does
nothing; a block that holds no work any more is quiesced. Writes of read-only registers and of fenced or absent instances have no effect.
Choices of the model that show in it: log 142, 143 and 166. -/
def Obligations.HeaderWrites : Prop :=
  ∀ (s : State) (ty inst : Nat), let m := s.mach
    let key := hdrKey ty inst
    let h := m.getHdr key
    let there (h' : Hdr) (m' : Mach) : Prop :=
      m'.getHdr key = h' ∧ (∀ k, k ≠ key → m'.getHdr k = m.getHdr k) ∧ m' = { m with hdrs := m'.hdrs }
    m.rst.inReset = false → ty < 256 → inst < 16384 → 
    (pageExists ty inst 0 = true → m.instFenced ty inst = false →
      (∀ v : BitVec 32, Completes (exec (.registerWrite .mgmt (pageAddr ty 0 inst 0x018) 4 (v.setWidth 64)) s) s
        (there { h with event := h.event &&& ~~~(v.setWidth 8) })) ∧
      (∀ v : BitVec 32, Completes (exec (.registerWrite .mgmt (pageAddr ty 0 inst 0x01C) 4 (v.setWidth 64)) s) s
        (there { h with mask := v.setWidth 8 })) ∧
      (∀ (v : BitVec 32) e, e < 8 → Completes (exec (.registerWrite .mgmt (pageAddr ty 0 inst (0x020 + 4 * e)) 4 (v.setWidth 64)) s) s
        fun m' => m' = m) ∧
      (∀ bits during : BitVec 8, Completes (exec (.eventClear .mgmt ty inst bits during) s) s fun m' =>
        (∀ b, b < 8 → let now := during.getLsbD b && bitAt (eventBits ty) b
          (m'.getHdr key).event.getLsbD b = (h.event.getLsbD b && !bits.getLsbD b || now) ∧
          (Tab.get 0 (m'.getHdr key).tallies b).toNat = min 0xFFFFFFFF ((Tab.get 0 h.tallies b).toNat + b2n now)) ∧
        m' = m.withReports m') ∧
      (∀ on : Bool, canQuiesce ty = true → Completes (exec (.quiesce .mgmt ty inst on) s) s
        (there { h with quiesce := on, quiesced := h.quiesced && on })) ∧
      (∀ on : Bool, (h.quiesce = true → canQuiesce ty = true) → (h.quiesced = true → h.quiesce = true) →
        Completes (exec (.enable .mgmt ty inst on) s) s (there { h with enable := on }) ∧
        (ty ≠ tyPwr → Completes (exec (.ctrlCommit .mgmt ty inst) s) s (there h))) ∧
      (h.quiesce = true → m.blockActive ty inst = false →
        Completes (exec (.blockQuiesced ty inst) s) s (there { h with quiesced := true }))) ∧
    (∀ (off : Nat) (v : BitVec 64), off < 4096 → off % 4 = 0 → (pageExists ty inst 0 = false ∨ m.instFenced ty inst = true) →
      Completes (exec (.registerWrite .mgmt (pageAddr ty 0 inst off) 4 v) s) s fun m' => m' = m)

/-- R399, R402, R409, R413, R414, R388, R300, R336: the writes that act on routers, link ports and update dies, and those of the commit unit's
page 1 for a slot without a job, made by the management processor.
Arming a version has its rank announced by the ports that are up.
Choices of the model that show in it: log 143. -/
def Obligations.FabricRegisters : Prop :=
  ∀ (s : State) (t : Nat), let m := s.mach
    let r := m.getRte t
    let rteIs (r' : Rte) (m' : Mach) : Prop :=
      m'.getRte t = r' ∧ (∀ i, i ≠ t → m'.getRte i = m.getRte i) ∧ m' = { m with rte := m'.rte }
    let armed (r' : Rte) (m' : Mach) : Prop :=
      m'.getRte t = r' ∧ (∀ i, i ≠ t → m'.getRte i = m.getRte i) ∧ m' = { m with rte := m'.rte, lnk := m'.lnk } ∧
        ∀ port, m'.getLnk port = if port / 12 = t ∧ (m.getLnk port).state = .up then { m.getLnk port with owedRanks := true }
          else m.getLnk port
    let tallied (e : Nat) (m' : Mach) : Prop :=
      m'.getHdr (hdrKey tyRte t) = (m.getHdr (hdrKey tyRte t)).occur e 1 ∧ m' = m.withReports m'
    m.rst.inReset = false → t < 4 →
    ((r.v0.state = .empty → Completes (exec (.arm0 .mgmt t) s) s (armed { r with v0 := { r.v0 with state := .armed } })) ∧
     (r.v0.state ≠ .empty → Completes (exec (.arm0 .mgmt t) s) s (tallied 0)) ∧
     (r.v1.state = .empty → Completes (exec (.arm1 .mgmt t) s) s (armed { r with v1 := { r.v1 with state := .armed } })) ∧
     (r.v1.state ≠ .empty → Completes (exec (.arm1 .mgmt t) s) s (tallied 0))) ∧
    ((r.v0.state ≠ .armed → r.v1.state ≠ .armed → Completes (exec (.flip .mgmt t) s) s (tallied 1)) ∧
     (r.v0.state = .armed → Completes (exec (.flip .mgmt t) s) s fun m' =>
       (m'.getRte t).inject = false ∧ (m'.getRte t).v0.state = .injecting ∧
       (r.v1.state = .injecting → (m'.getRte t).v1.state = .draining ∨ (m'.getRte t).v1.state = .empty)) ∧
     (r.v0.state ≠ .armed → r.v1.state = .armed → Completes (exec (.flip .mgmt t) s) s fun m' =>
       (m'.getRte t).inject = true ∧ (m'.getRte t).v1.state = .injecting ∧
       (r.v0.state = .injecting → (m'.getRte t).v0.state = .draining ∨ (m'.getRte t).v0.state = .empty))) ∧
    (∀ rank : BitVec 24,
      (r.v0.state = .empty → Completes (exec (.rteRankWrite .mgmt t 0 rank) s) s (rteIs { r with v0 := { r.v0 with rank := rank } })) ∧
      (r.v1.state = .empty → Completes (exec (.rteRankWrite .mgmt t 1 rank) s) s (rteIs { r with v1 := { r.v1 with rank := rank } })) ∧
      (r.v0.state ≠ .empty → Completes (exec (.rteRankWrite .mgmt t 0 rank) s) s (tallied 0))) ∧
    (∀ e : BitVec 32,
      (r.mtSel.getLsbD 12 = false → r.v0.state = .empty → Completes (exec (.rteMtData .mgmt t e) s) s
        (rteIs { r with v0 := { r.v0 with mt := Tab.put 0 r.v0.mt (r.mtSel.toNat % 2048) e } })) ∧
      (r.mtSel.getLsbD 12 = true → r.v1.state = .empty → Completes (exec (.rteMtData .mgmt t e) s) s
        (rteIs { r with v1 := { r.v1 with mt := Tab.put 0 r.v1.mt (r.mtSel.toNat % 2048) e } })) ∧
      (r.mtSel.getLsbD 12 = false → r.v0.state ≠ .empty → Completes (exec (.rteMtData .mgmt t e) s) s (tallied 0)) ∧
      (r.ltSel.getLsbD 13 = false → r.v0.state = .empty → Completes (exec (.rteLtData .mgmt t e) s) s
        (rteIs { r with v0 := { r.v0 with lt := Tab.put 0 r.v0.lt (r.ltSel.toNat % 8192) e } })) ∧
      (r.ltSel.getLsbD 13 = true → r.v1.state = .empty → Completes (exec (.rteLtData .mgmt t e) s) s
        (rteIs { r with v1 := { r.v1 with lt := Tab.put 0 r.v1.lt (r.ltSel.toNat % 8192) e } }))) ∧
    (∀ e : BitVec 64,
      (r.mcSel.getLsbD 12 = false → r.v0.state = .empty → Completes (exec (.rteMcData .mgmt t e) s) s
        (rteIs { r with v0 := { r.v0 with mc := Tab.put 0 r.v0.mc (r.mcSel.toNat % 4096) e } })) ∧
      (r.mcSel.getLsbD 12 = true → r.v1.state = .empty → Completes (exec (.rteMcData .mgmt t e) s) s
        (rteIs { r with v1 := { r.v1 with mc := Tab.put 0 r.v1.mc (r.mcSel.toNat % 4096) e } }))) ∧
    (∀ ns : BitVec 64, Completes (exec (.rteTimeSet .mgmt ns) s) s fun m' =>
      m' = { m with time := { m.time with ns := if m.time.root ∧ m.time.ns.toNat ≤ ns.toNat then ns else m.time.ns } }) ∧
    (∀ port, port < 48 → m.instFenced tyLnk port = false →
      ((m.getLnk port).state = .down → Completes (exec (.retrain .mgmt port) s) s fun m' =>
        m'.getLnk port = { m.getLnk port with state := .training, retrains := (m.getLnk port).retrains + 1 }) ∧
      ((m.getLnk port).state = .up → Completes (exec (.retrain .mgmt port) s) s fun m' =>
        (m'.getLnk port).state = .retraining ∧ (m'.getLnk port).replay = [] ∧ (m'.getLnk port).queue = [] ∧
        (m'.getLnk port).retrains = (m.getLnk port).retrains + 1 ∧
        (∀ x ∈ (m.getLnk port).replay, ∀ p, x.content = .inl p → p.tc = 3 →
          ({ pkt := p, input := 16 } : Held) ∈ (m'.getRte (port / 12)).held) ∧
        ∀ p ∈ (m.getLnk port).queue, ({ pkt := p, input := 16 } : Held) ∈ (m'.getRte (port / 12)).held)) ∧
    (∀ (die : Nat) (n : BitVec 32), die < 2 → m.instFenced tyUpd die = false →
      Completes (exec (.updProgCount .mgmt die n) s) s fun m' =>
        m'.getUpd die = { m.getUpd die with progCount := n.setWidth 9,
                                            programs := (List.range (n.toNat % 512)).map (m.progAt (m.getUpd die).progBase.toNat) } ∧
        m' = { m with upd := m'.upd }) ∧
    (let slot := m.cmt.jobSel.toNat
     m.job? slot = none →
      let f := Tab.get {} m.cmt.free slot
      let freeIs (f' : FreeSlot) (m' : Mach) : Prop := Tab.get {} m'.cmt.free slot = f' ∧
        (∀ i, i ≠ slot → Tab.get {} m'.cmt.free i = Tab.get {} m.cmt.free i) ∧ m' = { m with cmt := { m.cmt with free := m'.cmt.free } }
      let write (off n : Nat) (v : BitVec 64) := exec (.registerWrite .mgmt (pageAddr tyCmt 1 0 off) n v) s
      (∀ v : BitVec 32, Completes (write 0x018 4 (v.setWidth 64)) s
        (freeIs { f with logStaged := BitVec.ofNat 13 (min 4096 (max 1 (v.toNat % 8192))) })) ∧
      (∀ v : BitVec 64, Completes (write 0x060 8 v) s (freeIs { f with reduceBase := v.setWidth 48 })) ∧
      (∀ v : BitVec 32, Completes (write 0x068 4 (v.setWidth 64)) s (freeIs { f with reduceCount := v.setWidth 17 })) ∧
      Completes (exec (.regRead .mgmt (pageAddr tyCmt 1 0 0x018) 4) s) s fun m' => m' = { m with lastRead := f.logLive.toNat })

/-! ## Contexts and hosts -/

/-- R422, R424, R508: ACTIVATE reads the descriptor: a valid one makes the context ACTIVE with empty rings, any other REFUSED with the
lowest reason that applies (the order among several is the model's choice); an ACTIVE context it leaves alone. DEACTIVATE acts where no
job is held; RESET leaves only the descriptor's address. A doorbell write is taken or counted.
Choices of the model that show in it: log 101. -/
def Obligations.ContextCommands : Prop :=
  ∀ (s : State) (c d : Nat), let m := s.mach
    let x := m.getCtx c
    let y := m.getDom d
    let a := y.hostAt + x.descAddr.toNat
    let bs := m.peek a 256
    let ctxIs (x' : Ctx) (m' : Mach) : Prop := m'.getCtx c = x' ∧ ∀ k, k ≠ c → m'.getCtx k = m.getCtx k
    m.rst.inReset = false → c < 16384 → m.domOfCtx c = some d → m.rst.domState.getLsbD d = false → m.granErr = [] →
    ((x.state = .inactive ∨ x.state = .refused) →
      (y.hostmemGib.toNat * 2 ^ 30 < x.descAddr.toNat + 256 →
        Completes (exec (.ctxActivate .mgmt c) s) s fun m' =>
          ctxIs { x with state := .refused, refuse := 1, desc := none } m' ∧ m' = { m with ctx := m'.ctx }) ∧
      (y.inHost x.descAddr.toNat 256 = true →
        let e := CtxDesc.ofBytes bs
        let refused (why : Nat) (m' : Mach) : Prop := ctxIs { x with state := .refused, refuse := BitVec.ofNat 8 why, desc := none } m' ∧
          m' = { m.withCounts m' with ctx := m'.ctx }
        (e.outside y = true → Completes (exec (.ctxActivate .mgmt c) s) s (refused 1)) ∧
        (e.outside y = false → ctxFormatBad bs = true → Completes (exec (.ctxActivate .mgmt c) s) s (refused 2)) ∧
        (e.outside y = false → ctxFormatBad bs = false → e.notifyBad y = true → Completes (exec (.ctxActivate .mgmt c) s) s (refused 3)) ∧
        (e.outside y = false → ctxFormatBad bs = false → e.notifyBad y = false →
          Completes (exec (.ctxActivate .mgmt c) s) s fun m' => (m'.getCtx c).state = .active ∧ (m'.getCtx c).refuse = 0 ∧
            (m'.getCtx c).desc = some e ∧ (m'.getCtx c).sqTail = 0 ∧ (m'.getCtx c).sqHead = 0 ∧ (m'.getCtx c).cqHead = 0 ∧
            (m'.getCtx c).cqTail = 0 ∧ (∀ k, k ≠ c → m'.getCtx k = m.getCtx k) ∧ m' = { m.withCounts m' with ctx := m'.ctx }))) ∧
    (x.state ≠ .inactive → x.state ≠ .refused → Completes (exec (.ctxActivate .mgmt c) s) s fun m' => m' = m) ∧
    (x.job = none → Completes (exec (.ctxDeactivate .mgmt c) s) s fun m' =>
      ctxIs { x with state := .inactive, refuse := 0 } m' ∧ m' = { m with ctx := m'.ctx }) ∧
    (x.job.isSome → Completes (exec (.ctxDeactivate .mgmt c) s) s fun m' => m' = m) ∧
    (Completes (exec (.ctxReset .mgmt c) s) s fun m' => m'.getCtx c = { descAddr := x.descAddr } ∧
      (∀ slot, x.job = some slot → m'.job? slot = none) ∧ (m'.getHdr (hdrKey tyCtx c)).tallies = [] ∧
      (m'.getHdr (hdrKey tyRst 0)).event.getLsbD 5 = true) ∧
    ∀ e v, x.desc = some e →
      let bad (m' : Mach) : Prop := m'.getHdr (hdrKey tyCtx c) = (m.getHdr (hdrKey tyCtx c)).occur 1 1 ∧ m' = m.withReports m'
      ((v - x.sqHead).toNat ≤ e.sqEntries → (v - x.sqTail).toNat < 2 ^ 31 →
        Completes (exec (.ctxSqTail .mgmt c v) s) s fun m' => ctxIs { x with sqTail := v } m' ∧ m' = { m with ctx := m'.ctx }) ∧
      (e.sqEntries < (v - x.sqHead).toNat ∨ 2 ^ 31 ≤ (v - x.sqTail).toNat → Completes (exec (.ctxSqTail .mgmt c v) s) s bad) ∧
      ((x.cqTail - v).toNat ≤ e.cqEntries → (v - x.cqHead).toNat < 2 ^ 31 → x.held = [] →
        Completes (exec (.ctxCqHead .mgmt c v) s) s fun m' => ctxIs { x with cqHead := v } m' ∧ m' = { m with ctx := m'.ctx }) ∧
      (∀ r, (x.cqTail - v).toNat < e.cqEntries → (v - x.cqHead).toNat < 2 ^ 31 → x.held = [r] → m.memWf →
        Completes (exec (.ctxCqHead .mgmt c v) s) s fun m' =>
          RecordWritten m m' c r ∧ (m'.getCtx c).cqHead = v ∧ (m'.getCtx c).held = []) ∧
      (e.cqEntries < (x.cqTail - v).toNat ∨ 2 ^ 31 ≤ (v - x.cqHead).toNat → Completes (exec (.ctxCqHead .mgmt c v) s) s bad)

/-- R426, R427, R430, R431, R432, R435: an active context takes the next command of its ring, in order; one of a wrong form is decided at
once. A decided record is written at the tail of the completion ring, or held while the ring is full. Records that no notification has
followed within COALESCE_US raise one.
Choices of the model that show in it: log 102 and 123. -/
def Obligations.RingsAndRecords : Prop :=
  ∀ (s : State) (c d : Nat) (e : CtxDesc), let m := s.mach
    let x := m.getCtx c
    let y := m.getDom d
    let n := x.sqHead.toNat
    let bs := m.peek (y.hostAt + e.sqBase + 64 * (n % e.sqEntries)) 64
    let t : TakenCmd := { n := n, tag := cmdN bs 2 2, opcode := cmdN bs 0 1, notify := bitAt (cmdN bs 1 1) 1, bytes := bs }
    let frame (m' : Mach) : Prop := (∀ k, k ≠ c → m'.getCtx k = m.getCtx k) ∧ m' = { m.withCounts m' with ctx := m'.ctx }
    x.desc = some e → 0 < e.cqEntries → m.domOfCtx c = some d → m.granErr = [] →
    (x.state ≠ .inactive → x.state ≠ .refused → (m.getHdr (hdrKey tyCtx c)).quiesce = false → (m.getHdr (hdrKey tyCtx c)).enable = true →
      x.sqHead ≠ x.sqTail → (∀ u ∈ x.taken, u.accepted = true ∧ u.n ≠ n) → (bitAt (cmdN bs 1 1) 0 = true → x.taken = [] ∧ x.finished = []) →
      (x.sqHead - x.cqHead).toNat < e.cqEntries + 64 →
      (commandOk bs = true → Completes (exec (.commandTake c) s) s fun m' =>
        m'.getCtx c = { x with sqHead := x.sqHead + 1, commands := x.commands + 1, taken := x.taken ++ [t] } ∧ frame m') ∧
      (commandOk bs = false → Completes (exec (.commandTake c) s) s fun m' =>
        m'.getCtx c = { x with sqHead := x.sqHead + 1, commands := x.commands + 1, finished := x.finished ++
          [(n, { tag := t.tag, status := 1, reason := 0, detail := 0, value := 0, flags := 0, opcode := t.opcode, notify := t.notify })] } ∧ frame m')) ∧
    ((m.getHdr (hdrKey tyCtx c)).quiesce = true ∨ x.sqHead = x.sqTail ∨ (∃ u ∈ x.taken, u.accepted = false) →
      Completes (exec (.commandTake c) s) s fun m' => m' = m) ∧
    (∀ k r, x.finished.find? (fun f => f.1 == k) = some (k, r) → m.memWf →
      ((x.cqTail - x.cqHead).toNat ≠ e.cqEntries → x.held = [] →
        Completes (exec (.commandComplete c k) s) s fun m' =>
          RecordWritten m m' c r ∧ (m'.getCtx c).finished = x.finished.filter (fun f => f.1 != k) ∧
            ((r.notify = true ∨ e.coalesceCount ≤ x.unnotified + 1) → (m'.getCtx c).unnotified = 0)) ∧
      ((x.cqTail - x.cqHead).toNat = e.cqEntries →
        Completes (exec (.commandComplete c k) s) s fun m' =>
          m'.getCtx c = { x with finished := x.finished.filter (fun f => f.1 != k), held := x.held ++ [r] } ∧
          m'.getHdr (hdrKey tyCtx c) = (m.getHdr (hdrKey tyCtx c)).occur 3 1 ∧ MemSame m m')) ∧
    (x.unnotified ≠ 0 → x.oldestAt + 1000 * e.coalesceUs ≤ m.now → Completes (exec (.coalesceTimeout c) s) s fun m' =>
      m'.getCtx c = { x with unnotified := 0 } ∧
      (e.notifyId ≠ 0 → y.host = .localHost → m'.apc.msis = m.apc.msis ++ [(e.notifyCore, e.notifyId)]) ∧
      (e.notifyId ≠ 0 → y.host = .remote → ∃ g, (m'.getDom d).out.getLast? = some g ∧ g.gram.type = 9 ∧ g.gram.context = c ∧
        g.gram.data = leBytes 4 e.notifyId) ∧
      (e.notifyId = 0 → m' = { m with ctx := m'.ctx }))

/-- R142, R156, R329, R356, R357, R359, R428, R429: host commands about a job: refused with the first status that applies, or carried out, or
accepted. Where its list in host memory has to be read, the readings are counted. A release of an easement takes effect at once.
Choices of the model that show in it: log 97, 103, 109 and 165. -/
def Obligations.HostJobCommands : Prop :=
  ∀ (s : State) (c n d : Nat) (bs : List Byte), let m := s.mach
    let y := m.getDom d
    let arg (o k : Nat) : Nat := cmdN bs o k
    let found := m.domJob d (arg 4 2)
    m.granErr = [] → m.memWf →
    (found = none →
      (m.orders c n 3 d bs → Completes (exec (.stop c n) s) s (Refused m · c n 3)) ∧
      (m.orders c n 4 d bs → Completes (exec (.tableSelect c n) s) s (Refused m · c n 3)) ∧
      (m.orders c n 8 d bs → Completes (exec (.teardown c n) s) s (Refused m · c n 3)) ∧
      (m.orders c n 10 d bs → Completes (exec (.freeze c n) s) s (Refused m · c n 3)) ∧
      (m.orders c n 11 d bs → Completes (exec (.unfreeze c n) s) s (Refused m · c n 3))) ∧
    (∀ slot j, found = some slot → m.job? slot = some j →
      let jobIs (j' : Job) (m' : Mach) : Prop := m'.job? slot = some j' ∧ ∀ i, i ≠ slot → m'.job? i = m.job? i
      let carried (m' : Mach) : Prop := Accepted m m' c n ∧ jobIs { j with carried := j.carried ++ [{ bytes := bs, ctx := c, n := n }] } m'
      (m.orders c n 10 d bs →
        (j.inconsistent = false → Completes (exec (.freeze c n) s) s fun m' => Finished m m' c n 0 ∧ jobIs { j with frozen := true } m') ∧
        (j.inconsistent = true → Completes (exec (.freeze c n) s) s (Refused m · c n 14 j.halt.toNat))) ∧
      (m.orders c n 11 d bs → j.inconsistent = false →
        Completes (exec (.unfreeze c n) s) s fun m' => Finished m m' c n 0 ∧ jobIs { j with frozen := false } m') ∧
      (m.orders c n 3 d bs →
        (j.refuses = true → Completes (exec (.stop c n) s) s (Refused m · c n 14 j.halt.toNat)) ∧
        (j.refuses = false → j.run = none → Completes (exec (.stop c n) s) s (Refused m · c n 0)) ∧
        (j.refuses = false → j.run.isSome → j.started = true → Completes (exec (.stop c n) s) s fun m' => Accepted m m' c n ∧
          jobIs { j with stops := j.stops ++ [(c, n)], stopAsked := true } m' ∧ m' = { m with ctx := m'.ctx, cmt := m'.cmt }) ∧
        (j.refuses = false → j.run.isSome → j.started = false → Completes (exec (.stop c n) s) s fun m' => Accepted m m' c n ∧
          Tells m' j j.coordModule ∧ ∃ j', m'.job? slot = some j' ∧ j'.stops = j.stops ++ [(c, n)])) ∧
      (m.orders c n 4 d bs →
        (j.lateFor (arg 8 8) = true → Completes (exec (.tableSelect c n) s) s (Refused m · c n 7)) ∧
        (j.lateFor (arg 8 8) = false → j.refuses = true → Completes (exec (.tableSelect c n) s) s (Refused m · c n 14 j.halt.toNat)) ∧
        (j.lateFor (arg 8 8) = false → j.refuses = false → Completes (exec (.tableSelect c n) s) s carried)) ∧
      (m.orders c n 5 d bs →
        (y.inHost (arg 24 8) (8 * arg 20 4) = false → Completes (exec (.stake c n) s) s (Refused m · c n 2)) ∧
        (y.inHost (arg 24 8) (8 * arg 20 4) = true → j.lateFor (arg 8 8) = true → Completes (exec (.stake c n) s) s fun m' =>
          Finished m m' c n 7 ∧ (∀ k, k ≠ c → m'.getCtx k = m.getCtx k) ∧ m' = { m.withCounts m' with ctx := m'.ctx }) ∧
        (y.inHost (arg 24 8) (8 * arg 20 4) = true → j.lateFor (arg 8 8) = false → j.refuses = false → j.carried = [] → j.plat = none →
          ∀ sizes m1, let m2 := (m.hostRead d (arg 24 8) (8 * arg 20 4)).2
            m2.runRd (.planner (64 + c)) (some d) (m2.causeOf slot) (tableSizes j (m2.tableSlots j)
              ((stakeSet (j.replicas.map fun r => (r.table, r.row)) bs (m.stakeList d bs)).map (·.1)).eraseDups) = (some sizes, m1) →
            Completes (exec (.stake c n) s) s carried)) ∧
      (m.orders c n 6 d bs →
        (y.inHost (arg 16 8) (arg 24 8) = false → Completes (exec (.monument c n) s) s (Refused m · c n 2)) ∧
        (y.inHost (arg 16 8) (arg 24 8) = true → j.applyBegun (arg 8 8) = true → Completes (exec (.monument c n) s) s (Refused m · c n 7)) ∧
        (y.inHost (arg 16 8) (arg 24 8) = true → j.applyBegun (arg 8 8) = false → j.refuses = false →
          Completes (exec (.monument c n) s) s fun m' => Accepted m m' c n ∧
            jobIs { j with monuments := j.monuments ++
              [{ step := BitVec.ofNat 64 (arg 8 8), ctx := c, n := n, dest := arg 16 8, bytes := arg 24 8 }] } m')) ∧
      (m.orders c n 8 d bs →
        (j.run.isSome ∨ j.restore.isSome → Completes (exec (.teardown c n) s) s (Refused m · c n 4)) ∧
        (j.run = none → j.restore = none → j.carried = [] → j.monuments = [] → j.stops = [] →
          Completes (exec (.teardown c n) s) s fun m' => Finished m m' c n 0 ∧ m'.job? slot = none ∧
            (∀ i, i ≠ slot → m'.job? i = m.job? i) ∧ (m'.getCtx j.ctx).job = none ∧ (m'.getCtx j.ctx).regions = [] ∧
            (∀ k ∈ m.jobClusters j, (m'.getClu k).assigned = false) ∧ MemSame m m' ∧ Tab.get {} m'.cmt.free slot = j.leaves)) ∧
      (m.orders c n 2 d bs → ∀ ps, y.inHost (arg 16 8) (2 * arg 24 2) = true →
        ps = splitLe 2 (arg 24 2) (m.peek (y.hostAt + arg 16 8) (2 * arg 24 2)) → m.listOk ps = true →
        (j.participants = [] ∨ j.participants = ps) → j.run = none → j.restore = none →
        m.jobFits { j with participants := ps } = true → j.refuses = false →
        Completes (exec (.run c n) s) s fun m' => Accepted m m' c n ∧ Tells m' j (ps.headD m.self) ∧ ∃ j', m'.job? slot = some j' ∧
          j'.run = some (c, n) ∧ j'.participants = ps ∧ j'.stepsLeft = (if arg 32 8 = 0 then none else some (arg 32 8)) ∧
          j'.state = j.state ∧ j'.step = j.step ∧ MemSame m m')) ∧
    (m.orders c n 1 d bs → ∀ place, let id := arg 4 2
      let a := arg 16 8
      let len := arg 24 8
      (id = 0 → Completes (exec (.loadImage c n place) s) s (Refused m · c n 1)) ∧
      (id ≠ 0 → y.inHost a len = false → Completes (exec (.loadImage c n place) s) s (Refused m · c n 2)) ∧
      (id ≠ 0 → y.inHost a len = true → (m.getCtx c).job.isSome → Completes (exec (.loadImage c n place) s) s (Refused m · c n 3)) ∧
      (id ≠ 0 → y.inHost a len = true → (m.getCtx c).job = none → (m.slotOfJob id).isSome →
        Completes (exec (.loadImage c n place) s) s (Refused m · c n 4)) ∧
      (id ≠ 0 → y.inHost a len = true → (m.getCtx c).job = none → m.slotOfJob id = none → (∀ i, i < 64 → (m.job? i).isSome) →
        Completes (exec (.loadImage c n place) s) s (Refused m · c n 5)) ∧
      (∀ img slot, (m.checkImage c d id a len).1 = .inr img → m.imagePlace place len = true → m.freeSlot = some slot →
        Completes (exec (.loadImage c n place) s) s fun m' => Finished m m' c n 0 ∧ (m'.getCtx c).job = some slot ∧
          (m'.getCtx c).jobId = BitVec.ofNat 16 id ∧ Written m m' place img ∧ img = m.peek (y.hostAt + a) len ∧
          (∀ i, i ≠ slot → m'.job? i = m.job? i) ∧
          ∃ j', m'.job? slot = some j' ∧ j'.id = id ∧ j'.ctx = c ∧ j'.domain = d ∧ j'.imageAt = place ∧ j'.digest = sha512 img ∧
            j'.logLive = (Tab.get {} m.cmt.free slot).logLive ∧ j'.logStaged = (Tab.get {} m.cmt.free slot).logStaged)) ∧
    (m.orders c n 9 d bs → let k := arg 16 2
      let nt := arg 20 4
      let w := arg 24 2
      let e := m.getPlnDom d
      (k = 0 → nt = 0 → w = 0 → (∀ k' nt' w' c' n', e.pending = some (k', nt', w', c', n') → c' ≠ c) →
        Completes (exec (.easement c n) s) s fun m' => Finished m m' c n 0 ∧
          m'.getPlnDom d = { e with eased := 0, easeNt := 0, easeLink := 0, easeState := 0, weight := 0, pending := none } ∧
          Tab.get none m'.mgt.eases d = some (0, 0, 0) ∧
          ∀ k' nt' w' c' n', e.pending = some (k', nt', w', c', n') → (m.taken? c' n').isSome → Finished m m' c' n' 0) ∧
      (k ≠ 0 ∨ nt ≠ 0 ∨ w ≠ 0 → e.pending = none →
        let sum (f : PlnDom → Nat) : Nat := ((List.range 16).map fun i => if i = d then 0 else f (m.getPlnDom i)).sum
        let clusters (x : PlnDom) : Nat := x.reserved.1
        let near (x : PlnDom) : Nat := x.reserved.2
        (y.quotaClusters.toNat < k ∨ y.quotaNt.toNat < nt → Completes (exec (.easement c n) s) s (Refused m · c n 12)) ∧
        (k ≤ y.quotaClusters.toNat → nt ≤ y.quotaNt.toNat →
          (((List.range 640).filter m.clusterPresent).length < k + sum clusters ∨ m.nearMib < nt + sum near →
            Completes (exec (.easement c n) s) s (Refused m · c n 13)) ∧
          (d < 16 → k + sum clusters ≤ ((List.range 640).filter m.clusterPresent).length → nt + sum near ≤ m.nearMib →
            Completes (exec (.easement c n) s) s fun m' => Accepted m m' c n ∧
              m'.getPlnDom d = { e with pending := some (k, nt, w, c, n), easeState := 1 })))) ∧
    (∀ k nt w, (m.getPlnDom d).pending = some (k, nt, w, c, n) → m.reclaimed d = true → (m.taken? c n).isSome →
      Completes (exec (.easementInForce d) s) s fun m' => Finished m m' c n 0 ∧
        m'.getPlnDom d = { m.getPlnDom d with eased := BitVec.ofNat 10 k, easeNt := BitVec.ofNat 32 nt, easeLink := BitVec.ofNat 16 w,
                                              easeState := 2, pending := none } ∧
        Tab.get none m'.mgt.eases d = some (k, nt, w))

/-- R331, R429, R440, R442: RESTORE is refused with DIGEST_MISMATCH, PART_MISSING or IMAGE_CORRUPT for its parts, or binds the job, which waits to be
restored; its end leaves the job idle, unfrozen and at the parts' STEP. SAVE_CONTEXT stops a context; its image is written once everything
started is complete, or nothing is where it has no room. RESUME_CONTEXT restores it; an image that comes before its phase is kept for it.
Choices of the model that show in it: log 114, 115, 117 and 118. -/
def Obligations.RestoresAndContextImages : Prop :=
  ∀ (s : State) (c n d : Nat) (bs : List Byte), let m := s.mach
    let y := m.getDom d
    let x := m.getCtx c
    let arg (o k : Nat) : Nat := cmdN bs o k
    m.granErr = [] → m.memWf →
    (m.orders c n 7 d bs → ∀ place,
      (y.inHost (arg 32 8) (16 * arg 40 2) = false ∨ y.inHost (arg 48 8) (2 * arg 56 2) = false →
        Completes (exec (.restore c n place) s) s fun m' => Finished m m' c n 2 ∧ MemSame m m' ∧ m'.cmt = m.cmt) ∧
      (y.inHost (arg 32 8) (16 * arg 40 2) = true → y.inHost (arg 48 8) (2 * arg 56 2) = true →
        let ps := partList (m.peek (y.hostAt + arg 32 8) (16 * arg 40 2))
        let mods := splitLe 2 (arg 56 2) (m.peek (y.hostAt + arg 48 8) (2 * arg 56 2))
        (m.listOk mods = false → Completes (exec (.restore c n place) s) s fun m' => Finished m m' c n 1 ∧ m'.cmt = m.cmt) ∧
        (m.listOk mods = true → m.partsHeld d ps = true → ∀ img m0 parts m1,
          (m.restoreLists d bs).2.checkImage c d (arg 4 2) (arg 16 8) (arg 24 8) = (.inr img, m0) → m0.imagePlace place (arg 24 8) = true →
          m0.runRd (.planner (64 + c)) (some d) { domain := d } (readParts ps) = (some parts, m1) →
          let slot := m1.freeSlot.getD 0
          let b := (m1.bindJob c d (arg 4 2) place img).modJob slot fun j =>
            { j with participants := mods, state := .restoring, restore := some (c, n), forced := 2,
                     step := BitVec.ofNat 64 (cmdN ((parts.headD none).getD []) 8 8) }
          (∀ j, b.job? slot = some j → b.jobFits j = true ∧ b.homesFit j (parts.filterMap id) = true) →
          let same (e : Nat) : Prop :=
            Completes (exec (.restore c n place) s) s fun m' => Finished m m' c n e ∧ ∀ i, m'.job? i = m.job? i
          let digests : Prop := ∀ p, some p ∈ parts → (p.drop 0x20).take 64 = sha512 img
          ((∃ p, some p ∈ parts ∧ (p.drop 0x20).take 64 ≠ sha512 img) → same 16) ∧
          (digests → none ∉ parts → (∃ k, k < parts.length ∧ ∀ p, some p ∈ parts → cmdN p 4 2 ≠ k) → same 17) ∧
          (digests → none ∈ parts → (∀ p, some p ∈ parts → cmdN p 0 2 = 1 ∧ cmdN p 6 2 = parts.length ∧ cmdN p 4 2 < parts.length) →
            (∀ p q, some p ∈ parts → some q ∈ parts → cmdN p 8 8 = cmdN q 8 8) → ((parts.filterMap id).map fun p => cmdN p 4 2).Nodup →
            same 18) ∧
          (digests → none ∉ parts → parts ≠ [] → (∀ p, some p ∈ parts → cmdN p 0 2 = 1 ∧ cmdN p 6 2 = parts.length) →
            (∀ p q, some p ∈ parts → some q ∈ parts → cmdN p 8 8 = cmdN q 8 8) →
            (∀ k, k < parts.length → ∃ p, some p ∈ parts ∧ cmdN p 4 2 = k) →
            Completes (exec (.restore c n place) s) s fun m' => Accepted m m' c n ∧ (m'.getCtx c).job = some slot ∧
              ∃ j', m'.job? slot = some j' ∧ j'.id = arg 4 2 ∧ j'.domain = d ∧ j'.participants = mods ∧ j'.state = .restoring ∧
                j'.restore = some (c, n) ∧ ∀ p, some p ∈ parts → j'.step = BitVec.ofNat 64 (cmdN p 8 8))))) ∧
    (∀ slot j, m.job? slot = some j → j.restore = some (c, n) →
      (m.inFlight j.id = true ∨ m.ctxQuiet slot j = false → Completes (exec (.restoreBegin slot) s) s fun m' => m' = m) ∧
      (m.inFlight j.id = false → m.ctxQuiet slot j = true → j.plat.isSome → j.run = none → j.carried = [] → j.monuments = [] → j.stops = [] → j.domain = d →
        (∃ t, m.taken? c n = some t ∧ t.bytes = bs) → ∀ ps mods m0 parts m1, m.restoreLists d bs = (some (ps, mods), m0) →
        m0.runRd (.planner (64 + c)) (some d) { domain := d } (readParts ps) = (some parts, m1) →
        (none ∈ parts → Completes (exec (.restoreBegin slot) s) s fun m' => Finished m m' c n 18 ∧ m'.job? slot = none) ∧
        (none ∉ parts → Completes (exec (.restoreBegin slot) s) s fun m' => Finished m m' c n 0 0 0 j.step.toNat 1 ∧
          (m'.getCtx j.ctx).gens = [] ∧ (m'.getHdr (hdrKey tyCmt 0)).event.getLsbD 6 = true ∧
          ∃ j', m'.job? slot = some j' ∧ j'.state = .idle ∧ j'.restore = none ∧ j'.frozen = false ∧ j'.step = j.step))) ∧
    (m.orders c n 12 d bs →
      (y.inHost (arg 16 8) (arg 24 8) = false → Completes (exec (.saveContext c n) s) s (Refused m · c n 2)) ∧
      (y.inHost (arg 16 8) (arg 24 8) = true → x.job = none → Completes (exec (.saveContext c n) s) s (Refused m · c n 3)) ∧
      (y.inHost (arg 16 8) (arg 24 8) = true → ∀ j, x.job.bind m.job? = some j →
        (j.refuses = true → Completes (exec (.saveContext c n) s) s (Refused m · c n 14 j.halt.toNat)) ∧
        (j.refuses = false → x.save = none → Completes (exec (.saveContext c n) s) s fun m' => Accepted m m' c n ∧
          (m'.getCtx c).state = .stopping ∧ (m'.getCtx c).save = some (n, arg 16 8, arg 24 8) ∧ m' = { m with ctx := m'.ctx }))) ∧
    (∀ dest room slot j, x.save = some (n, dest, room) → x.job = some slot → m.domOfCtx c = some d → m.job? slot = some j →
      (m.taken? c n).isSome →
      (m.startedDone slot j = false → Completes (exec (.contextStopped c) s) s fun m' => m' = m) ∧
      (x.state = .stopping → m.ctxHeld c = true → m.startedDone slot j = true →
        let img := m.contextImage slot j c
        (room < img.length → Completes (exec (.contextStopped c) s) s fun m' => Finished m m' c n 10 ∧ MemSame m m' ∧
          (m'.getCtx c).state = if j.run.isSome then .running else .active) ∧
        (img.length ≤ room → Completes (exec (.contextStopped c) s) s fun m' => Finished m m' c n 0 ∧ (m'.getCtx c).state = .stopped ∧
          (m'.getCtx c).save = none ∧ Written m m' (y.hostAt + dest) img))) ∧
    (m.orders c n 13 d bs →
      (y.inHost (arg 16 8) (arg 24 8) = true → x.job = none → Completes (exec (.resumeContext c n) s) s (Refused m · c n 3)) ∧
      (y.inHost (arg 16 8) (arg 24 8) = true → ∀ slot j, x.job = some slot → m.job? slot = some j →
        (x.state = .running → Completes (exec (.resumeContext c n) s) s (Refused m · c n 4)) ∧
        (x.state = .stopped ∨ x.state = .active → j.refuses = false →
          let img := m.peek (y.hostAt + arg 16 8) (arg 24 8)
          (CtxImg.ofBytes img = none → Completes (exec (.resumeContext c n) s) s fun m' => Finished m m' c n 18 ∧ m'.cmt = m.cmt) ∧
          ∀ im, CtxImg.ofBytes img = some im → m.jobFits j = true →
            (im.digest ≠ j.digest → Completes (exec (.resumeContext c n) s) s fun m' => Finished m m' c n 16 ∧ m'.cmt = m.cmt) ∧
            (im.digest = j.digest → im.cls ≠ b2n ((x.desc.map (·.classL)).getD false) →
              Completes (exec (.resumeContext c n) s) s fun m' => Finished m m' c n 19 ∧ m'.cmt = m.cmt) ∧
            (im.digest = j.digest → im.cls = b2n ((x.desc.map (·.classL)).getD false) → j.plat.isSome → j.newest = none →
              (j.phaseBegun = true → m.imageFits j im = true) →
              Completes (exec (.resumeContext c n) s) s fun m' => (Finished m m' c n 0 ∨ Finished m m' c n 0 0 0 0 1) ∧
                ((m'.getCtx c).state = if j.run.isSome then .running else .active) ∧
                (im.current j = true → j.phaseBegun = false → ∃ j', m'.job? slot = some j' ∧ j'.image = some im)))))

/-- R419, R424, R437, R438, R439, R446: a datagram of a domain's remote host takes effect once, and READ and REG_READ are answered; a
duplicate, a malformed one and one that is not authentic change no context and no memory. Datagrams are sent again until they are
acknowledged. A port that is lost comes back; a guest access outside its mappings is refused.
Choices of the model that show in it: log 120, 121 and 122. -/
def Obligations.Datagrams : Prop :=
  ∀ (s : State) (port : Nat) (g : Datagram), let m := s.mach
    let d := g.domain
    let y := m.getDom d
    let fresh (type : Nat) : Prop := m.hearsGram port type g ∧ y.duplicate g.seq = false
    let quiet (e : Nat) (m' : Mach) : Prop :=
      m'.getHdr (hdrKey tySvc port) = (m.getHdr (hdrKey tySvc port)).occur e 1 ∧ m'.ctx = m.ctx ∧ MemSame m m'
    m.granErr = [] → m.memWf →
    (∀ e, fresh 1 → m.domOfCtx g.context = some d → (m.getCtx g.context).desc = some e →
      let x := m.getCtx g.context
      let n := g.length / 64
      let t := x.sqTail + BitVec.ofNat 32 n
      ((t - x.sqHead).toNat ≤ e.sqEntries → (t - x.sqTail).toNat < 2 ^ 31 → n ≤ e.sqEntries →
        Completes (exec (.submit port g) s) s fun m' => m'.getCtx g.context = { x with sqTail := t } ∧
          (∀ i j, i < n → j < 64 → m'.byteAt (y.hostAt + e.sqBase + 64 * ((x.sqTail.toNat + i) % e.sqEntries) + j) = g.data.getD (64 * i + j) 0) ∧
          ∀ b, (b < y.hostAt + e.sqBase ∨ y.hostAt + e.sqBase + 64 * e.sqEntries ≤ b) → m'.byteAt b = m.byteAt b) ∧
      (e.sqEntries < (t - x.sqHead).toNat → Completes (exec (.submit port g) s) s fun m' =>
        m'.getHdr (hdrKey tyCtx g.context) = (m.getHdr (hdrKey tyCtx g.context)).occur 1 1 ∧ m'.ctx = m.ctx ∧ MemSame m m')) ∧
    (fresh 2 →
      (g.addr + g.length ≤ y.hostmemGib.toNat * 2 ^ 30 → Completes (exec (.dgramWrite port g) s) s fun m' =>
        Written m m' (y.hostAt + g.addr) g.data ∧ m'.ctx = m.ctx ∧ (m'.getSvc port).rx = (m.getSvc port).rx + 1 ∧
          (y.out = [] → (m'.getSvc port).tx = (m.getSvc port).tx + 1)) ∧
      (y.hostmemGib.toNat * 2 ^ 30 < g.addr + g.length → Completes (exec (.dgramWrite port g) s) s fun m' => MemSame m m' ∧ m'.ctx = m.ctx)) ∧
    (fresh 3 → let k := g.addr / 2 ^ 48
      let a := g.addr % 2 ^ 48
      Completes (exec (.dgramRead port g) s) s fun m' => MemSame m m' ∧ m'.ctx = m.ctx ∧ Answers m' d 4 fun r => r.addr = g.addr ∧
        r.data = if a + k ≤ y.hostmemGib.toNat * 2 ^ 30 then m.peek (y.hostAt + a) k else List.replicate k 0) ∧
    (fresh 6 → ∀ ty inst, ty < 256 → inst < 16384 → g.addr = pageAddr ty 0 inst 0 →
      ((m.mayReach (some d) ty inst 0).1 = true → pageExists ty inst 0 = true →
        Completes (exec (.dgramRegRead port g) s) s fun m' => MemSame m m' ∧ m'.ctx = m.ctx ∧
          Answers m' d 7 fun r => r.addr = g.addr ∧ r.data = leBytes 4 (ty * 2 ^ 24 + inst)) ∧
      ((m.mayReach (some d) ty inst 0).1 = false → Completes (exec (.dgramRegRead port g) s) s fun m' =>
        m'.getHdr (hdrKey tyDom d) = (m.getHdr (hdrKey tyDom d)).occur 0 1 ∧
          Answers m' d 7 fun r => r.addr = g.addr ∧ r.data = leBytes 4 0)) ∧
    (m.hearsGram port 10 g →
      ((y.txSeq - g.ack).toNat < 2 ^ 31 → Completes (exec (.dgramAck port g) s) s fun m' => MemSame m m' ∧ m'.ctx = m.ctx ∧
        (m'.getDom d).out.map (·.gram) =
          (y.out.filter fun o => !(o.sent && (o.gram.seq == g.ack || seqBelow o.gram.seq g.ack))).map (·.gram)) ∧
      (2 ^ 31 ≤ (y.txSeq - g.ack).toNat → Completes (exec (.dgramAck port g) s) s fun m' => (m'.getDom d).out = y.out ∧ MemSame m m')) ∧
    (m.hearsGram port 1 g → y.duplicate g.seq = true → Completes (exec (.submit port g) s) s (quiet 1)) ∧
    (m.hearsGram port 2 g → y.duplicate g.seq = true → Completes (exec (.dgramWrite port g) s) s (quiet 1)) ∧
    (port < 2 → (m.getSvc port).state = 2 → g.toPort = (m.getSvc port).udpPort →
      (g.type = 1 → m.gramGood g = true → gramMac g y.key ≠ g.tag → Completes (exec (.submit port g) s) s fun m' =>
        quiet 0 m' ∧ m'.getHdr (hdrKey tyDom d) = (m.getHdr (hdrKey tyDom d)).occur 1 1) ∧
      (g.type = 2 → (g.version ≠ 1 ∨ 16 ≤ d ∨ g.zero ≠ 0 ∨ g.length ≠ g.data.length ∨ 1024 < g.length ∨ y.host ≠ .remote ∨
          g.fromAddr ≠ y.remoteAddr ∨ g.fromPort ≠ y.remotePort) →
        Completes (exec (.dgramWrite port g) s) s (quiet 2))) ∧
    (∀ e q o, (m.getDom e).host = .remote → let p := (m.getDom e).lastPort
      (m.getSvc p).state = 2 → (m.getDom e).out = [o] → o.sent = true → o.gram.seq.toNat = q →
      (o.sentAt + 1000 * (m.getSvc p).resendUs.toNat ≤ m.now → Completes (exec (.datagramResend e q) s) s fun m' =>
        (m'.getSvc p).tx = (m.getSvc p).tx + 1 ∧ m'.getHdr (hdrKey tySvc p) = (m.getHdr (hdrKey tySvc p)).occur 3 1 ∧
        (m'.getDom e).out = [{ o with sentAt := m.now }] ∧ MemSame m m') ∧
      (m.now < o.sentAt + 1000 * (m.getSvc p).resendUs.toNat → Completes (exec (.datagramResend e q) s) s fun m' => m' = m)) ∧
    (port < 2 →
      ((m.getSvc port).state = 2 → Completes (exec (.svcLinkDown port) s) s fun m' => (m'.getSvc port).state = 1 ∧
        m'.getHdr (hdrKey tySvc port) = (m.getHdr (hdrKey tySvc port)).occur 4 1) ∧
      ((m.getSvc port).state = 1 → Completes (exec (.svcPortUp port) s) s fun m' => m'.getSvc port = { m.getSvc port with state := 2 } ∧
        m' = { m with svc := m'.svc })) ∧
    ∀ e a, (m.getDom e).host = .localHost →
      let mapped : Prop := (0x80000000 ≤ a ∧ a < 0x80000000 + (m.getDom e).hostmemGib.toNat * 2 ^ 30) ∨
        (0x0F0000000000 ≤ a ∧ a < 0x0F0000000000 + 2 ^ 36)
      (mapped → Completes (exec (.guestFault e a) s) s fun m' => m' = m) ∧
      (¬ mapped → Completes (exec (.guestFault e a) s) s fun m' => m'.apc.guestFaults = m.apc.guestFaults + 1 ∧
        m'.getHdr (hdrKey tyApc 0) = (m.getHdr (hdrKey tyApc 0)).occur 1 1 ∧ m' = m.withReports m')

/-- R447, R507, R511, R512, R515, R518, R519: a domain reset resets its contexts, cores and transport; it ends once its hold is released. A
core changes domain only between held ones. Selectors claim counters, which start at zero; a trace starts empty with a buffer that the
planner places. The register writes here are the management processor's.
Choices of the model that show in it: log 139, 147 and 148. -/
def Obligations.DomainsAndObservation : Prop :=
  ∀ (s : State) (d : Nat), let m := s.mach
    let y := m.getDom d
    let mine (c : Nat) : Prop := y.ctxBase.toNat ≤ c ∧ c < y.ctxBase.toNat + y.ctxCount.toNat
    let t := m.getThdDom d
    m.rst.inReset = false → d < 16 →
    (m.rst.domState.getLsbD d = false → Completes (exec (.domReset .mgmt d) s) s fun m' =>
      m'.rst.domState = m.rst.domState ||| BitVec.ofNat 16 (2 ^ d) ∧
      (∀ c, mine c → m'.getCtx c = { descAddr := (m.getCtx c).descAddr }) ∧
      m'.apc.running = m.apc.running &&& ~~~y.cores ∧
      (m'.getDom d).out = [] ∧ (m'.getDom d).txSeq = 0 ∧ (m'.getDom d).rxHigh = none ∧ (m'.getDom d).rxSeen = [] ∧
      (m'.getDom d).hostAt = y.hostAt ∧ (m'.getHdr (hdrKey tyRst 0)).event.getLsbD 4 = true ∧ MemSame m m') ∧
    (m.rst.domState.getLsbD d = true → Completes (exec (.domReset .mgmt d) s) s fun m' => m' = m) ∧
    (∀ hold : BitVec 32, Completes (exec (.rstDomainHold .mgmt hold) s) s fun m' => m'.rst.hold = hold.setWidth 16 ∧
      ∀ e, e < 16 → m'.rst.domState.getLsbD e = (m.rst.domState.getLsbD e || hold.getLsbD e)) ∧
    (m.rst.domState.getLsbD d = true →
      (m.rst.hold.getLsbD d = true → Completes (exec (.domainResetDone d) s) s fun m' => m' = m) ∧
      (m.rst.hold.getLsbD d = false → (∀ c, mine c → (m.getCtx c).state = .inactive) →
        (∀ e ∈ m.ctx, m.getCtx e.1 = e.2) →
        Completes (exec (.domainResetDone d) s) s fun m' =>
          m'.rst.domState = m.rst.domState &&& ~~~BitVec.ofNat 16 (2 ^ d) ∧
          (m'.getHdr (hdrKey tyDom d)).event.getLsbD 3 = true ∧
          m'.apc.running = if y.host = .localHost then m.apc.running ||| y.cores else m.apc.running)) ∧
    (∀ i (v : BitVec 64), i < 4 → Completes (exec (.apcAssign .mgmt (8 * i) 8 v) s) s fun m' =>
      ∀ c, c < 32 → m'.coreDomain c =
        if c / 8 = i then
          let b := v.toNat / 256 ^ (c % 8) % 256
          let to' := if 128 ≤ b then some (b % 16) else none
          if (∀ e, m.coreDomain c = some e → m.rst.hold.getLsbD e = true ∧ m.rst.domState.getLsbD e = true) ∧
              (∀ e, to' = some e → m.rst.hold.getLsbD e = true ∧ m.rst.domState.getLsbD e = true) then to' else m.coreDomain c
        else m.coreDomain c) ∧
    (∀ k n (v : BitVec 32), n < 64 → m.clusterPresent k = true →
      let old := Tab.get {} (m.getThdClu k).sel n
      let ev := v.toNat % 256
      let new : ThdSel := { claimed := true, mgt := true, owner := 0, cores := BitVec.ofNat 16 (v.toNat / 256), event := BitVec.ofNat 8 ev }
      let selIs (x : ThdSel) (m' : Mach) : Prop := Tab.get {} (m'.getThdClu k).sel n = x ∧
        (∀ n', n' ≠ n → Tab.get {} (m'.getThdClu k).sel n' = Tab.get {} (m.getThdClu k).sel n') ∧ m' = { m with thdClu := m'.thdClu }
      let refused (m' : Mach) : Prop :=
        m'.getHdr (hdrKey tyThd (k + 1)) = (m.getHdr (hdrKey tyThd (k + 1))).occur 0 1 ∧ m' = m.withReports m' ∧
          Tab.get {} (m'.getThdClu k).sel n = old
      (ev = 0 → Completes (exec (.thdSelWrite .mgmt k n v) s) s (selIs {})) ∧
      (ev ∈ thdEvents → new ≠ { old with ctr := 0 } → Completes (exec (.thdSelWrite .mgmt k n v) s) s (selIs new)) ∧
      (ev ∈ thdEvents → new = { old with ctr := 0 } → Completes (exec (.thdSelWrite .mgmt k n v) s) s (selIs old)) ∧
      (ev ≠ 0 → ev ∉ thdEvents → Completes (exec (.thdSelWrite .mgmt k n v) s) s refused) ∧
      (y.host = .localHost → m.domOfCluster k = some d →
        (old.claimed = true → (old.mgt = true ∨ old.owner.toNat ≠ d) →
          Completes (exec (.thdSelWrite (.host d) k n v) s) s refused) ∧
        (old = {} → ev ∈ thdEvents → Completes (exec (.thdSelWrite (.host d) k n v) s) s
          (selIs { new with mgt := false, owner := BitVec.ofNat 4 d })))) ∧
    (m.thdSel.toNat = d →
      (∀ n (v : BitVec 32), n < 16 → Completes (exec (.thdGselWrite .mgmt n v) s) s fun m' =>
        Tab.get 0 (m'.getThdDom d).gsel n = v.setWidth 8 ∧
        (Tab.get 0 t.gsel n ≠ v.setWidth 8 → Tab.get 0 (m'.getThdDom d).gctr n = 0) ∧
        (Tab.get 0 t.gsel n = v.setWidth 8 → m' = m) ∧ m' = { m with thdDom := m'.thdDom }) ∧
      (∀ v : BitVec 32, let mode : BitVec 2 := v.setWidth 2
        let size := v.extractLsb' 16 9
        let types := v.extractLsb' 8 8
        (t.mode = mode → t.sizeMib = size → Completes (exec (.thdTraceCtrl .mgmt v) s) s fun m' =>
          m'.getThdDom d = { t with types := types } ∧ m' = { m with thdDom := m'.thdDom }) ∧
        (t.mode ≠ mode ∨ t.sizeMib ≠ size →
          (mode = 3 → y.host = .localHost → Completes (exec (.thdTraceCtrl .mgmt v) s) s fun m' =>
            (m'.getThdDom d).mode = 0 ∧ (m'.getThdDom d).head = 0 ∧ (m'.getThdDom d).place = none ∧
            m'.getHdr (hdrKey tyThd 0) = (m.getHdr (hdrKey tyThd 0)).occur 1 1) ∧
          (mode ≠ 3 → Completes (exec (.thdTraceCtrl .mgmt v) s) s fun m' =>
            (m'.getThdDom d).mode = mode ∧ (m'.getThdDom d).sizeMib = size ∧ (m'.getThdDom d).types = types ∧
            (m'.getThdDom d).head = 0 ∧ (m'.getThdDom d).place = none ∧ (m'.getThdDom d).base = 0 ∧ (m'.getThdDom d).lost = t.lost ∧
            MemSame m m')))) ∧
    ((t.asked = false → Completes (exec (.traceBufferPlaced d (some (0, 0))) s) s fun m' => m' = m) ∧
     (t.asked = true → Completes (exec (.traceBufferPlaced d none) s) s fun m' =>
       m'.getThdDom d = { t with mode := 0, asked := false } ∧ m'.getHdr (hdrKey tyThd 0) = (m.getHdr (hdrKey tyThd 0)).occur 1 1) ∧
     ∀ a base, t.asked = true → m.tracePlace d a base = true → Completes (exec (.traceBufferPlaced d (some (a, base))) s) s fun m' =>
       (m'.getThdDom d) = { t with place := some a, base := BitVec.ofNat 48 base, asked := false } ∧ m' = { m with thdDom := m'.thdDom, ctx := m'.ctx })

/-! ## Management, power, resets -/

/-- R415, R417, R459, R470, R472, R473, R476, R477, R478, R482: what the management processor does: an image goes into the slot that does not
run and is verified there; ACTIVATE prefers a verified one on trial, COMMIT ends the trial and raises the anti-rollback count. The log is
copied to flash; a report lists the measurements; a connection needs TLS 1.3, a suite and the management CA; domains are configured, and
memory that another domain held last is zeroed.
Choices of the model that show in it: log 125, 126 and 127. -/
def Obligations.Management : Prop :=
  ∀ (s : State), let m := s.mach
    let g := m.mgt
    let only (g' : Mgt) (m' : Mach) : Prop := m' = { m with mgt := g' }
    let noted (e : Nat) (g' : Mgt) (m' : Mach) : Prop :=
      m'.getHdr (hdrKey tyMgt 0) = (m.getHdr (hdrKey tyMgt 0)).occur e 1 ∧ m'.mgt = g' ∧ m' = { m.withReports m' with mgt := m'.mgt }
    (m.rst.inReset = false →
      (g.trial = false → g.otherVerified = true → Completes (exec (.fwActivate .mgmt) s) s
        (only { g with preferred := 1 - g.slot, trial := true })) ∧
      (g.trial = true ∨ g.otherVerified = false → Completes (exec (.fwActivate .mgmt) s) s fun m' => m' = m) ∧
      (g.trial = false → Completes (exec (.fwCommit .mgmt) s) s fun m' => m' = m) ∧
      (g.trial = true → g.runRollback ≤ g.rollback → Completes (exec (.fwCommit .mgmt) s) s
        (only { g with trial := false, keysRevoked := g.keysRevoked ||| g.runRevoke })) ∧
      (g.trial = true → g.rollback < g.runRollback → Completes (exec (.fwCommit .mgmt) s) s
        (noted 2 { g with trial := false, rollback := g.runRollback, keysRevoked := g.keysRevoked ||| g.runRevoke,
                          log := g.log ++ [.event 2 g.runRollback m.now], unflushed := g.unflushed + 1 }))) ∧
    (let new := g.log.drop (g.log.length - g.unflushed)
     Completes (exec .logFlush s) s fun m' => m'.mgt.unflushed = 0 ∧ m'.mgt.logSeq = g.logSeq + BitVec.ofNat 64 new.length ∧
       m'.mgt.log = g.log ∧ (∃ old, g.flashLog ++ new = old ++ m'.mgt.flashLog ∧
         (g.flashLog.length + new.length ≤ Config.flashLogRoom + 1 → old = [])) ∧ m' = { m.withReports m' with mgt := m'.mgt }) ∧
    (m.redfish = false → ∀ h f n d ch k u,
      Completes (exec (.tlsConnect h) s) s (fun m' => m' = m) ∧ Completes (exec (.firmwareUpdate f) s) s (fun m' => m' = m) ∧
      Completes (exec (.attestation n) s) s (fun m' => m' = m) ∧ Completes (exec (.configureDomain d ch) s) s (fun m' => m' = m) ∧
      Completes (exec (.clearFaultHistory k u) s) s (fun m' => m' = m)) ∧
    (m.redfish = true →
      (∀ h : TlsHello,
        (h.version = 13 → h.suite = true → h.chain = some g.ca → Completes (exec (.tlsConnect h) s) s
          (only { g with sessions := g.sessions ++ [g.ca] })) ∧
        (h.version ≠ 13 ∨ h.suite = false ∨ h.chain ≠ some g.ca → Completes (exec (.tlsConnect h) s) s
          (noted 4 { g with log := g.log ++ [.event 4 h.version m.now], unflushed := g.unflushed + 1 }))) ∧
      (∀ f : FwImage,
        (g.verify f = 1 → g.slot = 0 → Completes (exec (.firmwareUpdate f) s) s (only { g with imageB := some f, resultB := 1, otherVerified := true })) ∧
        (g.verify f = 1 → g.slot ≠ 0 → Completes (exec (.firmwareUpdate f) s) s (only { g with imageA := some f, resultA := 1, otherVerified := true })) ∧
        (f.format ≠ 1 ∨ 64 < f.rollback ∨ f.length = 0 ∨ f.body.length ≠ f.length → g.slot = 0 →
          Completes (exec (.firmwareUpdate f) s) s
            (noted 6 { g with imageB := some f, resultB := 2, otherVerified := false, log := g.log ++ [.event 6 2 m.now],
                              unflushed := g.unflushed + 1 }))) ∧
      (∀ nonce : BitVec 512, Completes (exec (.attestation nonce) s) s fun m' => ∃ sig, sig.length = 512 ∧
        m' = { m with mgt := { g with reports := (leBytes 2 1 ++ leBytes 2 4 ++ leBytes 1 g.rollback ++ leBytes 3 0 ++
          leBytes 8 m.serial.toNat ++ leBytes 4 0xB0 ++ leBytes 4 0 ++ leBytes 8 m.now ++ leBytes 64 nonce.toNat ++ leBytes 64 g.m0.toNat ++
          leBytes 64 g.m1.toNat ++ leBytes 64 g.m2.toNat ++ leBytes 64 g.m3.toNat ++ sig) :: g.reports } }) ∧
      (∀ k u, Completes (exec (.clearFaultHistory k u) s) s fun m' =>
        m'.flt.history = m.flt.history.filter (fun r => !(r.kind == k && r.unit == u)) ∧
        (∀ x, x ∈ m'.flt.pending ↔ x ∈ m.flt.pending ∧ m'.fencePending x.1 x.2 = true) ∧ m' = { m with flt := m'.flt }) ∧
      ∀ d, d < 16 → let y := m.getDom d
        let domIs (y' : Dom) (m' : Mach) : Prop := m'.getDom d = y' ∧ (∀ e, e ≠ d → m'.getDom e = m.getDom e)
        let measured (ch : DomChange) : Mgt :=
          { g with m3 := digestBits (sha512 (leBytes 64 g.m3.toNat ++ leBytes 64 (Config.changeDigest d ch).toNat)) }
        (∀ k, k ≤ 2 → y.host ≠ hostKindOf k → Completes (exec (.configureDomain d (.hostKind k)) s) s fun m' =>
          domIs { y with host := hostKindOf k } m' ∧ m' = { m with dom := m'.dom, mgt := measured (.hostKind k) }) ∧
        (∀ b n, m.ctxRangeOk d b n = true → Completes (exec (.configureDomain d (.contexts b n)) s) s fun m' =>
          domIs { y with ctxBase := BitVec.ofNat 14 b, ctxCount := BitVec.ofNat 15 n } m' ∧
            m' = { m with dom := m'.dom, mgt := if y.ctxBase = BitVec.ofNat 14 b ∧ y.ctxCount = BitVec.ofNat 15 n then g else measured (.contexts b n) }) ∧
        (∀ b n e, e < 16 → e ≠ d → (m.getDom e).ctxBase.toNat < b + n → b < (m.getDom e).ctxBase.toNat + (m.getDom e).ctxCount.toNat →
          0 < n → (m.getDom e).ctxCount.toNat ≠ 0 → Completes (exec (.configureDomain d (.contexts b n)) s) s fun m' => m' = m) ∧
        (∀ k nt sl, k ≤ 640 → nt < 2 ^ 14 → sl < 2 ^ 11 → Completes (exec (.configureDomain d (.quotas k nt sl)) s) s fun m' =>
          (m'.getDom d).quotaClusters.toNat = k ∧ (m'.getDom d).quotaNt.toNat = nt ∧ (m'.getDom d).quotaSlow.toNat = sl ∧
            m' = { m.withReports m' with mgt := if y.quotaClusters.toNat = k ∧ y.quotaNt.toNat = nt ∧ y.quotaSlow.toNat = sl then g
                                                else measured (.quotas k nt sl) }) ∧
        (∀ port addr, Completes (exec (.configureDomain d (.remote port addr)) s) s fun m' =>
          domIs { y with remotePort := port, remoteAddr := addr } m' ∧ m' = { m with dom := m'.dom }) ∧
        (∀ bytes, bytes.length = 64 → Completes (exec (.configureDomain d (.key bytes)) s) s fun m' =>
          domIs { y with key := bytes } m' ∧ m' = { m with dom := m'.dom }) ∧
        (∀ ca, Completes (exec (.configureDomain d (.managementCa ca)) s) s fun m' =>
          m' = { m with mgt := if g.ca = ca then g else { measured (.managementCa ca) with ca := ca } }) ∧
        (∀ mask : BitVec 32, (∀ e, e < 16 → m.domHeld e = true) → Completes (exec (.configureDomain d (.cores mask)) s) s fun m' =>
          ((∀ c, c < 32 → m'.coreDomain c = m.coreDomain c) ∨ m'.mgt = measured (.cores mask)) ∧ ∀ c, c < 32 → m'.coreDomain c =
            if mask.getLsbD c then some d else if y.cores.getLsbD c then none else m.coreDomain c) ∧
        (∀ gib a shares, let rs := ((a, gib * 2 ^ 30) :: shares).filter fun r => r.2 != 0
          m.memWf → gib < 2 ^ 11 → m.rangesFree d rs = true → slowRange a (gib * 2 ^ 30) = true →
          let holder (b : Nat) : Option Nat := (m.lastHeld.find? fun r => decide (r.1 ≤ b) && decide (b < r.1 + r.2.1)).map (·.2.2)
          Completes (exec (.configureDomain d (.memory gib a shares)) s) s fun m' =>
            domIs { y with hostmemGib := BitVec.ofNat 11 gib, hostAt := a, shares := shares } m' ∧
            ∀ b, m'.byteAt b = if (∃ r ∈ rs, r.1 ≤ b ∧ b < r.1 + r.2) ∧ (∃ e, holder b = some e ∧ e ≠ d) then 0 else m.byteAt b))

/-- R448, R480, R481, R483, R484, R485, R486, R487, R488: a commit of the power page is refused while a transition is in progress, in OFF
or FAULT, or with work that forbids it; an accepted one moves the module. PARK loses the tracts' state and takes the ports down. The brake
puts every running tract at P3. Sensors mark failures, raise ALERT_N at 105 °C and trip at 115 °C.
Choices of the model that show in it: log 129, 130, 132, 134 and 189. -/
def Obligations.Power : Prop :=
  ∀ (s : State), let m := s.mach
    let p := m.pwr
    let h := m.getHdr (hdrKey tyPwr 0)
    let busy : Prop := p.moving.isSome ∨ ∃ o ∈ p.ops, o.commit = true
    let gated : Prop := ∃ e ∈ m.clu, e.2.assigned = true ∧ p.gateStaged.getLsbD e.1 = true
    let jobs : Prop := ∃ e ∈ m.cmt.jobs, e.2.isSome
    let refused (why : Nat) (m' : Mach) : Prop :=
      m'.pwr = { p with stateStaged := p.stateCmd, opStaged := p.opCmd, gateStaged := p.gate, refuse := BitVec.ofNat 8 why } ∧
      m'.getHdr (hdrKey tyPwr 0) = h.occur 4 1 ∧ m' = { m.withReports m' with pwr := m'.pwr }
    (m.rst.inReset = false → h.quiesce = false → h.quiesced = false →
      (busy → Completes (exec (.pwrCommit .mgmt) s) s (refused 1)) ∧
      (¬ busy → (p.off = true ∨ p.fault = true) → Completes (exec (.pwrCommit .mgmt) s) s (refused 2)) ∧
      (¬ busy → p.off = false → p.fault = false → ((p.stateStaged ≠ 0 ∧ jobs) ∨ gated) → Completes (exec (.pwrCommit .mgmt) s) s (refused 3)) ∧
      (¬ busy → p.off = false → p.fault = false → (p.stateStaged = 0 ∨ ¬ jobs) → ¬ gated → Completes (exec (.pwrCommit .mgmt) s) s fun m' =>
        m'.pwr.stateCmd = p.stateStaged ∧ m'.pwr.opCmd = p.opStaged ∧ m'.pwr.gate = p.gateStaged ∧ m'.pwr.state = p.state ∧
        m'.pwr.moving = (if p.stateStaged = p.state then none else some p.stateStaged.toNat) ∧ m'.pwr.actual = p.actual ∧
        (p.stateStaged = 0 → p.state = 0 → ∀ t, t < 4 → opAt p.actual t ≠ (if p.brake then 3 else opAt p.opStaged t) →
          ({ tract := t, op := if p.brake then 3 else opAt p.opStaged t, commit := true, switched := false } : OpMove) ∈ m'.pwr.ops))) ∧
    (p.moving = none → Completes (exec .powerTransitionDone s) s fun m' => m' = { m with pwr := { p with ops := p.ops.filter fun o => !o.switched } }) ∧
    (p.moving = some 1 → p.state = 0 → Completes (exec .powerTransitionDone s) s fun m' =>
      m'.pwr.state = 1 ∧ m'.pwr.moving = none ∧ m' = { m with pwr := m'.pwr }) ∧
    (p.moving = some 2 → p.state ≠ 2 → m.memWf → Completes (exec .powerTransitionDone s) s fun m' =>
      m'.pwr.state = 2 ∧ m'.pwr.moving = none ∧ m'.cores = [] ∧ (∀ k n, m'.counter k n = 0) ∧
      (∀ q, q < 48 → (m'.getLnk q).state = .down) ∧ (∀ c, m.channelPresent c = true → (m'.getChan c).mode = 2) ∧
      (∀ q o, q < 10240 → m'.storeByte q o = 0) ∧ ∀ b, b < sramBase 0 → m'.byteAt b = m.byteAt b) ∧
    (p.moving = some 3 → Completes (exec .powerTransitionDone s) s fun m' =>
      m'.pwr.off = true ∧ m'.pwr.moving = none ∧ m'.cores = [] ∧ (m'.getSvc 0).state = 0 ∧ (m'.getSvc 1).state = 0 ∧
      ∀ q, q < 48 → (m'.getLnk q).state = .down) ∧
    (p.moving = some 0 → p.state ≠ 2 → p.off = false → Completes (exec .powerTransitionDone s) s fun m' =>
      m'.pwr.state = 0 ∧ m'.pwr.moving = none ∧ ∀ t, t < 4 → opAt m'.pwr.actual t = if p.brake then 3 else opAt p.opCmd t) ∧
    (∀ t o, t < 4 → o.op < 4 → m.aclkOn = true → p.ops.find? (fun o => o.tract == t && !o.switched) = some o → opAt p.actual t ≠ o.op →
      Completes (exec (.aclkSwitch t) s) s fun m' => opAt m'.pwr.actual t = o.op ∧ (∀ u, u < 4 → u ≠ t → opAt m'.pwr.actual u = opAt p.actual u) ∧
        (m'.getTrc t).mhz = (if o.op = 0 then 1200 else if o.op = 1 then 1000 else if o.op = 2 then 800 else 500) ∧
        m'.getHdr (hdrKey tyTrc t) = (m.getHdr (hdrKey tyTrc t)).occur 1 1 ∧ m'.getHdr (hdrKey tyPwr 0) = h.occur 5 1 ∧
        ∀ i j, m.job? i = some j → j.plat.isSome → ∃ j', m'.job? i = some j' ∧ j'.forced ≠ 0) ∧
    (m.pins.brakeN = true → Completes (exec .pwrBrakeAssert s) s fun m' => m'.pins = { m.pins with brakeN := false } ∧ m'.pwr.brake = true ∧
      (m'.getHdr (hdrKey tyPwr 0)).event.getLsbD 2 = true ∧ m'.pwr.opCmd = p.opCmd ∧
      (m.aclkOn = true → ∀ t, t < 4 → opAt m'.pwr.actual t = 3) ∧ (m.aclkOn = false → m'.pwr.actual = p.actual)) ∧
    (m.pins.brakeN = false → Completes (exec .pwrBrakeRelease s) s fun m' => m'.pins = { m.pins with brakeN := true } ∧ m'.pwr.brake = false ∧
      m'.pwr.actual = p.actual ∧ (m.aclkOn = true → ∀ t, t < 4 → opAt p.actual t ≠ opAt p.opCmd t →
        ∃ o ∈ m'.pwr.ops, o.tract = t ∧ o.op = opAt p.opCmd t ∧ o.switched = false)) ∧
    (∀ t, t < 4 → m.aclkOn = true → Completes (exec (.droop t) s) s fun m' =>
      m'.getHdr (hdrKey tyTrc t) = (m.getHdr (hdrKey tyTrc t)).occur 0 1 ∧ m'.getHdr (hdrKey tyPwr 0) = h.occur 3 1 ∧
      (∀ u, u ≠ t → m'.getTrc u = m.getTrc u) ∧ m'.flt.history = m.flt.history ∧ m'.pwr = p) ∧
    (m.rst.inReset = false →
      (∀ (mv : List (Option Nat)) (mw : List Nat), Completes (exec (.railTelemetry mv mw) s) s fun m' =>
        (∀ n, n < 16 →
          (∀ x, mv.getD n none = some x → Tab.get 0 m'.pwr.volt n = BitVec.ofNat 16 x ∧ Tab.get 0 m'.pwr.railMw n = mw.getD n 0 ∧
            Tab.get none m'.pwr.railSilent n = none) ∧
          (mv.getD n none = none → Tab.get 0 m'.pwr.volt n = Tab.get 0 p.volt n ∧ Tab.get 0 m'.pwr.railMw n = Tab.get 0 p.railMw n ∧
            match Tab.get none p.railSilent n with
            | none => Tab.get none m'.pwr.railSilent n = some (m.now, false)
            | some (t, noted) => Tab.get none m'.pwr.railSilent n = some (t, noted || decide (t + 10000000 ≤ m.now)) ∧
                (noted = false → t + 10000000 ≤ m.now → .event 8 n m.now ∈ m'.mgt.log))) ∧
        m'.pwr.moduleW = BitVec.ofNat 16 (((List.range 16).map fun n => Tab.get 0 m'.pwr.railMw n).sum / 1000) ∧
        (∀ r ∈ m'.mgt.log, r ∈ m.mgt.log ∨ ∃ n, n < 16 ∧ mv.getD n none = none ∧ r = .event 8 n m.now) ∧
        m' = { m with pwr := { p with volt := m'.pwr.volt, railMw := m'.pwr.railMw, railSilent := m'.pwr.railSilent, moduleW := m'.pwr.moduleW },
                      mgt := { m.mgt with log := m'.mgt.log, unflushed := m'.mgt.unflushed } }) ∧
      ∀ temps : List Int, Completes (exec (.sensorSample temps) s) s fun m' =>
        let hot (x : Int) : Prop := ∃ r ∈ m'.readings, 16 * x ≤ r.2
        (∀ i, i < 672 → let old := Tab.get {} p.sensors i
          Tab.get {} m'.pwr.sensors i =
            if i < temps.length ∧ (640 ≤ i ∨ m.clusterPresent i = true) then
              let x := temps.getD i 0
              { temp := BitVec.ofInt 16 x, failed := old.failed || decide (x < -640) || decide (2400 < x) }
            else old) ∧
        (m'.pwr.alert = true ↔ (p.alert = false ∧ hot 105) ∨ (p.alert = true ∧ ∃ r ∈ m'.readings, 1600 < r.2)) ∧
        (m'.pwr.fault = true ↔ p.fault = true ∨ (2 ≤ m.rst.phase.toNat ∧ hot 115)) ∧
        (p.fault = false → m'.pwr.fault = true → m'.pins.tripN = false ∧ ∀ q, q < 48 → (m'.getLnk q).state = .down) ∧
        (∀ b, m'.byteAt b = m.byteAt b))

/-- R358, R409, R479, R492 to R496, R505, R506, R525: a module reset that is recognised holds the module at its reset values, but for what survives:
OTP and flash with the easements recorded there, the fault history, and under any reset but power-on the memory that bring-up zeroes later; a warm reset keeps the time base. A
narrower one during a reset changes RESETS alone. A reset frame needs its serial number, a newer SEQ and its tag. The SPI contacts are
high-impedance while COLD_RESET_N or PWR_GOOD_IN is low, and driven through a warm reset. R520 to R522: every contact of the package has one
use, and every signal one contact.
Choices of the model that show in it: log 9, 128, 135, 137, 169 and 191. -/
def Obligations.Resets : Prop :=
  ∀ (s : State), let m := s.mach
    let r := m.rst
    let base (m' : Mach) : Prop := m' =
      { State.reset.mach with serial := m.serial, mem := m'.mem, granErr := m'.granErr, time := m'.time, flt := m'.flt, mgt := m'.mgt,
                              pwr := m'.pwr, pins := m'.pins, rst := m'.rst }
    let keeps (m' : Mach) : Prop := m'.flt.history = m.flt.history ∧ m'.flt.cper = [] ∧ m'.mgt.imageA = m.mgt.imageA ∧
      m'.mgt.imageB = m.mgt.imageB ∧ m'.mgt.option0 = m.mgt.option0 ∧ m'.mgt.option1 = m.mgt.option1 ∧
      m'.mgt.keyDigests = m.mgt.keyDigests ∧ m'.mgt.keysRevoked = m.mgt.keysRevoked ∧ m'.mgt.rollback = m.mgt.rollback ∧
      m'.mgt.flashLog = m.mgt.flashLog ∧ m'.mgt.ptime = m.mgt.ptime ∧ m'.mgt.eases = m.mgt.eases
    let driven (m' : Mach) : Prop := m.pins.pwrGood = true → m.pins.coldN = true → m'.spi = .driven
    let outputs (m' : Mach) (b : BusState) (l g : LaneState) : Prop := m'.serialBuses = b ∧ (∀ p, m'.linkLanes p = l ∧ m'.serviceLanes p = l) ∧ m'.managementLanes = g ∧
      (l = .electricalIdle → m'.pins.alertN = true ∧ m'.pins.tripN = true ∧ m'.pins.gpioDir = 0) ∧
      (l = .framesOnly → m'.pins.alertN = m.pins.alertN ∧ m'.pins.tripN = m.pins.tripN ∧ m'.pins.gpioDir = m.pins.gpioDir ∧
        m'.pins.gpioOut = m.pins.gpioOut)
    -- held by a source from bring-up's start, or from option loading where that runs
    let held (source : Nat) (m' : Mach) : Prop := base m' ∧ keeps m' ∧ m'.rst.inReset = true ∧ m'.rst.source = BitVec.ofNat 4 source ∧
      m'.rst.resume = 1 ∧ m'.rst.ready = false ∧ m'.rst.resets = r.resets + 1 ∧ m'.mem = m.mem
    (Completes (exec .powerOn s) s fun m' => base m' ∧ keeps m' ∧ m'.rst.inReset = true ∧ m'.rst.source = 1 ∧ m'.rst.resume = 1 ∧
      m'.rst.resets = 0 ∧ m'.rst.lastSeq = r.flashSeq ∧ m'.time.ns = 0 ∧ (∀ b, m'.byteAt b = 0) ∧ m'.pins.pwrGood = false ∧
      m'.spi = .highImpedance) ∧
    (∀ ns, ns < 100 → Completes (exec (.coldReset ns) s) s (fun m' => m' = m) ∧ Completes (exec (.warmReset ns) s) s fun m' => m' = m) ∧
    (∀ ns, 1000 ≤ ns →
      (r.inReset = false → (r.phase ≠ 3 ∨ r.stopped = true) →
        (Completes (exec (.coldReset ns) s) s fun m' => held 2 m' ∧ m'.time.ns = 0 ∧ m'.mgt.log = [] ∧ m'.pins.coldN = false ∧
          m'.rst.lastSeq = r.lastSeq ∧ m'.spi = .highImpedance ∧ outputs m' .released .electricalIdle .electricalIdle) ∧
        (Completes (exec (.warmReset ns) s) s fun m' => held 3 m' ∧ m'.time.ns = m.time.ns ∧ m'.mgt.log = m.mgt.log ∧
          m'.pins.warmN = false ∧ m'.rst.lastSeq = r.lastSeq ∧ driven m' ∧ outputs m' .idle .framesOnly .active)) ∧
      (r.inReset = false → r.phase = 3 → r.stopped = false → Completes (exec (.warmReset ns) s) s fun m' => keeps m' ∧
        m'.rst.inReset = true ∧ m'.rst.source = 3 ∧ m'.rst.resume = 3 ∧ m'.rst.option.toNat = min 15 (r.option.toNat + 1) ∧
        m'.rst.unit = r.unit ∧ m'.mgt.m0 = m.mgt.m0 ∧ (m'.getHdr (hdrKey tyRst 0)).event.getLsbD 1 = true) ∧
      (r.inReset = true → r.source = 2 → Completes (exec (.warmReset ns) s) s fun m' =>
        m' = { m with pins := { m.pins with warmN := false }, rst := { r with resets := r.resets + 1 } }) ∧
      (r.inReset = true → r.source = 1 → Completes (exec (.coldReset ns) s) s fun m' => m' = { m with pins := { m.pins with coldN := false } })) ∧
    (r.inReset = true → Completes (exec .resetRelease s) s fun m' =>
      m'.rst = { r with inReset := false, phase := BitVec.ofNat 4 r.resume, releasedAt := m'.now } ∧
      m'.pins = { m.pins with pwrGood := true, coldN := true, warmN := true } ∧
      m'.time = (if r.source = 1 ∨ r.source = 2 ∨ r.source = 4 then {} else m.time) ∧
      m' = { m with pins := m'.pins, time := m'.time, rst := m'.rst }) ∧
    (r.inReset = false → Completes (exec .resetRelease s) s fun m' => m' = m) ∧
    (r.inReset = false → 5 ≤ r.phase.toNat →
      (m.mgt.wdogAt + m.mgt.wdogMs.toNat * 1000000 ≤ m.now → Completes (exec .managementWatchdog s) s fun m' => held 6 m' ∧
        m'.mgt.wdogExpired = true ∧ m'.mgt.trialFailed = m.mgt.trial ∧ m'.time.ns = m.time.ns ∧ driven m') ∧
      (m.now < m.mgt.wdogAt + m.mgt.wdogMs.toNat * 1000000 → Completes (exec .managementWatchdog s) s fun m' => m' = m)) ∧
    (∀ bs : List Byte, r.inReset = false → m.mgt.portsUp = true →
      let n (o k : Nat) : Nat := cmdN bs o k
      let good : Prop := 64 ≤ bs.length ∧ n 0 1 = 1 ∧ (n 1 1 = 1 ∨ n 1 1 = 2) ∧ n 2 6 = 0 ∧ n 8 8 = m.serial.toNat ∧
        r.lastSeq.toNat < n 16 8 ∧ n 24 8 = 0 ∧ (bs.drop 32).take 32 = (hmac512 r.key (bs.take 32)).take 32
      (good → (r.phase ≠ 3 ∨ r.stopped = true) → Completes (exec (.resetFrame bs) s) s fun m' =>
        held (if n 1 1 = 1 then 4 else 5) m' ∧ m'.rst.lastSeq = BitVec.ofNat 64 (n 16 8)) ∧
      (¬ good → Completes (exec (.resetFrame bs) s) s fun m' =>
        m'.getHdr (hdrKey tyRst 0) = (m.getHdr (hdrKey tyRst 0)).occur 0 1 ∧ m' = m.withReports m')) ∧
    -- the contacts of the package (R520 to R522)
    (∀ l k, l < 384 → k < 5 → let u := l % 96
      contactAt (1 + 60 * (l / 96 % 2) + 5 * (u % 12) + k) ((if l / 96 < 2 then 1 else 97) + u / 12) = some (
        if k = 0 then .lane .link l .txP else if k = 1 then .lane .link l .txN else if k = 2 then .vss
        else if k = 3 then .lane .link l .rxP else .lane .link l .rxN)) ∧
    (∀ n, n < 4 → contactAt 120 (50 + 3 * n) = some (.avsClk n) ∧ contactAt 120 (51 + 3 * n) = some (.avsMdata n) ∧
      contactAt 120 (52 + 3 * n) = some (.avsSdata n) ∧
      contactAt (1 + 60 * (n % 2) + 29) (if n < 2 then 9 else 96) = some (.refclkLnk n false) ∧
      contactAt (1 + 60 * (n % 2) + 30) (if n < 2 then 9 else 96) = some (.refclkLnk n true)) ∧
    (∀ n, n < 16 → contactAt 118 (40 + n) = some (.gpio n)) ∧
    (∀ c q, 6 ≤ c → c ≤ 117 → 10 ≤ q → q ≤ 95 →
      contactAt c q = some (if (c + q) % 2 = 0 then .vss else .power (coreRail c q))) ∧
    (∀ c q, (contactAt c q).isSome = true ↔ 1 ≤ c ∧ c ≤ 120 ∧ 1 ≤ q ∧ q ≤ 104) ∧
    (∀ c q c' q' x, contactAt c q = some x → contactAt c' q' = some x → x ≠ .vss → (∀ y, x ≠ .power y) → c = c' ∧ q = q')

/-- R14, R27, R28, R81, R358, R405, R460, R461, R471, R475, R498 to R501, R525: the phases of bring-up: each ends in the next where it succeeds,
and stops bring-up, or restarts it at option loading, where it fails. The local routes of version 0 deliver to a present unit at a tract that
borders it, and reach such a tract by at most two hops of the ring from any other; a unit that is not present has none.
Choices of the model that show in it: log 6, 109, 138, 139, 153 and 190. -/
def Obligations.BringUp : Prop :=
  ∀ (s : State), let m := s.mach
    let r := m.rst
    let inPhase (p : Nat) : Prop := r.inReset = false ∧ r.stopped = false ∧ r.phase.toNat = p ∧ m.pwr.fault = false
    let stops (why : Nat) (m' : Mach) : Prop := m'.rst.stopped = true ∧ m'.rst.stopReason = BitVec.ofNat 8 why ∧ m'.rst.phase = r.phase ∧
      (m'.getHdr (hdrKey tyRst 0)).event.getLsbD 3 = true
    let restarts (m' : Mach) : Prop := m'.rst.phase = 3 ∧ m'.rst.unit = r.unit + 1 ∧ m'.rst.stopped = false
    (∀ x : Supplies, x.outside = true → exec (.supplyCheck x) s = .fault .outsideElectricalLimits) ∧
    (∀ x : Supplies, x.outside = false → inPhase 1 →
      (railsGood (r.source == 1) x.rails = true → x.clocks = true → m.pins.pwrGood = true → x.hottest < 1840 → Completes (exec (.supplyCheck x) s) s fun m' =>
        m'.pins = { m.pins with tripN := true } ∧ m'.rst = { r with phase := 2 } ∧ (m.pins.coldN = true → m'.spi = .driven) ∧
        (∀ i, i < 672 → ((Tab.get {} m'.pwr.sensors i).failed = true ↔ (Tab.get {} m.pwr.sensors i).failed = true ∨ i ∈ x.badSensors)) ∧
        (∀ i ∈ x.badSensors, i < 640 → (Tab.get {} m.pwr.sensors i).failed = false → i ∈ m'.pln.avoidClusters) ∧
        (x.badSensors = [] → m' = { m with pins := m'.pins, rst := m'.rst })) ∧
      (railsGood (r.source == 1) x.rails = false ∨ x.clocks = false ∨ 1840 ≤ x.hottest → Completes (exec (.supplyCheck x) s) s fun m' => m' = m)) ∧
    (inPhase 2 →
      (Completes (exec (.fuseLoad true) s) s fun m' => m'.rst = { r with phase := 3 } ∧
        m'.mgt = { m.mgt with otpGood := true, m0 := m'.mgt.m0 } ∧ m' = { m with mgt := m'.mgt, rst := m'.rst }) ∧
      Completes (exec (.fuseLoad false) s) s (stops 2)) ∧
    (inPhase 3 →
      (m.mgt.pickOption = none → Completes (exec .optionLoading s) s (stops 3)) ∧
      (∀ o, m.mgt.pickOption = some o → 
        ((∀ k, k < 640 → fencesCluster o.fence k = true) ∨ (∀ n, n < 64 → n ∈ o.fence.channels) ∨ o.fence.service = true) →
          Completes (exec .optionLoading s) s (stops 4)) ∧
      ∀ o, m.mgt.pickOption = some o →
        o.fence.service = false → (∃ k, k < 640 ∧ fencesCluster o.fence k = false ∧ m.fencePending 1 k = false) →
        (∃ k, k < 64 ∧ k ∉ o.fence.channels ∧ m.fencePending 5 k = false) →
        Completes (exec .optionLoading s) s fun m' => m'.rst.phase = 4 ∧ m'.rst.stopped = false ∧ m'.self = o.module ∧ m'.mgt.portsUp = true ∧
          m'.mgt.ca = o.ca ∧ m'.rst.key = o.resetKey ∧ m'.rst.flashSeq = r.lastSeq ∧ m'.pins.gpioDir = o.gpioDir ∧ m'.pins.gpioOut = o.gpioOut ∧
          (∀ k, k ∈ m'.fence.clusters ↔ k ∈ o.fence.clusters ∨ (1, k) ∈ m.pendingUnits) ∧
          (∀ k, k ∈ m'.fence.channels ↔ k ∈ o.fence.channels ∨ (5, k) ∈ m.pendingUnits) ∧
          ∀ d, d < 16 → let y := m'.getDom d
            let x := o.domains.getD d {}
            y.host = hostKindOf x.host ∧ y.ctxBase = BitVec.ofNat 14 x.ctxBase ∧ y.ctxCount = BitVec.ofNat 15 x.ctxCount ∧
            y.quotaClusters = BitVec.ofNat 10 x.clusters ∧ y.hostmemGib = BitVec.ofNat 11 x.hostmemGib ∧ y.hostAt = x.hostAt ∧
            y.shares = x.shares ∧ y.key = x.key ∧ y.remotePort = x.remotePort ∧ y.remoteAddr = x.remoteAddr ∧ y.out = [] ∧
            (m.mgt.easeOf d x = none → m'.getPlnDom d = {}) ∧
            ∀ k nt w, m.mgt.easeOf d x = some (k, nt, w) → let e := m'.getPlnDom d
              (e.easeState = 2 ∨ e.easeState = 3) ∧ e.easeLink = BitVec.ofNat 16 w ∧
              (e.easeState = 2 → e.eased = BitVec.ofNat 10 k ∧ e.easeNt = BitVec.ofNat 32 nt)) ∧
    (inPhase 4 → m.mgt.trialFailed = false → m.mgt.wdogExpired = false → m.mgt.preferred ≤ 1 →
      let runs (slot : Nat) (m' : Mach) : Prop := m'.rst.phase = 5 ∧ m'.mgt.slot = slot ∧ m'.mgt.wdogAt = m.now ∧ m'.mgt.unflushed = 0 ∧
        ∃ f, m.mgt.image slot = some f ∧ m'.mgt.version = f.version ∧ m'.mgt.runRollback = f.rollback ∧ m'.mgt.m1 = extend 0 (fwDigest f)
      let p := m.mgt.preferred
      (m.mgt.verifySlot p = 1 → Completes (exec .firmwareVerification s) s (runs p)) ∧
      (m.mgt.verifySlot p ≠ 1 → m.mgt.verifySlot (1 - p) = 1 → Completes (exec .firmwareVerification s) s fun m' =>
        runs (1 - p) m' ∧ (m'.getHdr (hdrKey tyMgt 0)).event.getLsbD 1 = true) ∧
      (m.mgt.verifySlot p ≠ 1 → m.mgt.verifySlot (1 - p) ≠ 1 → Completes (exec .firmwareVerification s) s (stops 5))) ∧
    (inPhase 5 → m.memWf → ∀ failed : List Nat,
      ((∀ n ∈ failed, m.channelPresent n = false) → Completes (exec (.lpddr5xTraining failed) s) s fun m' => m'.rst = { r with phase := 6 } ∧
        (∀ b, m'.byteAt b = if b < 0x010000000000 then 0 else m.byteAt b) ∧ ∀ n, m.channelPresent n = true → (m'.getChan n).mode = 1) ∧
      ((∃ n ∈ failed, m.channelPresent n = true) → r.unit.toNat < 4 → Completes (exec (.lpddr5xTraining failed) s) s fun m' =>
        restarts m' ∧ MemSame m m') ∧
      ((∃ n ∈ failed, m.channelPresent n = true) → 4 ≤ r.unit.toNat → Completes (exec (.lpddr5xTraining failed) s) s (stops 6))) ∧
    (inPhase 6 → m.memWf → ∀ banks gens : List Nat,
      ((∀ n ∈ banks, m.bankPresent n = false) → Completes (exec (.nearTierSelfTest banks gens) s) s fun m' => m'.rst.phase = 7 ∧
        (∀ b, 0x010000000000 ≤ b → b < 0x010000000000 + 8 * 2 ^ 31 → m'.byteAt b = 0) ∧
        (∀ q o, q < 10240 → m'.storeByte q o = 0) ∧ (∀ b, b < 0x010000000000 → m'.byteAt b = m.byteAt b) ∧
        m'.rng.done = true ∧ (m'.rng.fail = true ↔ ∃ g ∈ gens, m.clusterPresent (genCluster g) = true)) ∧
      ((∃ n ∈ banks, m.bankPresent n = true) → r.unit.toNat < 4 → Completes (exec (.nearTierSelfTest banks gens) s) s restarts)) ∧
    (inPhase 7 → ∀ (rs : List Training) (svc : List Bool), Completes (exec (.linkTraining rs svc) s) s fun m' => m'.rst = { r with phase := 8 } ∧
      (∀ q, q < 2 → (m'.getSvc q).state = if svc.getD q false then 2 else 0) ∧
      (∀ q, q < 48 → m.portWidth q = 0 → m'.getLnk q = m.getLnk q) ∧
      ∀ t, t < 4 → let x := m'.getRte t
        x.inject = false ∧ x.v0.state = .injecting ∧ (∀ k, Tab.get 0 x.v0.mt k = 0) ∧ (∀ k, Tab.get 0 x.v0.mc k = 0) ∧
        ∀ l ∈ endpoints, let e := Tab.get 0 x.v0.lt l
          let hop (u c : Nat) : Prop := (c = 12 ∨ c = 13) ∧ (Tab.get 0 (m'.getRte u).v0.lt l).getLsbD c = true
          (m.endpointPresent l = false → e = 0) ∧
          (m.endpointPresent l = true → e.getLsbD 31 = true ∧
            (t ∈ tractsOf l → e = BitVec.ofNat 32 (2 ^ 31 + 2 ^ deliveryCode l)) ∧
            (t ∉ tractsOf l → (∃ c, hop t c) ∧ (∀ c, c < 31 → e.getLsbD c = true → c = 12 ∨ c = 13) ∧
              ∀ c, hop t c → ringTo t c ∈ tractsOf l ∨ ((∃ c', hop (ringTo t c) c') ∧
                ∀ c', hop (ringTo t c) c' → ringTo (ringTo t c) c' ∈ tractsOf l)))) ∧
    (inPhase 8 → r.ready = false → m.pwr.brake = false → Completes (exec .ready s) s fun m' =>
      m'.rst = { r with ready := true, readyNs := BitVec.ofNat 48 (m.now - r.releasedAt) } ∧
      (∀ c, c < 32 → m'.apc.running.getLsbD c = true ↔ ∃ d, d < 16 ∧ (m.getDom d).host = .localHost ∧ r.domState.getLsbD d = false ∧
        (m.getDom d).cores.getLsbD c = true) ∧ m' = { m with apc := m'.apc, rst := m'.rst })

/-! ## The machine as a whole -/

/-- R177: a core instruction whose predicate is not met has no effect but that it is passed over (COR_RETIRED's description counts it with the
executed ones); with PRED 0 and PNEG 0 the predicate is always met; the all-zero word is NOP; and a core that does not stand at an
instruction's word does nothing with it. Every core instruction of the table.
Choices of the model that show in it: log 12 and 14. -/
def Obligations.SkippedInstructions : Prop :=
  (∀ (s : State) (q : Nat) (f : CoreFields) (flt1 flt2 : List (Nat × Int)), ∀ x ∈ coreCommands q f flt1 flt2,
    let w := f.word x.2.1 x.2.2
    (s.mach.standsAt q w = true → (s.mach.getCore q).pred f.pred = f.pneg → ChangesCore (exec x.1 s) s q id) ∧
    (s.mach.standsAt q w = false → exec x.1 s = .next s)) ∧
  (∀ c : CoreSt, c.pred 0 ≠ false) ∧
  (∀ q flt1 flt2, ∀ x ∈ coreCommands q {} flt1 flt2, ({} : CoreFields).word x.2.1 x.2.2 = 0 ↔ x.1 = .nop q {})

/-- R176, R281: an instruction word holds each field at its bits, so that no two core instructions of the table, and no two update
instructions, with fields in range, share a word. -/
def Obligations.WordsTellInstructionsApart : Prop :=
  let coreOk (f : CoreFields) : Prop := f.pred < 8 ∧ f.a < 32 ∧ f.b < 32 ∧ f.c < 32 ∧ f.flags < 8 ∧ f.imm < 2 ^ 32
  let updOk (u : UpdFields) : Prop := u.d < 32 ∧ u.a < 64 ∧ u.b < 64 ∧ u.c < 64 ∧ u.f < 8 ∧ u.imm < 2 ^ 32
  (∀ (f : CoreFields) (cls op : Nat), coreOk f → cls < 8 → op < 128 → let w := f.word cls op
    (w.extractLsb' 61 3).toNat = cls ∧ w.getLsbD 60 = f.pneg ∧ (w.extractLsb' 57 3).toNat = f.pred ∧ (w.extractLsb' 50 7).toNat = op ∧
    (w.extractLsb' 45 5).toNat = f.a ∧ (w.extractLsb' 40 5).toNat = f.b ∧ (w.extractLsb' 35 5).toNat = f.c ∧
    (w.extractLsb' 32 3).toNat = f.flags ∧ (w.extractLsb' 0 32).toNat = f.imm) ∧
  (∀ (u : UpdFields) (op : Nat), updOk u → op < 64 → let w := u.word op
    (w.extractLsb' 58 6).toNat = op ∧ (w.extractLsb' 53 5).toNat = u.d ∧ (w.extractLsb' 47 6).toNat = u.a ∧
    (w.extractLsb' 41 6).toNat = u.b ∧ (w.extractLsb' 35 6).toNat = u.c ∧ (w.extractLsb' 32 3).toNat = u.f ∧
    (w.extractLsb' 0 32).toNat = u.imm) ∧
  ∀ (q : Nat) (f g : CoreFields) (flt1 flt2 : List (Nat × Int)), coreOk f → coreOk g →
    ∀ x ∈ coreCommands q f flt1 flt2, ∀ y ∈ coreCommands q g flt1 flt2, f.word x.2.1 x.2.2 = g.word y.2.1 y.2.2 → x = y

/-- R33, R34, R38, R50, R391, R438: a register write acts alike for every requester that reaches the page: the planner firmware and the
management processor see every page; a local host what its domain reaches, and any other access of a host is refused and counted on its page; a
packet's write is acknowledged. Each register command of the table is the write of its register.
Choices of the model that show in it: log 141, 144 and 145. -/
def Obligations.RegisterWritesByRequester : Prop :=
  ∀ (s : State), let m := s.mach
    let write (who : Requester) (ty p inst off size : Nat) (v : BitVec 64) := exec (.registerWrite who (pageAddr ty p inst off) size v) s
    (m.rst.inReset = false →
      (∀ a n v, exec (.registerWrite .planner a n v) s = exec (.registerWrite .mgmt a n v) s) ∧
      (∀ d a n v, (m.getDom d).host ≠ .localHost → Completes (exec (.registerWrite (.host d) a n v) s) s fun m' => m' = m) ∧
      (∀ d ty p inst off n v, (m.getDom d).host = .localHost → ty < 256 → p < 4 → inst < 16384 → off < 4096 →
        ((pageExists ty inst p = false ∨ (m.reaches d ty inst p).2 = false) → Completes (write (.host d) ty p inst off n v) s fun m' =>
          m'.getHdr (hdrKey tyDom d) = (m.getHdr (hdrKey tyDom d)).occur 0 1 ∧ m' = m.withReports m') ∧
        (pageExists ty inst p = true → (m.reaches d ty inst p).2 = true → ty ≠ tyThd → ty ≠ tyPln → (n = 4 ∨ n = 8) → off % n = 0 →
          write (.host d) ty p inst off n v = write .mgmt ty p inst off n v)) ∧
      (∀ (x : Packet) t n (v : BitVec 64), m.takes x 0x05 t → x.tc ≠ 3 → (stLocal x.src = mgtUnit ∨ stLocal x.src = plnUnit) →
        x.data.length = n → n ≤ 8 → v.toNat = leNat x.data →
        ∃ t1, exec (.registerWrite .mgmt x.addr n v) { s with mach := { m with arrived := m.arrived.erase { target := t, pkt := x } } } = .next t1 ∧
          Completes (exec (.registerWrite (.packet x) x.addr n v) s) s fun m' =>
            (Sent t1.mach m' t fun y => y.op = 0x13 ∧ y.tc = 1 ∧ y.dst = x.src ∧ y.arg = x.arg ∧ y.data = []) ∧
            m' = { t1.mach with rte := m'.rte, flowSeq := m'.flowSeq, thdDom := m'.thdDom }) ∧
      (∀ port g (v : BitVec 32), m.hearsGram port 5 g → (m.getDom g.domain).duplicate g.seq = false → g.length = 4 →
        v.toNat = leNat g.data → g.addr = pageAddr tyDom 0 g.domain 0x01C →
        Completes (exec (.registerWrite (.remote port g) g.addr 4 (v.setWidth 64)) s) s fun m' =>
          (m'.getHdr (hdrKey tyDom g.domain)).mask = v.setWidth 8)) ∧
    ∀ who : Requester, let w := write who
      (∀ t, t < 4 → exec (.arm0 who t) s = w tyRte 0 t 0x040 4 0x100 ∧ exec (.arm1 who t) s = w tyRte 0 t 0x040 4 0x200 ∧
        exec (.flip who t) s = w tyRte 0 t 0x040 4 0x400 ∧
        (∀ r : BitVec 24, exec (.rteRankWrite who t 0 r) s = w tyRte 0 t 0x044 4 (r.setWidth 64) ∧
          exec (.rteRankWrite who t 1 r) s = w tyRte 0 t 0x048 4 (r.setWidth 64)) ∧
        (∀ e : BitVec 32, exec (.rteMtData who t e) s = w tyRte 1 t 0x008 4 (e.setWidth 64) ∧
          exec (.rteLtData who t e) s = w tyRte 2 t 0x008 4 (e.setWidth 64)) ∧
        ∀ e : BitVec 64, exec (.rteMcData who t e) s = w tyRte 3 t 0x008 8 e) ∧
      (∀ ns : BitVec 64, exec (.rteTimeSet who ns) s = w tyRte 0 0 0x078 8 ns) ∧
      (∀ p, exec (.retrain who p) s = w tyLnk 0 p 0x040 4 1) ∧
      (∀ d (n : BitVec 32), exec (.updProgCount who d n) s = w tyUpd 1 d 0x008 4 (n.setWidth 64)) ∧
      (∀ c (v : BitVec 32), exec (.ctxActivate who c) s = w tyCtx 0 c 0x040 4 1 ∧ exec (.ctxDeactivate who c) s = w tyCtx 0 c 0x040 4 2 ∧
        exec (.ctxReset who c) s = w tyCtx 0 c 0x040 4 4 ∧ exec (.ctxSqTail who c v) s = w tyCtx 1 c 0x000 4 (v.setWidth 64) ∧
        exec (.ctxCqHead who c v) s = w tyCtx 1 c 0x008 4 (v.setWidth 64)) ∧
      (∀ d, exec (.domReset who d) s = w tyDom 0 d 0x064 4 1) ∧
      (∀ v : BitVec 32, exec (.rstDomainHold who v) s = w tyRst 0 0 0x058 4 (v.setWidth 64)) ∧
      (∀ i (v : BitVec 64), i < 4 → exec (.apcAssign who (8 * i) 8 v) s = w tyApc 0 0 (0x040 + 8 * i) 8 v) ∧
      (∀ k n (v : BitVec 32), n < 64 → exec (.thdSelWrite who k n v) s = w tyThd 0 (k + 1) (0x040 + 4 * n) 4 (v.setWidth 64)) ∧
      (∀ n (v : BitVec 32), n < 16 → exec (.thdGselWrite who n v) s = w tyThd 0 0 (0x060 + 4 * n) 4 (v.setWidth 64)) ∧
      (∀ v : BitVec 32, exec (.thdTraceCtrl who v) s = w tyThd 0 0 0x044 4 (v.setWidth 64)) ∧
      exec (.fwActivate who) s = w tyMgt 0 0 0x050 4 1 ∧ exec (.fwCommit who) s = w tyMgt 0 0 0x050 4 2

/-- What a step does: with a command at the front of the queue it is the command's execution on the rest of the queue. On an empty queue a
microsecond passes; that it does is the model's choice (assumption log 1). -/
def Obligations.StepTakesTheFrontCommand : Prop :=
  (∀ (s : State) (c : Instr) (cs : List Instr), s.pending = c :: cs → step s = exec c { s with pending := cs }) ∧
  ∀ s : State, s.pending = [] → ∃ t, step s = .next t ∧ t.pending = [] ∧
    (s.mach.time.slew = 0 → t.mach.time.ns = s.mach.time.ns + 1000) ∧
    t.mach.mem = s.mach.mem ∧ t.mach.cmt = s.mach.cmt ∧ t.mach.ctx = s.mach.ctx ∧ t.mach.hdrs = s.mach.hdrs ∧
    (s.mach.aclkOn = true → 4 ≤ s.mach.rst.phase.toNat → ∀ q, q < 10240 →
      (s.mach.getCore q).run = .waiting → (t.mach.getCore q).waits = (s.mach.getCore q).waits + BitVec.ofNat 48 (s.mach.mhz (q / 2560)))

/-- R29, R35, R302, R335, R413, R446, R465, R489, R491, R509: what registers hold right after reset, of those whose reset value is not zero, and
that no command waits, memory is canonical, and no job, context, packet or descriptor is there.
Choices of the model that show in it: log 7, 9 and 168. -/
def Obligations.ResetValues : Prop :=
  let m := State.reset.mach
  let reads (ty p inst off size v : Nat) : Prop :=
    Completes (exec (.regRead .mgmt (pageAddr ty p inst off) size) State.reset) State.reset fun m' => m'.lastRead = v
  State.reset.pending = [] ∧ m.memWf ∧ m.ctx = [] ∧ m.cmt.jobs = [] ∧ m.arrived = [] ∧ m.fetches = [] ∧ m.cores = [] ∧
  (∀ t, t < 4 → reads tyTrc 0 t 0x000 4 (tyTrc * 2 ^ 24 + t) ∧ reads tyTrc 0 t 0x004 4 0x000100B0 ∧ reads tyTrc 0 t 0x010 4 1) ∧
  reads tyRte 0 0 0x070 4 0x80000000 ∧ reads tySvc 0 0 0x044 4 0x4B04 ∧ reads tySvc 0 1 0x048 4 0xC8 ∧ reads tyFlt 1 0 0x000 4 0x10000000 ∧
  reads tyMgt 0 0 0x054 4 0x3E8 ∧ reads tyPwr 0 0 0x044 4 0x55 ∧ reads tyPwr 0 0 0x040 4 0 ∧ reads tyRst 0 0 0x058 4 0 ∧
  (∀ c, c < 16384 → reads tyCtx 0 c 0x044 4 0 ∧ reads tyCtx 1 c 0x000 4 0)

/-- Two invariants that every step keeps, from every state: memory stays in its canonical form (addresses rising, no byte listed that an
unlisted address reads as), and the queue is first in, first out: a step takes its front command and no other.
Choices of the model that show in it: log 2 and 10. -/
def Obligations.StepKeepsMemoryAndQueueOrder : Prop :=
  ∀ s t : State, step s = .next t → (s.mach.memWf → t.mach.memWf) ∧ t.pending = s.pending.tail
end

