-- ==== Sys2Proof/Laws/Tab.lean ====
section
/-!
SUPPORT. Laws of sparse tables: what a read answers after a write, and that every operation keeps the canonical form.
-/
namespace Sys2Proof.Machine.Tab
variable {α : Type}

@[simp] theorem get_nil (d : α) (i : Nat) : get d [] i = d := rfl

theorem get_cons (d : α) (k : Nat) (v : α) (r : Tab α) (i : Nat) :
    get d ((k, v) :: r) i = if k = i then v else get d r i := rfl

/-- Reading a key that has been taken out gives the default; any other key reads as before. -/
theorem get_erase (d : α) (t : Tab α) (i j : Nat) : get d (erase t i) j = if i = j then d else get d t j := by
  induction t with
  | nil => simp [erase]
  | cons e r ih =>
    obtain ⟨k, v⟩ := e
    by_cases h : k = i
    · subst h
      rw [show erase ((k, v) :: r) k = erase r k by simp [erase], ih, get_cons]
      by_cases hj : k = j <;> simp [hj]
    · by_cases hj : k = j
      · subst hj
        simp [erase, h, get_cons, Ne.symm h]
      · simp [erase, h, get_cons, hj, ih]

/-- A read after a write gives the value written at the key written, and what stood there before at any other key. -/
theorem get_put [DecidableEq α] (d : α) (t : Tab α) (i j : Nat) (x : α) :
    get d (put d t i x) j = if i = j then x else get d t j := by
  induction t with
  | nil =>
    by_cases hx : x = d
    · subst hx; simp [put]
    · simp [put, hx, get_cons]
  | cons e r ih =>
    obtain ⟨k, v⟩ := e
    by_cases hx : x = d
    · subst hx; simp only [put, if_true, get_erase]
    · by_cases hk : k = i
      · subst hk
        by_cases hj : k = j <;> simp [put, hx, get_cons, hj]
      · by_cases hlt : i < k
        · simp [put, hx, hk, hlt, get_cons]
        · by_cases hj : k = j
          · subst hj; simp [put, hx, hk, hlt, get_cons, Ne.symm hk]
          · simp [put, hx, hk, hlt, get_cons, hj, ih]

@[simp] theorem get_put_self [DecidableEq α] (d : α) (t : Tab α) (i : Nat) (x : α) : get d (put d t i x) i = x := by
  simp [get_put]

theorem get_put_of_ne [DecidableEq α] (d : α) (t : Tab α) {i j : Nat} (x : α) (h : i ≠ j) :
    get d (put d t i x) j = get d t j := by
  simp [get_put, h]

@[simp] theorem get_upd_self [DecidableEq α] (d : α) (t : Tab α) (i : Nat) (f : α → α) :
    get d (upd d t i f) i = f (get d t i) := by
  simp [upd]

theorem get_upd_of_ne [DecidableEq α] (d : α) (t : Tab α) {i j : Nat} (f : α → α) (h : i ≠ j) :
    get d (upd d t i f) j = get d t j := by
  simp [upd, get_put_of_ne _ _ _ h]

/-! ## The canonical form -/

variable [DecidableEq α]

@[simp] theorem wfFrom_nil (d : α) (i : Nat) : wfFrom d i ([] : Tab α) = true := rfl

theorem wfFrom_cons (d : α) (i k : Nat) (v : α) (r : Tab α) :
    wfFrom d i ((k, v) :: r) = true ↔ i ≤ k ∧ v ≠ d ∧ wfFrom d (k + 1) r = true := by
  simp [wfFrom, and_assoc]

/-- A table canonical from a key on is canonical from any lower key on. -/
theorem wfFrom_mono (d : α) {i j : Nat} (t : Tab α) (h : i ≤ j) (w : wfFrom d j t = true) : wfFrom d i t = true := by
  cases t with
  | nil => rfl
  | cons e r =>
    obtain ⟨k, v⟩ := e
    rw [wfFrom_cons] at w ⊢
    exact ⟨Nat.le_trans h w.1, w.2⟩

theorem wfFrom_erase (d : α) (t : Tab α) (i j : Nat) (w : wfFrom d j t = true) : wfFrom d j (erase t i) = true := by
  induction t generalizing j with
  | nil => rfl
  | cons e r ih =>
    obtain ⟨k, v⟩ := e
    rw [wfFrom_cons] at w
    by_cases h : k = i
    · simp only [erase, h, if_true]
      exact wfFrom_mono d _ (by omega) (ih (k + 1) w.2.2)
    · simp only [erase, h, if_false, wfFrom_cons]
      exact ⟨w.1, w.2.1, ih (k + 1) w.2.2⟩

theorem wfFrom_put (d : α) (t : Tab α) (i j : Nat) (x : α) (hi : j ≤ i) (w : wfFrom d j t = true) :
    wfFrom d j (put d t i x) = true := by
  induction t generalizing j with
  | nil => by_cases hx : x = d <;> simp [put, hx, wfFrom, hi]
  | cons e r ih =>
    obtain ⟨k, v⟩ := e
    by_cases hx : x = d
    · subst hx
      simp only [put, if_true]
      exact wfFrom_erase _ _ _ _ w
    · rw [wfFrom_cons] at w
      by_cases hk : k = i
      · subst hk
        simp only [put, hx, if_false, if_true, wfFrom_cons]
        exact ⟨hi, hx, w.2.2⟩
      · by_cases hlt : i < k
        · simp only [put, hx, hk, hlt, if_false, if_true, wfFrom_cons]
          exact ⟨hi, hx, by omega, w.2.1, w.2.2⟩
        · simp only [put, hx, hk, hlt, if_false, wfFrom_cons]
          exact ⟨w.1, w.2.1, ih (k + 1) (by omega) w.2.2⟩

/-- Every write of one key keeps the canonical form. -/
theorem wf_put (d : α) (t : Tab α) (i : Nat) (x : α) (w : wf d t = true) : wf d (put d t i x) = true :=
  wfFrom_put d t i 0 x (Nat.zero_le i) w

theorem wf_upd (d : α) (t : Tab α) (i : Nat) (f : α → α) (w : wf d t = true) : wf d (upd d t i f) = true :=
  wf_put d t i _ w

theorem wfFrom_below (d : α) (t : Tab α) (a j : Nat) (w : wfFrom d j t = true) : wfFrom d j (below t a) = true := by
  induction t generalizing j with
  | nil => rfl
  | cons e r ih =>
    obtain ⟨k, v⟩ := e
    rw [wfFrom_cons] at w
    by_cases h : k < a
    · simp only [below, h, if_true, wfFrom_cons]
      exact ⟨w.1, w.2.1, ih (k + 1) w.2.2⟩
    · simp [below, h]

/-- What stands from a key on is canonical from that key on. -/
theorem wfFrom_above (d : α) (t : Tab α) (a j : Nat) (w : wfFrom d j t = true) : wfFrom d a (above t a) = true := by
  induction t generalizing j with
  | nil => rfl
  | cons e r ih =>
    obtain ⟨k, v⟩ := e
    rw [wfFrom_cons] at w
    by_cases h : k < a
    · simp only [above, h, if_true]
      exact ih (k + 1) w.2.2
    · simp only [above, h, if_false, wfFrom_cons]
      exact ⟨by omega, w.2⟩

theorem wfFrom_ofListFrom (d : α) (xs : List α) (a : Nat) : wfFrom d a (ofListFrom d a xs) = true := by
  induction xs generalizing a with
  | nil => rfl
  | cons x r ih =>
    by_cases h : x = d
    · simp only [ofListFrom, h, if_true]
      exact wfFrom_mono d _ (by omega) (ih (a + 1))
    · simp only [ofListFrom, h, if_false, wfFrom_cons]
      exact ⟨Nat.le_refl a, h, ih (a + 1)⟩

/-- A canonical table below a key, followed by one canonical from that key on. -/
theorem wfFrom_below_append (d : α) (t u : Tab α) (a j : Nat) (h : j ≤ a) (w : wfFrom d j t = true)
    (wu : wfFrom d a u = true) : wfFrom d j (below t a ++ u) = true := by
  induction t generalizing j with
  | nil => simpa [below] using wfFrom_mono d u h wu
  | cons e r ih =>
    obtain ⟨k, v⟩ := e
    rw [wfFrom_cons] at w
    by_cases hk : k < a
    · simp only [below, hk, if_true, List.cons_append, wfFrom_cons]
      exact ⟨w.1, w.2.1, ih (k + 1) hk w.2.2⟩
    · simpa [below, hk] using wfFrom_mono d u h wu

theorem wfFrom_ofListFrom_append (d : α) (xs : List α) (u : Tab α) (a : Nat) (wu : wfFrom d (a + xs.length) u = true) :
    wfFrom d a (ofListFrom d a xs ++ u) = true := by
  induction xs generalizing a with
  | nil => simpa [ofListFrom] using wu
  | cons x r ih =>
    have hr : wfFrom d (a + 1) (ofListFrom d (a + 1) r ++ u) = true :=
      ih (a + 1) (by simpa [Nat.add_assoc, Nat.add_comm 1] using wu)
    by_cases h : x = d
    · simp only [ofListFrom, h, if_true]
      exact wfFrom_mono d _ (by omega) hr
    · simp only [ofListFrom, h, if_false, List.cons_append, wfFrom_cons]
      exact ⟨Nat.le_refl a, h, hr⟩

/-- Every write of a range keeps the canonical form. -/
theorem wf_putRange (d : α) (t : Tab α) (a : Nat) (xs : List α) (w : wf d t = true) : wf d (putRange d t a xs) = true := by
  unfold putRange wf
  rw [List.append_assoc]
  exact wfFrom_below_append d t _ a 0 (Nat.zero_le a) w
    (wfFrom_ofListFrom_append d xs _ a (wfFrom_above d t _ 0 w))

/-- Clearing a range keeps the canonical form. -/
theorem wf_clearRange (d : α) (t : Tab α) (a n : Nat) (w : wf d t = true) : wf d (clearRange t a n) = true := by
  unfold clearRange wf
  exact wfFrom_below_append d t _ a 0 (Nat.zero_le a) w
    (wfFrom_mono d _ (by omega) (wfFrom_above d t (a + n) 0 w))

/-! ## Ranges of a canonical table -/

/-- Below the first key that a canonical table can list, it reads as the default. -/
theorem get_of_lt (d : α) (t : Tab α) {i j : Nat} (h : i < j) (w : wfFrom d j t = true) : get d t i = d := by
  induction t generalizing j with
  | nil => rfl
  | cons e r ih =>
    obtain ⟨k, v⟩ := e
    rw [wfFrom_cons] at w
    rw [get_cons, if_neg (by omega)]
    exact ih (j := k + 1) (by omega) w.2.2

theorem get_below (d : α) (t : Tab α) (a i j : Nat) (w : wfFrom d j t = true) :
    get d (below t a) i = if i < a then get d t i else d := by
  induction t generalizing j with
  | nil => simp [below]
  | cons e r ih =>
    obtain ⟨k, v⟩ := e
    rw [wfFrom_cons] at w
    by_cases h : k < a
    · simp only [below, h, if_true, get_cons, ih (k + 1) w.2.2]
      by_cases hk : k = i
      · subst hk; simp [h]
      · simp [hk]
    · simp only [below, h, if_false, get_nil]
      by_cases hi : i < a
      · rw [if_pos hi, get_cons, if_neg (by omega), get_of_lt d r (j := k + 1) (by omega) w.2.2]
      · rw [if_neg hi]

theorem get_above (d : α) (t : Tab α) (a i j : Nat) (w : wfFrom d j t = true) :
    get d (above t a) i = if a ≤ i then get d t i else d := by
  induction t generalizing j with
  | nil => simp [above]
  | cons e r ih =>
    obtain ⟨k, v⟩ := e
    rw [wfFrom_cons] at w
    by_cases h : k < a
    · simp only [above, h, if_true, get_cons, ih (k + 1) w.2.2]
      by_cases hi : a ≤ i
      · rw [if_pos hi, if_pos hi, if_neg (by omega)]
      · rw [if_neg hi, if_neg hi]
    · simp only [above, h, if_false]
      by_cases hi : a ≤ i
      · rw [if_pos hi]
      · rw [if_neg hi, get_cons, if_neg (by omega), get_of_lt d r (j := k + 1) (by omega) w.2.2]

/-- The value at a key of two tables one after the other, the first canonical below the second. -/
theorem get_append (d : α) (t u : Tab α) (i : Nat) (w : ∀ k v, (k, v) ∈ t → v ≠ d) :
    get d (t ++ u) i = if get d t i = d then get d u i else get d t i := by
  induction t with
  | nil => simp
  | cons e r ih =>
    obtain ⟨k, v⟩ := e
    have hv : v ≠ d := w k v (by simp)
    rw [List.cons_append, get_cons, get_cons, ih fun k v h => w k v (by simp [h])]
    by_cases hk : k = i <;> simp [hk, hv]

/-- A canonical table lists no default. -/
theorem ne_default_of_mem (d : α) : ∀ (t : Tab α) {j : Nat}, wfFrom d j t = true → ∀ key val, (key, val) ∈ t → val ≠ d
  | (_, _) :: _, _, w, _, _, .head _ => ((wfFrom_cons d _ _ _ _).mp w).2.1
  | (_, _) :: r, _, w, key, val, .tail _ later => ne_default_of_mem d r ((wfFrom_cons d _ _ _ _).mp w).2.2 key val later

theorem get_ofListFrom (d : α) (xs : List α) (a i : Nat) :
    get d (ofListFrom d a xs) i = if a ≤ i then xs.getD (i - a) d else d := by
  induction xs generalizing a with
  | nil => simp [ofListFrom]
  | cons x r ih =>
    by_cases hi : a ≤ i
    · by_cases he : a = i
      · subst he
        by_cases hx : x = d
        · simp only [ofListFrom, hx, if_true, ih]
          simp [show ¬ a + 1 ≤ a by omega]
        · simp [ofListFrom, hx, get_cons]
      · have hs : i - a = (i - (a + 1)) + 1 := by omega
        have hg : (x :: r).getD (i - a) d = r.getD (i - (a + 1)) d := by rw [hs]; rfl
        rw [if_pos hi, hg]
        by_cases hx : x = d
        · simp only [ofListFrom, hx, if_true, ih]
          rw [if_pos (by omega)]
        · simp only [ofListFrom, hx, if_false, get_cons, he, ih]
          rw [if_pos (by omega)]
    · by_cases hx : x = d
      · simp only [ofListFrom, hx, if_true, ih]
        rw [if_neg (by omega), if_neg hi]
      · simp only [ofListFrom, hx, if_false, get_cons, ih]
        rw [if_neg (by omega), if_neg (by omega), if_neg hi]

/-- A read after a write of a range: the value written within it, what stood there before outside it. -/
theorem get_putRange (d : α) (t : Tab α) (a : Nat) (xs : List α) (i : Nat) (w : wf d t = true) :
    get d (putRange d t a xs) i = if a ≤ i ∧ i < a + xs.length then xs.getD (i - a) d else get d t i := by
  have w0 : wfFrom d 0 t = true := w
  have wb := ne_default_of_mem d _ (wfFrom_below d t a 0 w0)
  have wl := ne_default_of_mem d _ (wfFrom_ofListFrom d xs a)
  rw [putRange, List.append_assoc, get_append d _ _ i wb, get_append d _ _ i wl, get_below d t a i 0 w0,
    get_ofListFrom, get_above d t _ i 0 w0]
  by_cases h1 : i < a
  · have : ¬ a ≤ i := by omega
    have h2 : ¬ a + xs.length ≤ i := by omega
    simp only [h1, this, h2, if_true, if_false, false_and]
    by_cases hg : get d t i = d <;> simp [hg]
  · have h1' : a ≤ i := by omega
    by_cases h2 : i < a + xs.length
    · have : ¬ a + xs.length ≤ i := by omega
      simp only [h1, h1', h2, this, if_true, if_false, and_self]
      generalize xs.getD (i - a) d = x
      by_cases hg : x = d <;> simp [hg]
    · have : a + xs.length ≤ i := by omega
      have hn : xs.getD (i - a) d = d := by simp [List.getD, List.getElem?_eq_none (show xs.length ≤ i - a by omega)]
      simp only [h1, h1', h2, this, hn, if_true, if_false, and_false]

/-- A cleared range reads as the default, and the rest as before. -/
theorem get_clearRange (d : α) (t : Tab α) (a n i : Nat) (w : wf d t = true) :
    get d (clearRange t a n) i = if a ≤ i ∧ i < a + n then d else get d t i := by
  have w0 : wfFrom d 0 t = true := w
  have wb := ne_default_of_mem d _ (wfFrom_below d t a 0 w0)
  rw [clearRange, get_append d _ _ i wb, get_below d t a i 0 w0, get_above d t _ i 0 w0]
  by_cases h1 : i < a
  · have h2 : ¬ a + n ≤ i := by omega
    have h3 : ¬ a ≤ i := by omega
    simp only [h1, h2, h3, if_true, if_false, false_and]
    by_cases hg : get d t i = d <;> simp [hg]
  · by_cases h2 : i < a + n
    · have h3 : ¬ a + n ≤ i := by omega
      simp [h1, h2, h3, show a ≤ i by omega]
    · simp [h1, h2, show a + n ≤ i by omega]

/-- The values of a range are what its keys read. -/
theorem expandFrom_getD (d : α) (n i : Nat) (t : Tab α) (w : wfFrom d i t = true) :
    expandFrom d n i t = (List.range n).map fun k => get d t (i + k) := by
  induction n generalizing i t with
  | zero => cases t <;> rfl
  | succ n ih =>
    rw [List.range_succ_eq_map, List.map_cons, List.map_map]
    cases t with
    | nil =>
      show d :: expandFrom d n (i + 1) [] = _
      rw [ih (i + 1) [] rfl]
      refine List.cons_eq_cons.mpr ⟨rfl, List.map_congr_left fun k _ => rfl⟩
    | cons e r =>
      obtain ⟨k, v⟩ := e
      have w' := (wfFrom_cons d i k v r).mp w
      by_cases h : k = i
      · subst h
        simp only [expandFrom, if_true, Nat.add_zero, get_cons]
        rw [ih (k + 1) r w'.2.2]
        congr 1
        apply List.map_congr_left
        intro j _
        simp [Nat.add_assoc, Nat.add_comm 1]
      · have wk : wfFrom d (i + 1) ((k, v) :: r) = true := (wfFrom_cons d (i + 1) k v r).mpr ⟨by omega, w'.2⟩
        have hg : get d ((k, v) :: r) (i + 0) = d := get_of_lt d _ (j := i + 1) (by omega) wk
        simp only [expandFrom, h, if_false]
        rw [hg, ih (i + 1) _ wk]
        congr 1
        apply List.map_congr_left
        intro j _
        simp [Nat.add_assoc, Nat.add_comm 1]

theorem getRange_eq (d : α) (t : Tab α) (a n : Nat) : getRange d t a n = (List.range n).map fun k => get d t (a + k) := by
  unfold getRange
  split
  · rename_i w
    rw [expandFrom_getD d n a _ (wfFrom_above d t a 0 w)]
    apply List.map_congr_left
    intro k _
    rw [get_above d t a _ 0 w, if_pos (by omega)]
  · rfl

theorem toListN_eq (d : α) (t : Tab α) (n : Nat) : toListN d t n = (List.range n).map (get d t) := by
  simp [toListN, getRange_eq]

/-- Reading a table made from a list. -/
theorem get_ofList (d : α) (xs : List α) (i : Nat) : get d (ofList d xs) i = xs.getD i d := by
  simp [ofList, get_ofListFrom]

end Sys2Proof.Machine.Tab
end

