-- ==== Sys2Proof/Laws/State.lean ====
section
/-!
SUPPORT. What each named update of the module reads as and leaves unchanged: one lemma per update and field, so that no proof
unfolds a record update. (Written by a script from the list of fields.)
-/
namespace Sys2Proof.Machine


/-! ## modHdr -/

@[simp] theorem Mach.getHdr_modHdr (m : Mach) (i : Nat) (g : Hdr → Hdr) : (m.modHdr i g).getHdr i = g (m.getHdr i) := by
  simp [Mach.getHdr, Mach.modHdr]
theorem Mach.getHdr_modHdr_of_ne (m : Mach) {i j : Nat} (g : Hdr → Hdr) (h : i ≠ j) : (m.modHdr i g).getHdr j = m.getHdr j := by
  simp [Mach.getHdr, Mach.modHdr, Tab.get_upd_of_ne _ _ _ h]
@[simp] theorem Mach.getTrc_modHdr (m : Mach) (i j : Nat) (g : Hdr → Hdr) : (m.modHdr i g).getTrc j = m.getTrc j := rfl
@[simp] theorem Mach.getClu_modHdr (m : Mach) (i j : Nat) (g : Hdr → Hdr) : (m.modHdr i g).getClu j = m.getClu j := rfl
@[simp] theorem Mach.getCore_modHdr (m : Mach) (i j : Nat) (g : Hdr → Hdr) : (m.modHdr i g).getCore j = m.getCore j := rfl
@[simp] theorem Mach.getTrv_modHdr (m : Mach) (i j : Nat) (g : Hdr → Hdr) : (m.modHdr i g).getTrv j = m.getTrv j := rfl
@[simp] theorem Mach.getGth_modHdr (m : Mach) (i j : Nat) (g : Hdr → Hdr) : (m.modHdr i g).getGth j = m.getGth j := rfl
@[simp] theorem Mach.getSpr_modHdr (m : Mach) (i j : Nat) (g : Hdr → Hdr) : (m.modHdr i g).getSpr j = m.getSpr j := rfl
@[simp] theorem Mach.getNtm_modHdr (m : Mach) (i j : Nat) (g : Hdr → Hdr) : (m.modHdr i g).getNtm j = m.getNtm j := rfl
@[simp] theorem Mach.getChan_modHdr (m : Mach) (i j : Nat) (g : Hdr → Hdr) : (m.modHdr i g).getChan j = m.getChan j := rfl
@[simp] theorem Mach.getUpd_modHdr (m : Mach) (i j : Nat) (g : Hdr → Hdr) : (m.modHdr i g).getUpd j = m.getUpd j := rfl
@[simp] theorem Mach.getPlnDom_modHdr (m : Mach) (i j : Nat) (g : Hdr → Hdr) : (m.modHdr i g).getPlnDom j = m.getPlnDom j := rfl
@[simp] theorem Mach.getLnk_modHdr (m : Mach) (i j : Nat) (g : Hdr → Hdr) : (m.modHdr i g).getLnk j = m.getLnk j := rfl
@[simp] theorem Mach.getRte_modHdr (m : Mach) (i j : Nat) (g : Hdr → Hdr) : (m.modHdr i g).getRte j = m.getRte j := rfl
@[simp] theorem Mach.getDom_modHdr (m : Mach) (i j : Nat) (g : Hdr → Hdr) : (m.modHdr i g).getDom j = m.getDom j := rfl
@[simp] theorem Mach.getCtx_modHdr (m : Mach) (i j : Nat) (g : Hdr → Hdr) : (m.modHdr i g).getCtx j = m.getCtx j := rfl
@[simp] theorem Mach.getSvc_modHdr (m : Mach) (i j : Nat) (g : Hdr → Hdr) : (m.modHdr i g).getSvc j = m.getSvc j := rfl
@[simp] theorem Mach.getThdDom_modHdr (m : Mach) (i j : Nat) (g : Hdr → Hdr) : (m.modHdr i g).getThdDom j = m.getThdDom j := rfl
@[simp] theorem Mach.getThdClu_modHdr (m : Mach) (i j : Nat) (g : Hdr → Hdr) : (m.modHdr i g).getThdClu j = m.getThdClu j := rfl
@[simp] theorem Mach.job?_modHdr (m : Mach) (i j : Nat) (g : Hdr → Hdr) : (m.modHdr i g).job? j = m.job? j := rfl
@[simp] theorem Mach.self_modHdr (m : Mach) (i : Nat) (g : Hdr → Hdr) : (m.modHdr i g).self = m.self := rfl
@[simp] theorem Mach.serial_modHdr (m : Mach) (i : Nat) (g : Hdr → Hdr) : (m.modHdr i g).serial = m.serial := rfl
@[simp] theorem Mach.fence_modHdr (m : Mach) (i : Nat) (g : Hdr → Hdr) : (m.modHdr i g).fence = m.fence := rfl
@[simp] theorem Mach.trc_modHdr (m : Mach) (i : Nat) (g : Hdr → Hdr) : (m.modHdr i g).trc = m.trc := rfl
@[simp] theorem Mach.clu_modHdr (m : Mach) (i : Nat) (g : Hdr → Hdr) : (m.modHdr i g).clu = m.clu := rfl
@[simp] theorem Mach.cores_modHdr (m : Mach) (i : Nat) (g : Hdr → Hdr) : (m.modHdr i g).cores = m.cores := rfl
@[simp] theorem Mach.trv_modHdr (m : Mach) (i : Nat) (g : Hdr → Hdr) : (m.modHdr i g).trv = m.trv := rfl
@[simp] theorem Mach.gth_modHdr (m : Mach) (i : Nat) (g : Hdr → Hdr) : (m.modHdr i g).gth = m.gth := rfl
@[simp] theorem Mach.spr_modHdr (m : Mach) (i : Nat) (g : Hdr → Hdr) : (m.modHdr i g).spr = m.spr := rfl
@[simp] theorem Mach.ntm_modHdr (m : Mach) (i : Nat) (g : Hdr → Hdr) : (m.modHdr i g).ntm = m.ntm := rfl
@[simp] theorem Mach.chan_modHdr (m : Mach) (i : Nat) (g : Hdr → Hdr) : (m.modHdr i g).chan = m.chan := rfl
@[simp] theorem Mach.mem_modHdr (m : Mach) (i : Nat) (g : Hdr → Hdr) : (m.modHdr i g).mem = m.mem := rfl
@[simp] theorem Mach.granErr_modHdr (m : Mach) (i : Nat) (g : Hdr → Hdr) : (m.modHdr i g).granErr = m.granErr := rfl
@[simp] theorem Mach.lastHeld_modHdr (m : Mach) (i : Nat) (g : Hdr → Hdr) : (m.modHdr i g).lastHeld = m.lastHeld := rfl
@[simp] theorem Mach.upd_modHdr (m : Mach) (i : Nat) (g : Hdr → Hdr) : (m.modHdr i g).upd = m.upd := rfl
@[simp] theorem Mach.cmt_modHdr (m : Mach) (i : Nat) (g : Hdr → Hdr) : (m.modHdr i g).cmt = m.cmt := rfl
@[simp] theorem Mach.pln_modHdr (m : Mach) (i : Nat) (g : Hdr → Hdr) : (m.modHdr i g).pln = m.pln := rfl
@[simp] theorem Mach.plnDom_modHdr (m : Mach) (i : Nat) (g : Hdr → Hdr) : (m.modHdr i g).plnDom = m.plnDom := rfl
@[simp] theorem Mach.lnk_modHdr (m : Mach) (i : Nat) (g : Hdr → Hdr) : (m.modHdr i g).lnk = m.lnk := rfl
@[simp] theorem Mach.rte_modHdr (m : Mach) (i : Nat) (g : Hdr → Hdr) : (m.modHdr i g).rte = m.rte := rfl
@[simp] theorem Mach.time_modHdr (m : Mach) (i : Nat) (g : Hdr → Hdr) : (m.modHdr i g).time = m.time := rfl
@[simp] theorem Mach.arrived_modHdr (m : Mach) (i : Nat) (g : Hdr → Hdr) : (m.modHdr i g).arrived = m.arrived := rfl
@[simp] theorem Mach.inbox_modHdr (m : Mach) (i : Nat) (g : Hdr → Hdr) : (m.modHdr i g).inbox = m.inbox := rfl
@[simp] theorem Mach.flowSeq_modHdr (m : Mach) (i : Nat) (g : Hdr → Hdr) : (m.modHdr i g).flowSeq = m.flowSeq := rfl
@[simp] theorem Mach.filters_modHdr (m : Mach) (i : Nat) (g : Hdr → Hdr) : (m.modHdr i g).filters = m.filters := rfl
@[simp] theorem Mach.fetches_modHdr (m : Mach) (i : Nat) (g : Hdr → Hdr) : (m.modHdr i g).fetches = m.fetches := rfl
@[simp] theorem Mach.posted_modHdr (m : Mach) (i : Nat) (g : Hdr → Hdr) : (m.modHdr i g).posted = m.posted := rfl
@[simp] theorem Mach.handles_modHdr (m : Mach) (i : Nat) (g : Hdr → Hdr) : (m.modHdr i g).handles = m.handles := rfl
@[simp] theorem Mach.regOut_modHdr (m : Mach) (i : Nat) (g : Hdr → Hdr) : (m.modHdr i g).regOut = m.regOut := rfl
@[simp] theorem Mach.regIn_modHdr (m : Mach) (i : Nat) (g : Hdr → Hdr) : (m.modHdr i g).regIn = m.regIn := rfl
@[simp] theorem Mach.lastRead_modHdr (m : Mach) (i : Nat) (g : Hdr → Hdr) : (m.modHdr i g).lastRead = m.lastRead := rfl
@[simp] theorem Mach.dom_modHdr (m : Mach) (i : Nat) (g : Hdr → Hdr) : (m.modHdr i g).dom = m.dom := rfl
@[simp] theorem Mach.ctx_modHdr (m : Mach) (i : Nat) (g : Hdr → Hdr) : (m.modHdr i g).ctx = m.ctx := rfl
@[simp] theorem Mach.svc_modHdr (m : Mach) (i : Nat) (g : Hdr → Hdr) : (m.modHdr i g).svc = m.svc := rfl
@[simp] theorem Mach.apc_modHdr (m : Mach) (i : Nat) (g : Hdr → Hdr) : (m.modHdr i g).apc = m.apc := rfl
@[simp] theorem Mach.rng_modHdr (m : Mach) (i : Nat) (g : Hdr → Hdr) : (m.modHdr i g).rng = m.rng := rfl
@[simp] theorem Mach.flt_modHdr (m : Mach) (i : Nat) (g : Hdr → Hdr) : (m.modHdr i g).flt = m.flt := rfl
@[simp] theorem Mach.mgt_modHdr (m : Mach) (i : Nat) (g : Hdr → Hdr) : (m.modHdr i g).mgt = m.mgt := rfl
@[simp] theorem Mach.pwr_modHdr (m : Mach) (i : Nat) (g : Hdr → Hdr) : (m.modHdr i g).pwr = m.pwr := rfl
@[simp] theorem Mach.rst_modHdr (m : Mach) (i : Nat) (g : Hdr → Hdr) : (m.modHdr i g).rst = m.rst := rfl
@[simp] theorem Mach.thdSel_modHdr (m : Mach) (i : Nat) (g : Hdr → Hdr) : (m.modHdr i g).thdSel = m.thdSel := rfl
@[simp] theorem Mach.thdDom_modHdr (m : Mach) (i : Nat) (g : Hdr → Hdr) : (m.modHdr i g).thdDom = m.thdDom := rfl
@[simp] theorem Mach.thdClu_modHdr (m : Mach) (i : Nat) (g : Hdr → Hdr) : (m.modHdr i g).thdClu = m.thdClu := rfl
@[simp] theorem Mach.pins_modHdr (m : Mach) (i : Nat) (g : Hdr → Hdr) : (m.modHdr i g).pins = m.pins := rfl

/-! ## modTrc -/

@[simp] theorem Mach.getTrc_modTrc (m : Mach) (i : Nat) (g : Trc → Trc) : (m.modTrc i g).getTrc i = g (m.getTrc i) := by
  simp [Mach.getTrc, Mach.modTrc]
theorem Mach.getTrc_modTrc_of_ne (m : Mach) {i j : Nat} (g : Trc → Trc) (h : i ≠ j) : (m.modTrc i g).getTrc j = m.getTrc j := by
  simp [Mach.getTrc, Mach.modTrc, Tab.get_upd_of_ne _ _ _ h]
@[simp] theorem Mach.getHdr_modTrc (m : Mach) (i j : Nat) (g : Trc → Trc) : (m.modTrc i g).getHdr j = m.getHdr j := rfl
@[simp] theorem Mach.getClu_modTrc (m : Mach) (i j : Nat) (g : Trc → Trc) : (m.modTrc i g).getClu j = m.getClu j := rfl
@[simp] theorem Mach.getCore_modTrc (m : Mach) (i j : Nat) (g : Trc → Trc) : (m.modTrc i g).getCore j = m.getCore j := rfl
@[simp] theorem Mach.getTrv_modTrc (m : Mach) (i j : Nat) (g : Trc → Trc) : (m.modTrc i g).getTrv j = m.getTrv j := rfl
@[simp] theorem Mach.getGth_modTrc (m : Mach) (i j : Nat) (g : Trc → Trc) : (m.modTrc i g).getGth j = m.getGth j := rfl
@[simp] theorem Mach.getSpr_modTrc (m : Mach) (i j : Nat) (g : Trc → Trc) : (m.modTrc i g).getSpr j = m.getSpr j := rfl
@[simp] theorem Mach.getNtm_modTrc (m : Mach) (i j : Nat) (g : Trc → Trc) : (m.modTrc i g).getNtm j = m.getNtm j := rfl
@[simp] theorem Mach.getChan_modTrc (m : Mach) (i j : Nat) (g : Trc → Trc) : (m.modTrc i g).getChan j = m.getChan j := rfl
@[simp] theorem Mach.getUpd_modTrc (m : Mach) (i j : Nat) (g : Trc → Trc) : (m.modTrc i g).getUpd j = m.getUpd j := rfl
@[simp] theorem Mach.getPlnDom_modTrc (m : Mach) (i j : Nat) (g : Trc → Trc) : (m.modTrc i g).getPlnDom j = m.getPlnDom j := rfl
@[simp] theorem Mach.getLnk_modTrc (m : Mach) (i j : Nat) (g : Trc → Trc) : (m.modTrc i g).getLnk j = m.getLnk j := rfl
@[simp] theorem Mach.getRte_modTrc (m : Mach) (i j : Nat) (g : Trc → Trc) : (m.modTrc i g).getRte j = m.getRte j := rfl
@[simp] theorem Mach.getDom_modTrc (m : Mach) (i j : Nat) (g : Trc → Trc) : (m.modTrc i g).getDom j = m.getDom j := rfl
@[simp] theorem Mach.getCtx_modTrc (m : Mach) (i j : Nat) (g : Trc → Trc) : (m.modTrc i g).getCtx j = m.getCtx j := rfl
@[simp] theorem Mach.getSvc_modTrc (m : Mach) (i j : Nat) (g : Trc → Trc) : (m.modTrc i g).getSvc j = m.getSvc j := rfl
@[simp] theorem Mach.getThdDom_modTrc (m : Mach) (i j : Nat) (g : Trc → Trc) : (m.modTrc i g).getThdDom j = m.getThdDom j := rfl
@[simp] theorem Mach.getThdClu_modTrc (m : Mach) (i j : Nat) (g : Trc → Trc) : (m.modTrc i g).getThdClu j = m.getThdClu j := rfl
@[simp] theorem Mach.job?_modTrc (m : Mach) (i j : Nat) (g : Trc → Trc) : (m.modTrc i g).job? j = m.job? j := rfl
@[simp] theorem Mach.self_modTrc (m : Mach) (i : Nat) (g : Trc → Trc) : (m.modTrc i g).self = m.self := rfl
@[simp] theorem Mach.serial_modTrc (m : Mach) (i : Nat) (g : Trc → Trc) : (m.modTrc i g).serial = m.serial := rfl
@[simp] theorem Mach.fence_modTrc (m : Mach) (i : Nat) (g : Trc → Trc) : (m.modTrc i g).fence = m.fence := rfl
@[simp] theorem Mach.hdrs_modTrc (m : Mach) (i : Nat) (g : Trc → Trc) : (m.modTrc i g).hdrs = m.hdrs := rfl
@[simp] theorem Mach.clu_modTrc (m : Mach) (i : Nat) (g : Trc → Trc) : (m.modTrc i g).clu = m.clu := rfl
@[simp] theorem Mach.cores_modTrc (m : Mach) (i : Nat) (g : Trc → Trc) : (m.modTrc i g).cores = m.cores := rfl
@[simp] theorem Mach.trv_modTrc (m : Mach) (i : Nat) (g : Trc → Trc) : (m.modTrc i g).trv = m.trv := rfl
@[simp] theorem Mach.gth_modTrc (m : Mach) (i : Nat) (g : Trc → Trc) : (m.modTrc i g).gth = m.gth := rfl
@[simp] theorem Mach.spr_modTrc (m : Mach) (i : Nat) (g : Trc → Trc) : (m.modTrc i g).spr = m.spr := rfl
@[simp] theorem Mach.ntm_modTrc (m : Mach) (i : Nat) (g : Trc → Trc) : (m.modTrc i g).ntm = m.ntm := rfl
@[simp] theorem Mach.chan_modTrc (m : Mach) (i : Nat) (g : Trc → Trc) : (m.modTrc i g).chan = m.chan := rfl
@[simp] theorem Mach.mem_modTrc (m : Mach) (i : Nat) (g : Trc → Trc) : (m.modTrc i g).mem = m.mem := rfl
@[simp] theorem Mach.granErr_modTrc (m : Mach) (i : Nat) (g : Trc → Trc) : (m.modTrc i g).granErr = m.granErr := rfl
@[simp] theorem Mach.lastHeld_modTrc (m : Mach) (i : Nat) (g : Trc → Trc) : (m.modTrc i g).lastHeld = m.lastHeld := rfl
@[simp] theorem Mach.upd_modTrc (m : Mach) (i : Nat) (g : Trc → Trc) : (m.modTrc i g).upd = m.upd := rfl
@[simp] theorem Mach.cmt_modTrc (m : Mach) (i : Nat) (g : Trc → Trc) : (m.modTrc i g).cmt = m.cmt := rfl
@[simp] theorem Mach.pln_modTrc (m : Mach) (i : Nat) (g : Trc → Trc) : (m.modTrc i g).pln = m.pln := rfl
@[simp] theorem Mach.plnDom_modTrc (m : Mach) (i : Nat) (g : Trc → Trc) : (m.modTrc i g).plnDom = m.plnDom := rfl
@[simp] theorem Mach.lnk_modTrc (m : Mach) (i : Nat) (g : Trc → Trc) : (m.modTrc i g).lnk = m.lnk := rfl
@[simp] theorem Mach.rte_modTrc (m : Mach) (i : Nat) (g : Trc → Trc) : (m.modTrc i g).rte = m.rte := rfl
@[simp] theorem Mach.time_modTrc (m : Mach) (i : Nat) (g : Trc → Trc) : (m.modTrc i g).time = m.time := rfl
@[simp] theorem Mach.arrived_modTrc (m : Mach) (i : Nat) (g : Trc → Trc) : (m.modTrc i g).arrived = m.arrived := rfl
@[simp] theorem Mach.inbox_modTrc (m : Mach) (i : Nat) (g : Trc → Trc) : (m.modTrc i g).inbox = m.inbox := rfl
@[simp] theorem Mach.flowSeq_modTrc (m : Mach) (i : Nat) (g : Trc → Trc) : (m.modTrc i g).flowSeq = m.flowSeq := rfl
@[simp] theorem Mach.filters_modTrc (m : Mach) (i : Nat) (g : Trc → Trc) : (m.modTrc i g).filters = m.filters := rfl
@[simp] theorem Mach.fetches_modTrc (m : Mach) (i : Nat) (g : Trc → Trc) : (m.modTrc i g).fetches = m.fetches := rfl
@[simp] theorem Mach.posted_modTrc (m : Mach) (i : Nat) (g : Trc → Trc) : (m.modTrc i g).posted = m.posted := rfl
@[simp] theorem Mach.handles_modTrc (m : Mach) (i : Nat) (g : Trc → Trc) : (m.modTrc i g).handles = m.handles := rfl
@[simp] theorem Mach.regOut_modTrc (m : Mach) (i : Nat) (g : Trc → Trc) : (m.modTrc i g).regOut = m.regOut := rfl
@[simp] theorem Mach.regIn_modTrc (m : Mach) (i : Nat) (g : Trc → Trc) : (m.modTrc i g).regIn = m.regIn := rfl
@[simp] theorem Mach.lastRead_modTrc (m : Mach) (i : Nat) (g : Trc → Trc) : (m.modTrc i g).lastRead = m.lastRead := rfl
@[simp] theorem Mach.dom_modTrc (m : Mach) (i : Nat) (g : Trc → Trc) : (m.modTrc i g).dom = m.dom := rfl
@[simp] theorem Mach.ctx_modTrc (m : Mach) (i : Nat) (g : Trc → Trc) : (m.modTrc i g).ctx = m.ctx := rfl
@[simp] theorem Mach.svc_modTrc (m : Mach) (i : Nat) (g : Trc → Trc) : (m.modTrc i g).svc = m.svc := rfl
@[simp] theorem Mach.apc_modTrc (m : Mach) (i : Nat) (g : Trc → Trc) : (m.modTrc i g).apc = m.apc := rfl
@[simp] theorem Mach.rng_modTrc (m : Mach) (i : Nat) (g : Trc → Trc) : (m.modTrc i g).rng = m.rng := rfl
@[simp] theorem Mach.flt_modTrc (m : Mach) (i : Nat) (g : Trc → Trc) : (m.modTrc i g).flt = m.flt := rfl
@[simp] theorem Mach.mgt_modTrc (m : Mach) (i : Nat) (g : Trc → Trc) : (m.modTrc i g).mgt = m.mgt := rfl
@[simp] theorem Mach.pwr_modTrc (m : Mach) (i : Nat) (g : Trc → Trc) : (m.modTrc i g).pwr = m.pwr := rfl
@[simp] theorem Mach.rst_modTrc (m : Mach) (i : Nat) (g : Trc → Trc) : (m.modTrc i g).rst = m.rst := rfl
@[simp] theorem Mach.thdSel_modTrc (m : Mach) (i : Nat) (g : Trc → Trc) : (m.modTrc i g).thdSel = m.thdSel := rfl
@[simp] theorem Mach.thdDom_modTrc (m : Mach) (i : Nat) (g : Trc → Trc) : (m.modTrc i g).thdDom = m.thdDom := rfl
@[simp] theorem Mach.thdClu_modTrc (m : Mach) (i : Nat) (g : Trc → Trc) : (m.modTrc i g).thdClu = m.thdClu := rfl
@[simp] theorem Mach.pins_modTrc (m : Mach) (i : Nat) (g : Trc → Trc) : (m.modTrc i g).pins = m.pins := rfl

/-! ## modClu -/

@[simp] theorem Mach.getClu_modClu (m : Mach) (i : Nat) (g : Clu → Clu) : (m.modClu i g).getClu i = g (m.getClu i) := by
  simp [Mach.getClu, Mach.modClu]
theorem Mach.getClu_modClu_of_ne (m : Mach) {i j : Nat} (g : Clu → Clu) (h : i ≠ j) : (m.modClu i g).getClu j = m.getClu j := by
  simp [Mach.getClu, Mach.modClu, Tab.get_upd_of_ne _ _ _ h]
@[simp] theorem Mach.getHdr_modClu (m : Mach) (i j : Nat) (g : Clu → Clu) : (m.modClu i g).getHdr j = m.getHdr j := rfl
@[simp] theorem Mach.getTrc_modClu (m : Mach) (i j : Nat) (g : Clu → Clu) : (m.modClu i g).getTrc j = m.getTrc j := rfl
@[simp] theorem Mach.getCore_modClu (m : Mach) (i j : Nat) (g : Clu → Clu) : (m.modClu i g).getCore j = m.getCore j := rfl
@[simp] theorem Mach.getTrv_modClu (m : Mach) (i j : Nat) (g : Clu → Clu) : (m.modClu i g).getTrv j = m.getTrv j := rfl
@[simp] theorem Mach.getGth_modClu (m : Mach) (i j : Nat) (g : Clu → Clu) : (m.modClu i g).getGth j = m.getGth j := rfl
@[simp] theorem Mach.getSpr_modClu (m : Mach) (i j : Nat) (g : Clu → Clu) : (m.modClu i g).getSpr j = m.getSpr j := rfl
@[simp] theorem Mach.getNtm_modClu (m : Mach) (i j : Nat) (g : Clu → Clu) : (m.modClu i g).getNtm j = m.getNtm j := rfl
@[simp] theorem Mach.getChan_modClu (m : Mach) (i j : Nat) (g : Clu → Clu) : (m.modClu i g).getChan j = m.getChan j := rfl
@[simp] theorem Mach.getUpd_modClu (m : Mach) (i j : Nat) (g : Clu → Clu) : (m.modClu i g).getUpd j = m.getUpd j := rfl
@[simp] theorem Mach.getPlnDom_modClu (m : Mach) (i j : Nat) (g : Clu → Clu) : (m.modClu i g).getPlnDom j = m.getPlnDom j := rfl
@[simp] theorem Mach.getLnk_modClu (m : Mach) (i j : Nat) (g : Clu → Clu) : (m.modClu i g).getLnk j = m.getLnk j := rfl
@[simp] theorem Mach.getRte_modClu (m : Mach) (i j : Nat) (g : Clu → Clu) : (m.modClu i g).getRte j = m.getRte j := rfl
@[simp] theorem Mach.getDom_modClu (m : Mach) (i j : Nat) (g : Clu → Clu) : (m.modClu i g).getDom j = m.getDom j := rfl
@[simp] theorem Mach.getCtx_modClu (m : Mach) (i j : Nat) (g : Clu → Clu) : (m.modClu i g).getCtx j = m.getCtx j := rfl
@[simp] theorem Mach.getSvc_modClu (m : Mach) (i j : Nat) (g : Clu → Clu) : (m.modClu i g).getSvc j = m.getSvc j := rfl
@[simp] theorem Mach.getThdDom_modClu (m : Mach) (i j : Nat) (g : Clu → Clu) : (m.modClu i g).getThdDom j = m.getThdDom j := rfl
@[simp] theorem Mach.getThdClu_modClu (m : Mach) (i j : Nat) (g : Clu → Clu) : (m.modClu i g).getThdClu j = m.getThdClu j := rfl
@[simp] theorem Mach.job?_modClu (m : Mach) (i j : Nat) (g : Clu → Clu) : (m.modClu i g).job? j = m.job? j := rfl
@[simp] theorem Mach.self_modClu (m : Mach) (i : Nat) (g : Clu → Clu) : (m.modClu i g).self = m.self := rfl
@[simp] theorem Mach.serial_modClu (m : Mach) (i : Nat) (g : Clu → Clu) : (m.modClu i g).serial = m.serial := rfl
@[simp] theorem Mach.fence_modClu (m : Mach) (i : Nat) (g : Clu → Clu) : (m.modClu i g).fence = m.fence := rfl
@[simp] theorem Mach.hdrs_modClu (m : Mach) (i : Nat) (g : Clu → Clu) : (m.modClu i g).hdrs = m.hdrs := rfl
@[simp] theorem Mach.trc_modClu (m : Mach) (i : Nat) (g : Clu → Clu) : (m.modClu i g).trc = m.trc := rfl
@[simp] theorem Mach.cores_modClu (m : Mach) (i : Nat) (g : Clu → Clu) : (m.modClu i g).cores = m.cores := rfl
@[simp] theorem Mach.trv_modClu (m : Mach) (i : Nat) (g : Clu → Clu) : (m.modClu i g).trv = m.trv := rfl
@[simp] theorem Mach.gth_modClu (m : Mach) (i : Nat) (g : Clu → Clu) : (m.modClu i g).gth = m.gth := rfl
@[simp] theorem Mach.spr_modClu (m : Mach) (i : Nat) (g : Clu → Clu) : (m.modClu i g).spr = m.spr := rfl
@[simp] theorem Mach.ntm_modClu (m : Mach) (i : Nat) (g : Clu → Clu) : (m.modClu i g).ntm = m.ntm := rfl
@[simp] theorem Mach.chan_modClu (m : Mach) (i : Nat) (g : Clu → Clu) : (m.modClu i g).chan = m.chan := rfl
@[simp] theorem Mach.mem_modClu (m : Mach) (i : Nat) (g : Clu → Clu) : (m.modClu i g).mem = m.mem := rfl
@[simp] theorem Mach.granErr_modClu (m : Mach) (i : Nat) (g : Clu → Clu) : (m.modClu i g).granErr = m.granErr := rfl
@[simp] theorem Mach.lastHeld_modClu (m : Mach) (i : Nat) (g : Clu → Clu) : (m.modClu i g).lastHeld = m.lastHeld := rfl
@[simp] theorem Mach.upd_modClu (m : Mach) (i : Nat) (g : Clu → Clu) : (m.modClu i g).upd = m.upd := rfl
@[simp] theorem Mach.cmt_modClu (m : Mach) (i : Nat) (g : Clu → Clu) : (m.modClu i g).cmt = m.cmt := rfl
@[simp] theorem Mach.pln_modClu (m : Mach) (i : Nat) (g : Clu → Clu) : (m.modClu i g).pln = m.pln := rfl
@[simp] theorem Mach.plnDom_modClu (m : Mach) (i : Nat) (g : Clu → Clu) : (m.modClu i g).plnDom = m.plnDom := rfl
@[simp] theorem Mach.lnk_modClu (m : Mach) (i : Nat) (g : Clu → Clu) : (m.modClu i g).lnk = m.lnk := rfl
@[simp] theorem Mach.rte_modClu (m : Mach) (i : Nat) (g : Clu → Clu) : (m.modClu i g).rte = m.rte := rfl
@[simp] theorem Mach.time_modClu (m : Mach) (i : Nat) (g : Clu → Clu) : (m.modClu i g).time = m.time := rfl
@[simp] theorem Mach.arrived_modClu (m : Mach) (i : Nat) (g : Clu → Clu) : (m.modClu i g).arrived = m.arrived := rfl
@[simp] theorem Mach.inbox_modClu (m : Mach) (i : Nat) (g : Clu → Clu) : (m.modClu i g).inbox = m.inbox := rfl
@[simp] theorem Mach.flowSeq_modClu (m : Mach) (i : Nat) (g : Clu → Clu) : (m.modClu i g).flowSeq = m.flowSeq := rfl
@[simp] theorem Mach.filters_modClu (m : Mach) (i : Nat) (g : Clu → Clu) : (m.modClu i g).filters = m.filters := rfl
@[simp] theorem Mach.fetches_modClu (m : Mach) (i : Nat) (g : Clu → Clu) : (m.modClu i g).fetches = m.fetches := rfl
@[simp] theorem Mach.posted_modClu (m : Mach) (i : Nat) (g : Clu → Clu) : (m.modClu i g).posted = m.posted := rfl
@[simp] theorem Mach.handles_modClu (m : Mach) (i : Nat) (g : Clu → Clu) : (m.modClu i g).handles = m.handles := rfl
@[simp] theorem Mach.regOut_modClu (m : Mach) (i : Nat) (g : Clu → Clu) : (m.modClu i g).regOut = m.regOut := rfl
@[simp] theorem Mach.regIn_modClu (m : Mach) (i : Nat) (g : Clu → Clu) : (m.modClu i g).regIn = m.regIn := rfl
@[simp] theorem Mach.lastRead_modClu (m : Mach) (i : Nat) (g : Clu → Clu) : (m.modClu i g).lastRead = m.lastRead := rfl
@[simp] theorem Mach.dom_modClu (m : Mach) (i : Nat) (g : Clu → Clu) : (m.modClu i g).dom = m.dom := rfl
@[simp] theorem Mach.ctx_modClu (m : Mach) (i : Nat) (g : Clu → Clu) : (m.modClu i g).ctx = m.ctx := rfl
@[simp] theorem Mach.svc_modClu (m : Mach) (i : Nat) (g : Clu → Clu) : (m.modClu i g).svc = m.svc := rfl
@[simp] theorem Mach.apc_modClu (m : Mach) (i : Nat) (g : Clu → Clu) : (m.modClu i g).apc = m.apc := rfl
@[simp] theorem Mach.rng_modClu (m : Mach) (i : Nat) (g : Clu → Clu) : (m.modClu i g).rng = m.rng := rfl
@[simp] theorem Mach.flt_modClu (m : Mach) (i : Nat) (g : Clu → Clu) : (m.modClu i g).flt = m.flt := rfl
@[simp] theorem Mach.mgt_modClu (m : Mach) (i : Nat) (g : Clu → Clu) : (m.modClu i g).mgt = m.mgt := rfl
@[simp] theorem Mach.pwr_modClu (m : Mach) (i : Nat) (g : Clu → Clu) : (m.modClu i g).pwr = m.pwr := rfl
@[simp] theorem Mach.rst_modClu (m : Mach) (i : Nat) (g : Clu → Clu) : (m.modClu i g).rst = m.rst := rfl
@[simp] theorem Mach.thdSel_modClu (m : Mach) (i : Nat) (g : Clu → Clu) : (m.modClu i g).thdSel = m.thdSel := rfl
@[simp] theorem Mach.thdDom_modClu (m : Mach) (i : Nat) (g : Clu → Clu) : (m.modClu i g).thdDom = m.thdDom := rfl
@[simp] theorem Mach.thdClu_modClu (m : Mach) (i : Nat) (g : Clu → Clu) : (m.modClu i g).thdClu = m.thdClu := rfl
@[simp] theorem Mach.pins_modClu (m : Mach) (i : Nat) (g : Clu → Clu) : (m.modClu i g).pins = m.pins := rfl

/-! ## modCore -/

@[simp] theorem Mach.getCore_modCore (m : Mach) (i : Nat) (g : CoreSt → CoreSt) : (m.modCore i g).getCore i = g (m.getCore i) := by
  simp [Mach.getCore, Mach.modCore]
theorem Mach.getCore_modCore_of_ne (m : Mach) {i j : Nat} (g : CoreSt → CoreSt) (h : i ≠ j) : (m.modCore i g).getCore j = m.getCore j := by
  simp [Mach.getCore, Mach.modCore, Tab.get_upd_of_ne _ _ _ h]
@[simp] theorem Mach.getHdr_modCore (m : Mach) (i j : Nat) (g : CoreSt → CoreSt) : (m.modCore i g).getHdr j = m.getHdr j := rfl
@[simp] theorem Mach.getTrc_modCore (m : Mach) (i j : Nat) (g : CoreSt → CoreSt) : (m.modCore i g).getTrc j = m.getTrc j := rfl
@[simp] theorem Mach.getClu_modCore (m : Mach) (i j : Nat) (g : CoreSt → CoreSt) : (m.modCore i g).getClu j = m.getClu j := rfl
@[simp] theorem Mach.getTrv_modCore (m : Mach) (i j : Nat) (g : CoreSt → CoreSt) : (m.modCore i g).getTrv j = m.getTrv j := rfl
@[simp] theorem Mach.getGth_modCore (m : Mach) (i j : Nat) (g : CoreSt → CoreSt) : (m.modCore i g).getGth j = m.getGth j := rfl
@[simp] theorem Mach.getSpr_modCore (m : Mach) (i j : Nat) (g : CoreSt → CoreSt) : (m.modCore i g).getSpr j = m.getSpr j := rfl
@[simp] theorem Mach.getNtm_modCore (m : Mach) (i j : Nat) (g : CoreSt → CoreSt) : (m.modCore i g).getNtm j = m.getNtm j := rfl
@[simp] theorem Mach.getChan_modCore (m : Mach) (i j : Nat) (g : CoreSt → CoreSt) : (m.modCore i g).getChan j = m.getChan j := rfl
@[simp] theorem Mach.getUpd_modCore (m : Mach) (i j : Nat) (g : CoreSt → CoreSt) : (m.modCore i g).getUpd j = m.getUpd j := rfl
@[simp] theorem Mach.getPlnDom_modCore (m : Mach) (i j : Nat) (g : CoreSt → CoreSt) : (m.modCore i g).getPlnDom j = m.getPlnDom j := rfl
@[simp] theorem Mach.getLnk_modCore (m : Mach) (i j : Nat) (g : CoreSt → CoreSt) : (m.modCore i g).getLnk j = m.getLnk j := rfl
@[simp] theorem Mach.getRte_modCore (m : Mach) (i j : Nat) (g : CoreSt → CoreSt) : (m.modCore i g).getRte j = m.getRte j := rfl
@[simp] theorem Mach.getDom_modCore (m : Mach) (i j : Nat) (g : CoreSt → CoreSt) : (m.modCore i g).getDom j = m.getDom j := rfl
@[simp] theorem Mach.getCtx_modCore (m : Mach) (i j : Nat) (g : CoreSt → CoreSt) : (m.modCore i g).getCtx j = m.getCtx j := rfl
@[simp] theorem Mach.getSvc_modCore (m : Mach) (i j : Nat) (g : CoreSt → CoreSt) : (m.modCore i g).getSvc j = m.getSvc j := rfl
@[simp] theorem Mach.getThdDom_modCore (m : Mach) (i j : Nat) (g : CoreSt → CoreSt) : (m.modCore i g).getThdDom j = m.getThdDom j := rfl
@[simp] theorem Mach.getThdClu_modCore (m : Mach) (i j : Nat) (g : CoreSt → CoreSt) : (m.modCore i g).getThdClu j = m.getThdClu j := rfl
@[simp] theorem Mach.job?_modCore (m : Mach) (i j : Nat) (g : CoreSt → CoreSt) : (m.modCore i g).job? j = m.job? j := rfl
@[simp] theorem Mach.self_modCore (m : Mach) (i : Nat) (g : CoreSt → CoreSt) : (m.modCore i g).self = m.self := rfl
@[simp] theorem Mach.serial_modCore (m : Mach) (i : Nat) (g : CoreSt → CoreSt) : (m.modCore i g).serial = m.serial := rfl
@[simp] theorem Mach.fence_modCore (m : Mach) (i : Nat) (g : CoreSt → CoreSt) : (m.modCore i g).fence = m.fence := rfl
@[simp] theorem Mach.hdrs_modCore (m : Mach) (i : Nat) (g : CoreSt → CoreSt) : (m.modCore i g).hdrs = m.hdrs := rfl
@[simp] theorem Mach.trc_modCore (m : Mach) (i : Nat) (g : CoreSt → CoreSt) : (m.modCore i g).trc = m.trc := rfl
@[simp] theorem Mach.clu_modCore (m : Mach) (i : Nat) (g : CoreSt → CoreSt) : (m.modCore i g).clu = m.clu := rfl
@[simp] theorem Mach.trv_modCore (m : Mach) (i : Nat) (g : CoreSt → CoreSt) : (m.modCore i g).trv = m.trv := rfl
@[simp] theorem Mach.gth_modCore (m : Mach) (i : Nat) (g : CoreSt → CoreSt) : (m.modCore i g).gth = m.gth := rfl
@[simp] theorem Mach.spr_modCore (m : Mach) (i : Nat) (g : CoreSt → CoreSt) : (m.modCore i g).spr = m.spr := rfl
@[simp] theorem Mach.ntm_modCore (m : Mach) (i : Nat) (g : CoreSt → CoreSt) : (m.modCore i g).ntm = m.ntm := rfl
@[simp] theorem Mach.chan_modCore (m : Mach) (i : Nat) (g : CoreSt → CoreSt) : (m.modCore i g).chan = m.chan := rfl
@[simp] theorem Mach.mem_modCore (m : Mach) (i : Nat) (g : CoreSt → CoreSt) : (m.modCore i g).mem = m.mem := rfl
@[simp] theorem Mach.granErr_modCore (m : Mach) (i : Nat) (g : CoreSt → CoreSt) : (m.modCore i g).granErr = m.granErr := rfl
@[simp] theorem Mach.lastHeld_modCore (m : Mach) (i : Nat) (g : CoreSt → CoreSt) : (m.modCore i g).lastHeld = m.lastHeld := rfl
@[simp] theorem Mach.upd_modCore (m : Mach) (i : Nat) (g : CoreSt → CoreSt) : (m.modCore i g).upd = m.upd := rfl
@[simp] theorem Mach.cmt_modCore (m : Mach) (i : Nat) (g : CoreSt → CoreSt) : (m.modCore i g).cmt = m.cmt := rfl
@[simp] theorem Mach.pln_modCore (m : Mach) (i : Nat) (g : CoreSt → CoreSt) : (m.modCore i g).pln = m.pln := rfl
@[simp] theorem Mach.plnDom_modCore (m : Mach) (i : Nat) (g : CoreSt → CoreSt) : (m.modCore i g).plnDom = m.plnDom := rfl
@[simp] theorem Mach.lnk_modCore (m : Mach) (i : Nat) (g : CoreSt → CoreSt) : (m.modCore i g).lnk = m.lnk := rfl
@[simp] theorem Mach.rte_modCore (m : Mach) (i : Nat) (g : CoreSt → CoreSt) : (m.modCore i g).rte = m.rte := rfl
@[simp] theorem Mach.time_modCore (m : Mach) (i : Nat) (g : CoreSt → CoreSt) : (m.modCore i g).time = m.time := rfl
@[simp] theorem Mach.arrived_modCore (m : Mach) (i : Nat) (g : CoreSt → CoreSt) : (m.modCore i g).arrived = m.arrived := rfl
@[simp] theorem Mach.inbox_modCore (m : Mach) (i : Nat) (g : CoreSt → CoreSt) : (m.modCore i g).inbox = m.inbox := rfl
@[simp] theorem Mach.flowSeq_modCore (m : Mach) (i : Nat) (g : CoreSt → CoreSt) : (m.modCore i g).flowSeq = m.flowSeq := rfl
@[simp] theorem Mach.filters_modCore (m : Mach) (i : Nat) (g : CoreSt → CoreSt) : (m.modCore i g).filters = m.filters := rfl
@[simp] theorem Mach.fetches_modCore (m : Mach) (i : Nat) (g : CoreSt → CoreSt) : (m.modCore i g).fetches = m.fetches := rfl
@[simp] theorem Mach.posted_modCore (m : Mach) (i : Nat) (g : CoreSt → CoreSt) : (m.modCore i g).posted = m.posted := rfl
@[simp] theorem Mach.handles_modCore (m : Mach) (i : Nat) (g : CoreSt → CoreSt) : (m.modCore i g).handles = m.handles := rfl
@[simp] theorem Mach.regOut_modCore (m : Mach) (i : Nat) (g : CoreSt → CoreSt) : (m.modCore i g).regOut = m.regOut := rfl
@[simp] theorem Mach.regIn_modCore (m : Mach) (i : Nat) (g : CoreSt → CoreSt) : (m.modCore i g).regIn = m.regIn := rfl
@[simp] theorem Mach.lastRead_modCore (m : Mach) (i : Nat) (g : CoreSt → CoreSt) : (m.modCore i g).lastRead = m.lastRead := rfl
@[simp] theorem Mach.dom_modCore (m : Mach) (i : Nat) (g : CoreSt → CoreSt) : (m.modCore i g).dom = m.dom := rfl
@[simp] theorem Mach.ctx_modCore (m : Mach) (i : Nat) (g : CoreSt → CoreSt) : (m.modCore i g).ctx = m.ctx := rfl
@[simp] theorem Mach.svc_modCore (m : Mach) (i : Nat) (g : CoreSt → CoreSt) : (m.modCore i g).svc = m.svc := rfl
@[simp] theorem Mach.apc_modCore (m : Mach) (i : Nat) (g : CoreSt → CoreSt) : (m.modCore i g).apc = m.apc := rfl
@[simp] theorem Mach.rng_modCore (m : Mach) (i : Nat) (g : CoreSt → CoreSt) : (m.modCore i g).rng = m.rng := rfl
@[simp] theorem Mach.flt_modCore (m : Mach) (i : Nat) (g : CoreSt → CoreSt) : (m.modCore i g).flt = m.flt := rfl
@[simp] theorem Mach.mgt_modCore (m : Mach) (i : Nat) (g : CoreSt → CoreSt) : (m.modCore i g).mgt = m.mgt := rfl
@[simp] theorem Mach.pwr_modCore (m : Mach) (i : Nat) (g : CoreSt → CoreSt) : (m.modCore i g).pwr = m.pwr := rfl
@[simp] theorem Mach.rst_modCore (m : Mach) (i : Nat) (g : CoreSt → CoreSt) : (m.modCore i g).rst = m.rst := rfl
@[simp] theorem Mach.thdSel_modCore (m : Mach) (i : Nat) (g : CoreSt → CoreSt) : (m.modCore i g).thdSel = m.thdSel := rfl
@[simp] theorem Mach.thdDom_modCore (m : Mach) (i : Nat) (g : CoreSt → CoreSt) : (m.modCore i g).thdDom = m.thdDom := rfl
@[simp] theorem Mach.thdClu_modCore (m : Mach) (i : Nat) (g : CoreSt → CoreSt) : (m.modCore i g).thdClu = m.thdClu := rfl
@[simp] theorem Mach.pins_modCore (m : Mach) (i : Nat) (g : CoreSt → CoreSt) : (m.modCore i g).pins = m.pins := rfl

/-! ## modTrv -/

@[simp] theorem Mach.getTrv_modTrv (m : Mach) (i : Nat) (g : Trv → Trv) : (m.modTrv i g).getTrv i = g (m.getTrv i) := by
  simp [Mach.getTrv, Mach.modTrv]
theorem Mach.getTrv_modTrv_of_ne (m : Mach) {i j : Nat} (g : Trv → Trv) (h : i ≠ j) : (m.modTrv i g).getTrv j = m.getTrv j := by
  simp [Mach.getTrv, Mach.modTrv, Tab.get_upd_of_ne _ _ _ h]
@[simp] theorem Mach.getHdr_modTrv (m : Mach) (i j : Nat) (g : Trv → Trv) : (m.modTrv i g).getHdr j = m.getHdr j := rfl
@[simp] theorem Mach.getTrc_modTrv (m : Mach) (i j : Nat) (g : Trv → Trv) : (m.modTrv i g).getTrc j = m.getTrc j := rfl
@[simp] theorem Mach.getClu_modTrv (m : Mach) (i j : Nat) (g : Trv → Trv) : (m.modTrv i g).getClu j = m.getClu j := rfl
@[simp] theorem Mach.getCore_modTrv (m : Mach) (i j : Nat) (g : Trv → Trv) : (m.modTrv i g).getCore j = m.getCore j := rfl
@[simp] theorem Mach.getGth_modTrv (m : Mach) (i j : Nat) (g : Trv → Trv) : (m.modTrv i g).getGth j = m.getGth j := rfl
@[simp] theorem Mach.getSpr_modTrv (m : Mach) (i j : Nat) (g : Trv → Trv) : (m.modTrv i g).getSpr j = m.getSpr j := rfl
@[simp] theorem Mach.getNtm_modTrv (m : Mach) (i j : Nat) (g : Trv → Trv) : (m.modTrv i g).getNtm j = m.getNtm j := rfl
@[simp] theorem Mach.getChan_modTrv (m : Mach) (i j : Nat) (g : Trv → Trv) : (m.modTrv i g).getChan j = m.getChan j := rfl
@[simp] theorem Mach.getUpd_modTrv (m : Mach) (i j : Nat) (g : Trv → Trv) : (m.modTrv i g).getUpd j = m.getUpd j := rfl
@[simp] theorem Mach.getPlnDom_modTrv (m : Mach) (i j : Nat) (g : Trv → Trv) : (m.modTrv i g).getPlnDom j = m.getPlnDom j := rfl
@[simp] theorem Mach.getLnk_modTrv (m : Mach) (i j : Nat) (g : Trv → Trv) : (m.modTrv i g).getLnk j = m.getLnk j := rfl
@[simp] theorem Mach.getRte_modTrv (m : Mach) (i j : Nat) (g : Trv → Trv) : (m.modTrv i g).getRte j = m.getRte j := rfl
@[simp] theorem Mach.getDom_modTrv (m : Mach) (i j : Nat) (g : Trv → Trv) : (m.modTrv i g).getDom j = m.getDom j := rfl
@[simp] theorem Mach.getCtx_modTrv (m : Mach) (i j : Nat) (g : Trv → Trv) : (m.modTrv i g).getCtx j = m.getCtx j := rfl
@[simp] theorem Mach.getSvc_modTrv (m : Mach) (i j : Nat) (g : Trv → Trv) : (m.modTrv i g).getSvc j = m.getSvc j := rfl
@[simp] theorem Mach.getThdDom_modTrv (m : Mach) (i j : Nat) (g : Trv → Trv) : (m.modTrv i g).getThdDom j = m.getThdDom j := rfl
@[simp] theorem Mach.getThdClu_modTrv (m : Mach) (i j : Nat) (g : Trv → Trv) : (m.modTrv i g).getThdClu j = m.getThdClu j := rfl
@[simp] theorem Mach.job?_modTrv (m : Mach) (i j : Nat) (g : Trv → Trv) : (m.modTrv i g).job? j = m.job? j := rfl
@[simp] theorem Mach.self_modTrv (m : Mach) (i : Nat) (g : Trv → Trv) : (m.modTrv i g).self = m.self := rfl
@[simp] theorem Mach.serial_modTrv (m : Mach) (i : Nat) (g : Trv → Trv) : (m.modTrv i g).serial = m.serial := rfl
@[simp] theorem Mach.fence_modTrv (m : Mach) (i : Nat) (g : Trv → Trv) : (m.modTrv i g).fence = m.fence := rfl
@[simp] theorem Mach.hdrs_modTrv (m : Mach) (i : Nat) (g : Trv → Trv) : (m.modTrv i g).hdrs = m.hdrs := rfl
@[simp] theorem Mach.trc_modTrv (m : Mach) (i : Nat) (g : Trv → Trv) : (m.modTrv i g).trc = m.trc := rfl
@[simp] theorem Mach.clu_modTrv (m : Mach) (i : Nat) (g : Trv → Trv) : (m.modTrv i g).clu = m.clu := rfl
@[simp] theorem Mach.cores_modTrv (m : Mach) (i : Nat) (g : Trv → Trv) : (m.modTrv i g).cores = m.cores := rfl
@[simp] theorem Mach.gth_modTrv (m : Mach) (i : Nat) (g : Trv → Trv) : (m.modTrv i g).gth = m.gth := rfl
@[simp] theorem Mach.spr_modTrv (m : Mach) (i : Nat) (g : Trv → Trv) : (m.modTrv i g).spr = m.spr := rfl
@[simp] theorem Mach.ntm_modTrv (m : Mach) (i : Nat) (g : Trv → Trv) : (m.modTrv i g).ntm = m.ntm := rfl
@[simp] theorem Mach.chan_modTrv (m : Mach) (i : Nat) (g : Trv → Trv) : (m.modTrv i g).chan = m.chan := rfl
@[simp] theorem Mach.mem_modTrv (m : Mach) (i : Nat) (g : Trv → Trv) : (m.modTrv i g).mem = m.mem := rfl
@[simp] theorem Mach.granErr_modTrv (m : Mach) (i : Nat) (g : Trv → Trv) : (m.modTrv i g).granErr = m.granErr := rfl
@[simp] theorem Mach.lastHeld_modTrv (m : Mach) (i : Nat) (g : Trv → Trv) : (m.modTrv i g).lastHeld = m.lastHeld := rfl
@[simp] theorem Mach.upd_modTrv (m : Mach) (i : Nat) (g : Trv → Trv) : (m.modTrv i g).upd = m.upd := rfl
@[simp] theorem Mach.cmt_modTrv (m : Mach) (i : Nat) (g : Trv → Trv) : (m.modTrv i g).cmt = m.cmt := rfl
@[simp] theorem Mach.pln_modTrv (m : Mach) (i : Nat) (g : Trv → Trv) : (m.modTrv i g).pln = m.pln := rfl
@[simp] theorem Mach.plnDom_modTrv (m : Mach) (i : Nat) (g : Trv → Trv) : (m.modTrv i g).plnDom = m.plnDom := rfl
@[simp] theorem Mach.lnk_modTrv (m : Mach) (i : Nat) (g : Trv → Trv) : (m.modTrv i g).lnk = m.lnk := rfl
@[simp] theorem Mach.rte_modTrv (m : Mach) (i : Nat) (g : Trv → Trv) : (m.modTrv i g).rte = m.rte := rfl
@[simp] theorem Mach.time_modTrv (m : Mach) (i : Nat) (g : Trv → Trv) : (m.modTrv i g).time = m.time := rfl
@[simp] theorem Mach.arrived_modTrv (m : Mach) (i : Nat) (g : Trv → Trv) : (m.modTrv i g).arrived = m.arrived := rfl
@[simp] theorem Mach.inbox_modTrv (m : Mach) (i : Nat) (g : Trv → Trv) : (m.modTrv i g).inbox = m.inbox := rfl
@[simp] theorem Mach.flowSeq_modTrv (m : Mach) (i : Nat) (g : Trv → Trv) : (m.modTrv i g).flowSeq = m.flowSeq := rfl
@[simp] theorem Mach.filters_modTrv (m : Mach) (i : Nat) (g : Trv → Trv) : (m.modTrv i g).filters = m.filters := rfl
@[simp] theorem Mach.fetches_modTrv (m : Mach) (i : Nat) (g : Trv → Trv) : (m.modTrv i g).fetches = m.fetches := rfl
@[simp] theorem Mach.posted_modTrv (m : Mach) (i : Nat) (g : Trv → Trv) : (m.modTrv i g).posted = m.posted := rfl
@[simp] theorem Mach.handles_modTrv (m : Mach) (i : Nat) (g : Trv → Trv) : (m.modTrv i g).handles = m.handles := rfl
@[simp] theorem Mach.regOut_modTrv (m : Mach) (i : Nat) (g : Trv → Trv) : (m.modTrv i g).regOut = m.regOut := rfl
@[simp] theorem Mach.regIn_modTrv (m : Mach) (i : Nat) (g : Trv → Trv) : (m.modTrv i g).regIn = m.regIn := rfl
@[simp] theorem Mach.lastRead_modTrv (m : Mach) (i : Nat) (g : Trv → Trv) : (m.modTrv i g).lastRead = m.lastRead := rfl
@[simp] theorem Mach.dom_modTrv (m : Mach) (i : Nat) (g : Trv → Trv) : (m.modTrv i g).dom = m.dom := rfl
@[simp] theorem Mach.ctx_modTrv (m : Mach) (i : Nat) (g : Trv → Trv) : (m.modTrv i g).ctx = m.ctx := rfl
@[simp] theorem Mach.svc_modTrv (m : Mach) (i : Nat) (g : Trv → Trv) : (m.modTrv i g).svc = m.svc := rfl
@[simp] theorem Mach.apc_modTrv (m : Mach) (i : Nat) (g : Trv → Trv) : (m.modTrv i g).apc = m.apc := rfl
@[simp] theorem Mach.rng_modTrv (m : Mach) (i : Nat) (g : Trv → Trv) : (m.modTrv i g).rng = m.rng := rfl
@[simp] theorem Mach.flt_modTrv (m : Mach) (i : Nat) (g : Trv → Trv) : (m.modTrv i g).flt = m.flt := rfl
@[simp] theorem Mach.mgt_modTrv (m : Mach) (i : Nat) (g : Trv → Trv) : (m.modTrv i g).mgt = m.mgt := rfl
@[simp] theorem Mach.pwr_modTrv (m : Mach) (i : Nat) (g : Trv → Trv) : (m.modTrv i g).pwr = m.pwr := rfl
@[simp] theorem Mach.rst_modTrv (m : Mach) (i : Nat) (g : Trv → Trv) : (m.modTrv i g).rst = m.rst := rfl
@[simp] theorem Mach.thdSel_modTrv (m : Mach) (i : Nat) (g : Trv → Trv) : (m.modTrv i g).thdSel = m.thdSel := rfl
@[simp] theorem Mach.thdDom_modTrv (m : Mach) (i : Nat) (g : Trv → Trv) : (m.modTrv i g).thdDom = m.thdDom := rfl
@[simp] theorem Mach.thdClu_modTrv (m : Mach) (i : Nat) (g : Trv → Trv) : (m.modTrv i g).thdClu = m.thdClu := rfl
@[simp] theorem Mach.pins_modTrv (m : Mach) (i : Nat) (g : Trv → Trv) : (m.modTrv i g).pins = m.pins := rfl

/-! ## modGth -/

@[simp] theorem Mach.getGth_modGth (m : Mach) (i : Nat) (g : Gth → Gth) : (m.modGth i g).getGth i = g (m.getGth i) := by
  simp [Mach.getGth, Mach.modGth]
theorem Mach.getGth_modGth_of_ne (m : Mach) {i j : Nat} (g : Gth → Gth) (h : i ≠ j) : (m.modGth i g).getGth j = m.getGth j := by
  simp [Mach.getGth, Mach.modGth, Tab.get_upd_of_ne _ _ _ h]
@[simp] theorem Mach.getHdr_modGth (m : Mach) (i j : Nat) (g : Gth → Gth) : (m.modGth i g).getHdr j = m.getHdr j := rfl
@[simp] theorem Mach.getTrc_modGth (m : Mach) (i j : Nat) (g : Gth → Gth) : (m.modGth i g).getTrc j = m.getTrc j := rfl
@[simp] theorem Mach.getClu_modGth (m : Mach) (i j : Nat) (g : Gth → Gth) : (m.modGth i g).getClu j = m.getClu j := rfl
@[simp] theorem Mach.getCore_modGth (m : Mach) (i j : Nat) (g : Gth → Gth) : (m.modGth i g).getCore j = m.getCore j := rfl
@[simp] theorem Mach.getTrv_modGth (m : Mach) (i j : Nat) (g : Gth → Gth) : (m.modGth i g).getTrv j = m.getTrv j := rfl
@[simp] theorem Mach.getSpr_modGth (m : Mach) (i j : Nat) (g : Gth → Gth) : (m.modGth i g).getSpr j = m.getSpr j := rfl
@[simp] theorem Mach.getNtm_modGth (m : Mach) (i j : Nat) (g : Gth → Gth) : (m.modGth i g).getNtm j = m.getNtm j := rfl
@[simp] theorem Mach.getChan_modGth (m : Mach) (i j : Nat) (g : Gth → Gth) : (m.modGth i g).getChan j = m.getChan j := rfl
@[simp] theorem Mach.getUpd_modGth (m : Mach) (i j : Nat) (g : Gth → Gth) : (m.modGth i g).getUpd j = m.getUpd j := rfl
@[simp] theorem Mach.getPlnDom_modGth (m : Mach) (i j : Nat) (g : Gth → Gth) : (m.modGth i g).getPlnDom j = m.getPlnDom j := rfl
@[simp] theorem Mach.getLnk_modGth (m : Mach) (i j : Nat) (g : Gth → Gth) : (m.modGth i g).getLnk j = m.getLnk j := rfl
@[simp] theorem Mach.getRte_modGth (m : Mach) (i j : Nat) (g : Gth → Gth) : (m.modGth i g).getRte j = m.getRte j := rfl
@[simp] theorem Mach.getDom_modGth (m : Mach) (i j : Nat) (g : Gth → Gth) : (m.modGth i g).getDom j = m.getDom j := rfl
@[simp] theorem Mach.getCtx_modGth (m : Mach) (i j : Nat) (g : Gth → Gth) : (m.modGth i g).getCtx j = m.getCtx j := rfl
@[simp] theorem Mach.getSvc_modGth (m : Mach) (i j : Nat) (g : Gth → Gth) : (m.modGth i g).getSvc j = m.getSvc j := rfl
@[simp] theorem Mach.getThdDom_modGth (m : Mach) (i j : Nat) (g : Gth → Gth) : (m.modGth i g).getThdDom j = m.getThdDom j := rfl
@[simp] theorem Mach.getThdClu_modGth (m : Mach) (i j : Nat) (g : Gth → Gth) : (m.modGth i g).getThdClu j = m.getThdClu j := rfl
@[simp] theorem Mach.job?_modGth (m : Mach) (i j : Nat) (g : Gth → Gth) : (m.modGth i g).job? j = m.job? j := rfl
@[simp] theorem Mach.self_modGth (m : Mach) (i : Nat) (g : Gth → Gth) : (m.modGth i g).self = m.self := rfl
@[simp] theorem Mach.serial_modGth (m : Mach) (i : Nat) (g : Gth → Gth) : (m.modGth i g).serial = m.serial := rfl
@[simp] theorem Mach.fence_modGth (m : Mach) (i : Nat) (g : Gth → Gth) : (m.modGth i g).fence = m.fence := rfl
@[simp] theorem Mach.hdrs_modGth (m : Mach) (i : Nat) (g : Gth → Gth) : (m.modGth i g).hdrs = m.hdrs := rfl
@[simp] theorem Mach.trc_modGth (m : Mach) (i : Nat) (g : Gth → Gth) : (m.modGth i g).trc = m.trc := rfl
@[simp] theorem Mach.clu_modGth (m : Mach) (i : Nat) (g : Gth → Gth) : (m.modGth i g).clu = m.clu := rfl
@[simp] theorem Mach.cores_modGth (m : Mach) (i : Nat) (g : Gth → Gth) : (m.modGth i g).cores = m.cores := rfl
@[simp] theorem Mach.trv_modGth (m : Mach) (i : Nat) (g : Gth → Gth) : (m.modGth i g).trv = m.trv := rfl
@[simp] theorem Mach.spr_modGth (m : Mach) (i : Nat) (g : Gth → Gth) : (m.modGth i g).spr = m.spr := rfl
@[simp] theorem Mach.ntm_modGth (m : Mach) (i : Nat) (g : Gth → Gth) : (m.modGth i g).ntm = m.ntm := rfl
@[simp] theorem Mach.chan_modGth (m : Mach) (i : Nat) (g : Gth → Gth) : (m.modGth i g).chan = m.chan := rfl
@[simp] theorem Mach.mem_modGth (m : Mach) (i : Nat) (g : Gth → Gth) : (m.modGth i g).mem = m.mem := rfl
@[simp] theorem Mach.granErr_modGth (m : Mach) (i : Nat) (g : Gth → Gth) : (m.modGth i g).granErr = m.granErr := rfl
@[simp] theorem Mach.lastHeld_modGth (m : Mach) (i : Nat) (g : Gth → Gth) : (m.modGth i g).lastHeld = m.lastHeld := rfl
@[simp] theorem Mach.upd_modGth (m : Mach) (i : Nat) (g : Gth → Gth) : (m.modGth i g).upd = m.upd := rfl
@[simp] theorem Mach.cmt_modGth (m : Mach) (i : Nat) (g : Gth → Gth) : (m.modGth i g).cmt = m.cmt := rfl
@[simp] theorem Mach.pln_modGth (m : Mach) (i : Nat) (g : Gth → Gth) : (m.modGth i g).pln = m.pln := rfl
@[simp] theorem Mach.plnDom_modGth (m : Mach) (i : Nat) (g : Gth → Gth) : (m.modGth i g).plnDom = m.plnDom := rfl
@[simp] theorem Mach.lnk_modGth (m : Mach) (i : Nat) (g : Gth → Gth) : (m.modGth i g).lnk = m.lnk := rfl
@[simp] theorem Mach.rte_modGth (m : Mach) (i : Nat) (g : Gth → Gth) : (m.modGth i g).rte = m.rte := rfl
@[simp] theorem Mach.time_modGth (m : Mach) (i : Nat) (g : Gth → Gth) : (m.modGth i g).time = m.time := rfl
@[simp] theorem Mach.arrived_modGth (m : Mach) (i : Nat) (g : Gth → Gth) : (m.modGth i g).arrived = m.arrived := rfl
@[simp] theorem Mach.inbox_modGth (m : Mach) (i : Nat) (g : Gth → Gth) : (m.modGth i g).inbox = m.inbox := rfl
@[simp] theorem Mach.flowSeq_modGth (m : Mach) (i : Nat) (g : Gth → Gth) : (m.modGth i g).flowSeq = m.flowSeq := rfl
@[simp] theorem Mach.filters_modGth (m : Mach) (i : Nat) (g : Gth → Gth) : (m.modGth i g).filters = m.filters := rfl
@[simp] theorem Mach.fetches_modGth (m : Mach) (i : Nat) (g : Gth → Gth) : (m.modGth i g).fetches = m.fetches := rfl
@[simp] theorem Mach.posted_modGth (m : Mach) (i : Nat) (g : Gth → Gth) : (m.modGth i g).posted = m.posted := rfl
@[simp] theorem Mach.handles_modGth (m : Mach) (i : Nat) (g : Gth → Gth) : (m.modGth i g).handles = m.handles := rfl
@[simp] theorem Mach.regOut_modGth (m : Mach) (i : Nat) (g : Gth → Gth) : (m.modGth i g).regOut = m.regOut := rfl
@[simp] theorem Mach.regIn_modGth (m : Mach) (i : Nat) (g : Gth → Gth) : (m.modGth i g).regIn = m.regIn := rfl
@[simp] theorem Mach.lastRead_modGth (m : Mach) (i : Nat) (g : Gth → Gth) : (m.modGth i g).lastRead = m.lastRead := rfl
@[simp] theorem Mach.dom_modGth (m : Mach) (i : Nat) (g : Gth → Gth) : (m.modGth i g).dom = m.dom := rfl
@[simp] theorem Mach.ctx_modGth (m : Mach) (i : Nat) (g : Gth → Gth) : (m.modGth i g).ctx = m.ctx := rfl
@[simp] theorem Mach.svc_modGth (m : Mach) (i : Nat) (g : Gth → Gth) : (m.modGth i g).svc = m.svc := rfl
@[simp] theorem Mach.apc_modGth (m : Mach) (i : Nat) (g : Gth → Gth) : (m.modGth i g).apc = m.apc := rfl
@[simp] theorem Mach.rng_modGth (m : Mach) (i : Nat) (g : Gth → Gth) : (m.modGth i g).rng = m.rng := rfl
@[simp] theorem Mach.flt_modGth (m : Mach) (i : Nat) (g : Gth → Gth) : (m.modGth i g).flt = m.flt := rfl
@[simp] theorem Mach.mgt_modGth (m : Mach) (i : Nat) (g : Gth → Gth) : (m.modGth i g).mgt = m.mgt := rfl
@[simp] theorem Mach.pwr_modGth (m : Mach) (i : Nat) (g : Gth → Gth) : (m.modGth i g).pwr = m.pwr := rfl
@[simp] theorem Mach.rst_modGth (m : Mach) (i : Nat) (g : Gth → Gth) : (m.modGth i g).rst = m.rst := rfl
@[simp] theorem Mach.thdSel_modGth (m : Mach) (i : Nat) (g : Gth → Gth) : (m.modGth i g).thdSel = m.thdSel := rfl
@[simp] theorem Mach.thdDom_modGth (m : Mach) (i : Nat) (g : Gth → Gth) : (m.modGth i g).thdDom = m.thdDom := rfl
@[simp] theorem Mach.thdClu_modGth (m : Mach) (i : Nat) (g : Gth → Gth) : (m.modGth i g).thdClu = m.thdClu := rfl
@[simp] theorem Mach.pins_modGth (m : Mach) (i : Nat) (g : Gth → Gth) : (m.modGth i g).pins = m.pins := rfl

/-! ## modSpr -/

@[simp] theorem Mach.getSpr_modSpr (m : Mach) (i : Nat) (g : Spr → Spr) : (m.modSpr i g).getSpr i = g (m.getSpr i) := by
  simp [Mach.getSpr, Mach.modSpr]
theorem Mach.getSpr_modSpr_of_ne (m : Mach) {i j : Nat} (g : Spr → Spr) (h : i ≠ j) : (m.modSpr i g).getSpr j = m.getSpr j := by
  simp [Mach.getSpr, Mach.modSpr, Tab.get_upd_of_ne _ _ _ h]
@[simp] theorem Mach.getHdr_modSpr (m : Mach) (i j : Nat) (g : Spr → Spr) : (m.modSpr i g).getHdr j = m.getHdr j := rfl
@[simp] theorem Mach.getTrc_modSpr (m : Mach) (i j : Nat) (g : Spr → Spr) : (m.modSpr i g).getTrc j = m.getTrc j := rfl
@[simp] theorem Mach.getClu_modSpr (m : Mach) (i j : Nat) (g : Spr → Spr) : (m.modSpr i g).getClu j = m.getClu j := rfl
@[simp] theorem Mach.getCore_modSpr (m : Mach) (i j : Nat) (g : Spr → Spr) : (m.modSpr i g).getCore j = m.getCore j := rfl
@[simp] theorem Mach.getTrv_modSpr (m : Mach) (i j : Nat) (g : Spr → Spr) : (m.modSpr i g).getTrv j = m.getTrv j := rfl
@[simp] theorem Mach.getGth_modSpr (m : Mach) (i j : Nat) (g : Spr → Spr) : (m.modSpr i g).getGth j = m.getGth j := rfl
@[simp] theorem Mach.getNtm_modSpr (m : Mach) (i j : Nat) (g : Spr → Spr) : (m.modSpr i g).getNtm j = m.getNtm j := rfl
@[simp] theorem Mach.getChan_modSpr (m : Mach) (i j : Nat) (g : Spr → Spr) : (m.modSpr i g).getChan j = m.getChan j := rfl
@[simp] theorem Mach.getUpd_modSpr (m : Mach) (i j : Nat) (g : Spr → Spr) : (m.modSpr i g).getUpd j = m.getUpd j := rfl
@[simp] theorem Mach.getPlnDom_modSpr (m : Mach) (i j : Nat) (g : Spr → Spr) : (m.modSpr i g).getPlnDom j = m.getPlnDom j := rfl
@[simp] theorem Mach.getLnk_modSpr (m : Mach) (i j : Nat) (g : Spr → Spr) : (m.modSpr i g).getLnk j = m.getLnk j := rfl
@[simp] theorem Mach.getRte_modSpr (m : Mach) (i j : Nat) (g : Spr → Spr) : (m.modSpr i g).getRte j = m.getRte j := rfl
@[simp] theorem Mach.getDom_modSpr (m : Mach) (i j : Nat) (g : Spr → Spr) : (m.modSpr i g).getDom j = m.getDom j := rfl
@[simp] theorem Mach.getCtx_modSpr (m : Mach) (i j : Nat) (g : Spr → Spr) : (m.modSpr i g).getCtx j = m.getCtx j := rfl
@[simp] theorem Mach.getSvc_modSpr (m : Mach) (i j : Nat) (g : Spr → Spr) : (m.modSpr i g).getSvc j = m.getSvc j := rfl
@[simp] theorem Mach.getThdDom_modSpr (m : Mach) (i j : Nat) (g : Spr → Spr) : (m.modSpr i g).getThdDom j = m.getThdDom j := rfl
@[simp] theorem Mach.getThdClu_modSpr (m : Mach) (i j : Nat) (g : Spr → Spr) : (m.modSpr i g).getThdClu j = m.getThdClu j := rfl
@[simp] theorem Mach.job?_modSpr (m : Mach) (i j : Nat) (g : Spr → Spr) : (m.modSpr i g).job? j = m.job? j := rfl
@[simp] theorem Mach.self_modSpr (m : Mach) (i : Nat) (g : Spr → Spr) : (m.modSpr i g).self = m.self := rfl
@[simp] theorem Mach.serial_modSpr (m : Mach) (i : Nat) (g : Spr → Spr) : (m.modSpr i g).serial = m.serial := rfl
@[simp] theorem Mach.fence_modSpr (m : Mach) (i : Nat) (g : Spr → Spr) : (m.modSpr i g).fence = m.fence := rfl
@[simp] theorem Mach.hdrs_modSpr (m : Mach) (i : Nat) (g : Spr → Spr) : (m.modSpr i g).hdrs = m.hdrs := rfl
@[simp] theorem Mach.trc_modSpr (m : Mach) (i : Nat) (g : Spr → Spr) : (m.modSpr i g).trc = m.trc := rfl
@[simp] theorem Mach.clu_modSpr (m : Mach) (i : Nat) (g : Spr → Spr) : (m.modSpr i g).clu = m.clu := rfl
@[simp] theorem Mach.cores_modSpr (m : Mach) (i : Nat) (g : Spr → Spr) : (m.modSpr i g).cores = m.cores := rfl
@[simp] theorem Mach.trv_modSpr (m : Mach) (i : Nat) (g : Spr → Spr) : (m.modSpr i g).trv = m.trv := rfl
@[simp] theorem Mach.gth_modSpr (m : Mach) (i : Nat) (g : Spr → Spr) : (m.modSpr i g).gth = m.gth := rfl
@[simp] theorem Mach.ntm_modSpr (m : Mach) (i : Nat) (g : Spr → Spr) : (m.modSpr i g).ntm = m.ntm := rfl
@[simp] theorem Mach.chan_modSpr (m : Mach) (i : Nat) (g : Spr → Spr) : (m.modSpr i g).chan = m.chan := rfl
@[simp] theorem Mach.mem_modSpr (m : Mach) (i : Nat) (g : Spr → Spr) : (m.modSpr i g).mem = m.mem := rfl
@[simp] theorem Mach.granErr_modSpr (m : Mach) (i : Nat) (g : Spr → Spr) : (m.modSpr i g).granErr = m.granErr := rfl
@[simp] theorem Mach.lastHeld_modSpr (m : Mach) (i : Nat) (g : Spr → Spr) : (m.modSpr i g).lastHeld = m.lastHeld := rfl
@[simp] theorem Mach.upd_modSpr (m : Mach) (i : Nat) (g : Spr → Spr) : (m.modSpr i g).upd = m.upd := rfl
@[simp] theorem Mach.cmt_modSpr (m : Mach) (i : Nat) (g : Spr → Spr) : (m.modSpr i g).cmt = m.cmt := rfl
@[simp] theorem Mach.pln_modSpr (m : Mach) (i : Nat) (g : Spr → Spr) : (m.modSpr i g).pln = m.pln := rfl
@[simp] theorem Mach.plnDom_modSpr (m : Mach) (i : Nat) (g : Spr → Spr) : (m.modSpr i g).plnDom = m.plnDom := rfl
@[simp] theorem Mach.lnk_modSpr (m : Mach) (i : Nat) (g : Spr → Spr) : (m.modSpr i g).lnk = m.lnk := rfl
@[simp] theorem Mach.rte_modSpr (m : Mach) (i : Nat) (g : Spr → Spr) : (m.modSpr i g).rte = m.rte := rfl
@[simp] theorem Mach.time_modSpr (m : Mach) (i : Nat) (g : Spr → Spr) : (m.modSpr i g).time = m.time := rfl
@[simp] theorem Mach.arrived_modSpr (m : Mach) (i : Nat) (g : Spr → Spr) : (m.modSpr i g).arrived = m.arrived := rfl
@[simp] theorem Mach.inbox_modSpr (m : Mach) (i : Nat) (g : Spr → Spr) : (m.modSpr i g).inbox = m.inbox := rfl
@[simp] theorem Mach.flowSeq_modSpr (m : Mach) (i : Nat) (g : Spr → Spr) : (m.modSpr i g).flowSeq = m.flowSeq := rfl
@[simp] theorem Mach.filters_modSpr (m : Mach) (i : Nat) (g : Spr → Spr) : (m.modSpr i g).filters = m.filters := rfl
@[simp] theorem Mach.fetches_modSpr (m : Mach) (i : Nat) (g : Spr → Spr) : (m.modSpr i g).fetches = m.fetches := rfl
@[simp] theorem Mach.posted_modSpr (m : Mach) (i : Nat) (g : Spr → Spr) : (m.modSpr i g).posted = m.posted := rfl
@[simp] theorem Mach.handles_modSpr (m : Mach) (i : Nat) (g : Spr → Spr) : (m.modSpr i g).handles = m.handles := rfl
@[simp] theorem Mach.regOut_modSpr (m : Mach) (i : Nat) (g : Spr → Spr) : (m.modSpr i g).regOut = m.regOut := rfl
@[simp] theorem Mach.regIn_modSpr (m : Mach) (i : Nat) (g : Spr → Spr) : (m.modSpr i g).regIn = m.regIn := rfl
@[simp] theorem Mach.lastRead_modSpr (m : Mach) (i : Nat) (g : Spr → Spr) : (m.modSpr i g).lastRead = m.lastRead := rfl
@[simp] theorem Mach.dom_modSpr (m : Mach) (i : Nat) (g : Spr → Spr) : (m.modSpr i g).dom = m.dom := rfl
@[simp] theorem Mach.ctx_modSpr (m : Mach) (i : Nat) (g : Spr → Spr) : (m.modSpr i g).ctx = m.ctx := rfl
@[simp] theorem Mach.svc_modSpr (m : Mach) (i : Nat) (g : Spr → Spr) : (m.modSpr i g).svc = m.svc := rfl
@[simp] theorem Mach.apc_modSpr (m : Mach) (i : Nat) (g : Spr → Spr) : (m.modSpr i g).apc = m.apc := rfl
@[simp] theorem Mach.rng_modSpr (m : Mach) (i : Nat) (g : Spr → Spr) : (m.modSpr i g).rng = m.rng := rfl
@[simp] theorem Mach.flt_modSpr (m : Mach) (i : Nat) (g : Spr → Spr) : (m.modSpr i g).flt = m.flt := rfl
@[simp] theorem Mach.mgt_modSpr (m : Mach) (i : Nat) (g : Spr → Spr) : (m.modSpr i g).mgt = m.mgt := rfl
@[simp] theorem Mach.pwr_modSpr (m : Mach) (i : Nat) (g : Spr → Spr) : (m.modSpr i g).pwr = m.pwr := rfl
@[simp] theorem Mach.rst_modSpr (m : Mach) (i : Nat) (g : Spr → Spr) : (m.modSpr i g).rst = m.rst := rfl
@[simp] theorem Mach.thdSel_modSpr (m : Mach) (i : Nat) (g : Spr → Spr) : (m.modSpr i g).thdSel = m.thdSel := rfl
@[simp] theorem Mach.thdDom_modSpr (m : Mach) (i : Nat) (g : Spr → Spr) : (m.modSpr i g).thdDom = m.thdDom := rfl
@[simp] theorem Mach.thdClu_modSpr (m : Mach) (i : Nat) (g : Spr → Spr) : (m.modSpr i g).thdClu = m.thdClu := rfl
@[simp] theorem Mach.pins_modSpr (m : Mach) (i : Nat) (g : Spr → Spr) : (m.modSpr i g).pins = m.pins := rfl

/-! ## modNtm -/

@[simp] theorem Mach.getNtm_modNtm (m : Mach) (i : Nat) (g : MemPage → MemPage) : (m.modNtm i g).getNtm i = g (m.getNtm i) := by
  simp [Mach.getNtm, Mach.modNtm]
theorem Mach.getNtm_modNtm_of_ne (m : Mach) {i j : Nat} (g : MemPage → MemPage) (h : i ≠ j) : (m.modNtm i g).getNtm j = m.getNtm j := by
  simp [Mach.getNtm, Mach.modNtm, Tab.get_upd_of_ne _ _ _ h]
@[simp] theorem Mach.getHdr_modNtm (m : Mach) (i j : Nat) (g : MemPage → MemPage) : (m.modNtm i g).getHdr j = m.getHdr j := rfl
@[simp] theorem Mach.getTrc_modNtm (m : Mach) (i j : Nat) (g : MemPage → MemPage) : (m.modNtm i g).getTrc j = m.getTrc j := rfl
@[simp] theorem Mach.getClu_modNtm (m : Mach) (i j : Nat) (g : MemPage → MemPage) : (m.modNtm i g).getClu j = m.getClu j := rfl
@[simp] theorem Mach.getCore_modNtm (m : Mach) (i j : Nat) (g : MemPage → MemPage) : (m.modNtm i g).getCore j = m.getCore j := rfl
@[simp] theorem Mach.getTrv_modNtm (m : Mach) (i j : Nat) (g : MemPage → MemPage) : (m.modNtm i g).getTrv j = m.getTrv j := rfl
@[simp] theorem Mach.getGth_modNtm (m : Mach) (i j : Nat) (g : MemPage → MemPage) : (m.modNtm i g).getGth j = m.getGth j := rfl
@[simp] theorem Mach.getSpr_modNtm (m : Mach) (i j : Nat) (g : MemPage → MemPage) : (m.modNtm i g).getSpr j = m.getSpr j := rfl
@[simp] theorem Mach.getChan_modNtm (m : Mach) (i j : Nat) (g : MemPage → MemPage) : (m.modNtm i g).getChan j = m.getChan j := rfl
@[simp] theorem Mach.getUpd_modNtm (m : Mach) (i j : Nat) (g : MemPage → MemPage) : (m.modNtm i g).getUpd j = m.getUpd j := rfl
@[simp] theorem Mach.getPlnDom_modNtm (m : Mach) (i j : Nat) (g : MemPage → MemPage) : (m.modNtm i g).getPlnDom j = m.getPlnDom j := rfl
@[simp] theorem Mach.getLnk_modNtm (m : Mach) (i j : Nat) (g : MemPage → MemPage) : (m.modNtm i g).getLnk j = m.getLnk j := rfl
@[simp] theorem Mach.getRte_modNtm (m : Mach) (i j : Nat) (g : MemPage → MemPage) : (m.modNtm i g).getRte j = m.getRte j := rfl
@[simp] theorem Mach.getDom_modNtm (m : Mach) (i j : Nat) (g : MemPage → MemPage) : (m.modNtm i g).getDom j = m.getDom j := rfl
@[simp] theorem Mach.getCtx_modNtm (m : Mach) (i j : Nat) (g : MemPage → MemPage) : (m.modNtm i g).getCtx j = m.getCtx j := rfl
@[simp] theorem Mach.getSvc_modNtm (m : Mach) (i j : Nat) (g : MemPage → MemPage) : (m.modNtm i g).getSvc j = m.getSvc j := rfl
@[simp] theorem Mach.getThdDom_modNtm (m : Mach) (i j : Nat) (g : MemPage → MemPage) : (m.modNtm i g).getThdDom j = m.getThdDom j := rfl
@[simp] theorem Mach.getThdClu_modNtm (m : Mach) (i j : Nat) (g : MemPage → MemPage) : (m.modNtm i g).getThdClu j = m.getThdClu j := rfl
@[simp] theorem Mach.job?_modNtm (m : Mach) (i j : Nat) (g : MemPage → MemPage) : (m.modNtm i g).job? j = m.job? j := rfl
@[simp] theorem Mach.self_modNtm (m : Mach) (i : Nat) (g : MemPage → MemPage) : (m.modNtm i g).self = m.self := rfl
@[simp] theorem Mach.serial_modNtm (m : Mach) (i : Nat) (g : MemPage → MemPage) : (m.modNtm i g).serial = m.serial := rfl
@[simp] theorem Mach.fence_modNtm (m : Mach) (i : Nat) (g : MemPage → MemPage) : (m.modNtm i g).fence = m.fence := rfl
@[simp] theorem Mach.hdrs_modNtm (m : Mach) (i : Nat) (g : MemPage → MemPage) : (m.modNtm i g).hdrs = m.hdrs := rfl
@[simp] theorem Mach.trc_modNtm (m : Mach) (i : Nat) (g : MemPage → MemPage) : (m.modNtm i g).trc = m.trc := rfl
@[simp] theorem Mach.clu_modNtm (m : Mach) (i : Nat) (g : MemPage → MemPage) : (m.modNtm i g).clu = m.clu := rfl
@[simp] theorem Mach.cores_modNtm (m : Mach) (i : Nat) (g : MemPage → MemPage) : (m.modNtm i g).cores = m.cores := rfl
@[simp] theorem Mach.trv_modNtm (m : Mach) (i : Nat) (g : MemPage → MemPage) : (m.modNtm i g).trv = m.trv := rfl
@[simp] theorem Mach.gth_modNtm (m : Mach) (i : Nat) (g : MemPage → MemPage) : (m.modNtm i g).gth = m.gth := rfl
@[simp] theorem Mach.spr_modNtm (m : Mach) (i : Nat) (g : MemPage → MemPage) : (m.modNtm i g).spr = m.spr := rfl
@[simp] theorem Mach.chan_modNtm (m : Mach) (i : Nat) (g : MemPage → MemPage) : (m.modNtm i g).chan = m.chan := rfl
@[simp] theorem Mach.mem_modNtm (m : Mach) (i : Nat) (g : MemPage → MemPage) : (m.modNtm i g).mem = m.mem := rfl
@[simp] theorem Mach.granErr_modNtm (m : Mach) (i : Nat) (g : MemPage → MemPage) : (m.modNtm i g).granErr = m.granErr := rfl
@[simp] theorem Mach.lastHeld_modNtm (m : Mach) (i : Nat) (g : MemPage → MemPage) : (m.modNtm i g).lastHeld = m.lastHeld := rfl
@[simp] theorem Mach.upd_modNtm (m : Mach) (i : Nat) (g : MemPage → MemPage) : (m.modNtm i g).upd = m.upd := rfl
@[simp] theorem Mach.cmt_modNtm (m : Mach) (i : Nat) (g : MemPage → MemPage) : (m.modNtm i g).cmt = m.cmt := rfl
@[simp] theorem Mach.pln_modNtm (m : Mach) (i : Nat) (g : MemPage → MemPage) : (m.modNtm i g).pln = m.pln := rfl
@[simp] theorem Mach.plnDom_modNtm (m : Mach) (i : Nat) (g : MemPage → MemPage) : (m.modNtm i g).plnDom = m.plnDom := rfl
@[simp] theorem Mach.lnk_modNtm (m : Mach) (i : Nat) (g : MemPage → MemPage) : (m.modNtm i g).lnk = m.lnk := rfl
@[simp] theorem Mach.rte_modNtm (m : Mach) (i : Nat) (g : MemPage → MemPage) : (m.modNtm i g).rte = m.rte := rfl
@[simp] theorem Mach.time_modNtm (m : Mach) (i : Nat) (g : MemPage → MemPage) : (m.modNtm i g).time = m.time := rfl
@[simp] theorem Mach.arrived_modNtm (m : Mach) (i : Nat) (g : MemPage → MemPage) : (m.modNtm i g).arrived = m.arrived := rfl
@[simp] theorem Mach.inbox_modNtm (m : Mach) (i : Nat) (g : MemPage → MemPage) : (m.modNtm i g).inbox = m.inbox := rfl
@[simp] theorem Mach.flowSeq_modNtm (m : Mach) (i : Nat) (g : MemPage → MemPage) : (m.modNtm i g).flowSeq = m.flowSeq := rfl
@[simp] theorem Mach.filters_modNtm (m : Mach) (i : Nat) (g : MemPage → MemPage) : (m.modNtm i g).filters = m.filters := rfl
@[simp] theorem Mach.fetches_modNtm (m : Mach) (i : Nat) (g : MemPage → MemPage) : (m.modNtm i g).fetches = m.fetches := rfl
@[simp] theorem Mach.posted_modNtm (m : Mach) (i : Nat) (g : MemPage → MemPage) : (m.modNtm i g).posted = m.posted := rfl
@[simp] theorem Mach.handles_modNtm (m : Mach) (i : Nat) (g : MemPage → MemPage) : (m.modNtm i g).handles = m.handles := rfl
@[simp] theorem Mach.regOut_modNtm (m : Mach) (i : Nat) (g : MemPage → MemPage) : (m.modNtm i g).regOut = m.regOut := rfl
@[simp] theorem Mach.regIn_modNtm (m : Mach) (i : Nat) (g : MemPage → MemPage) : (m.modNtm i g).regIn = m.regIn := rfl
@[simp] theorem Mach.lastRead_modNtm (m : Mach) (i : Nat) (g : MemPage → MemPage) : (m.modNtm i g).lastRead = m.lastRead := rfl
@[simp] theorem Mach.dom_modNtm (m : Mach) (i : Nat) (g : MemPage → MemPage) : (m.modNtm i g).dom = m.dom := rfl
@[simp] theorem Mach.ctx_modNtm (m : Mach) (i : Nat) (g : MemPage → MemPage) : (m.modNtm i g).ctx = m.ctx := rfl
@[simp] theorem Mach.svc_modNtm (m : Mach) (i : Nat) (g : MemPage → MemPage) : (m.modNtm i g).svc = m.svc := rfl
@[simp] theorem Mach.apc_modNtm (m : Mach) (i : Nat) (g : MemPage → MemPage) : (m.modNtm i g).apc = m.apc := rfl
@[simp] theorem Mach.rng_modNtm (m : Mach) (i : Nat) (g : MemPage → MemPage) : (m.modNtm i g).rng = m.rng := rfl
@[simp] theorem Mach.flt_modNtm (m : Mach) (i : Nat) (g : MemPage → MemPage) : (m.modNtm i g).flt = m.flt := rfl
@[simp] theorem Mach.mgt_modNtm (m : Mach) (i : Nat) (g : MemPage → MemPage) : (m.modNtm i g).mgt = m.mgt := rfl
@[simp] theorem Mach.pwr_modNtm (m : Mach) (i : Nat) (g : MemPage → MemPage) : (m.modNtm i g).pwr = m.pwr := rfl
@[simp] theorem Mach.rst_modNtm (m : Mach) (i : Nat) (g : MemPage → MemPage) : (m.modNtm i g).rst = m.rst := rfl
@[simp] theorem Mach.thdSel_modNtm (m : Mach) (i : Nat) (g : MemPage → MemPage) : (m.modNtm i g).thdSel = m.thdSel := rfl
@[simp] theorem Mach.thdDom_modNtm (m : Mach) (i : Nat) (g : MemPage → MemPage) : (m.modNtm i g).thdDom = m.thdDom := rfl
@[simp] theorem Mach.thdClu_modNtm (m : Mach) (i : Nat) (g : MemPage → MemPage) : (m.modNtm i g).thdClu = m.thdClu := rfl
@[simp] theorem Mach.pins_modNtm (m : Mach) (i : Nat) (g : MemPage → MemPage) : (m.modNtm i g).pins = m.pins := rfl

/-! ## modChan -/

@[simp] theorem Mach.getChan_modChan (m : Mach) (i : Nat) (g : MemPage → MemPage) : (m.modChan i g).getChan i = g (m.getChan i) := by
  simp [Mach.getChan, Mach.modChan]
theorem Mach.getChan_modChan_of_ne (m : Mach) {i j : Nat} (g : MemPage → MemPage) (h : i ≠ j) : (m.modChan i g).getChan j = m.getChan j := by
  simp [Mach.getChan, Mach.modChan, Tab.get_upd_of_ne _ _ _ h]
@[simp] theorem Mach.getHdr_modChan (m : Mach) (i j : Nat) (g : MemPage → MemPage) : (m.modChan i g).getHdr j = m.getHdr j := rfl
@[simp] theorem Mach.getTrc_modChan (m : Mach) (i j : Nat) (g : MemPage → MemPage) : (m.modChan i g).getTrc j = m.getTrc j := rfl
@[simp] theorem Mach.getClu_modChan (m : Mach) (i j : Nat) (g : MemPage → MemPage) : (m.modChan i g).getClu j = m.getClu j := rfl
@[simp] theorem Mach.getCore_modChan (m : Mach) (i j : Nat) (g : MemPage → MemPage) : (m.modChan i g).getCore j = m.getCore j := rfl
@[simp] theorem Mach.getTrv_modChan (m : Mach) (i j : Nat) (g : MemPage → MemPage) : (m.modChan i g).getTrv j = m.getTrv j := rfl
@[simp] theorem Mach.getGth_modChan (m : Mach) (i j : Nat) (g : MemPage → MemPage) : (m.modChan i g).getGth j = m.getGth j := rfl
@[simp] theorem Mach.getSpr_modChan (m : Mach) (i j : Nat) (g : MemPage → MemPage) : (m.modChan i g).getSpr j = m.getSpr j := rfl
@[simp] theorem Mach.getNtm_modChan (m : Mach) (i j : Nat) (g : MemPage → MemPage) : (m.modChan i g).getNtm j = m.getNtm j := rfl
@[simp] theorem Mach.getUpd_modChan (m : Mach) (i j : Nat) (g : MemPage → MemPage) : (m.modChan i g).getUpd j = m.getUpd j := rfl
@[simp] theorem Mach.getPlnDom_modChan (m : Mach) (i j : Nat) (g : MemPage → MemPage) : (m.modChan i g).getPlnDom j = m.getPlnDom j := rfl
@[simp] theorem Mach.getLnk_modChan (m : Mach) (i j : Nat) (g : MemPage → MemPage) : (m.modChan i g).getLnk j = m.getLnk j := rfl
@[simp] theorem Mach.getRte_modChan (m : Mach) (i j : Nat) (g : MemPage → MemPage) : (m.modChan i g).getRte j = m.getRte j := rfl
@[simp] theorem Mach.getDom_modChan (m : Mach) (i j : Nat) (g : MemPage → MemPage) : (m.modChan i g).getDom j = m.getDom j := rfl
@[simp] theorem Mach.getCtx_modChan (m : Mach) (i j : Nat) (g : MemPage → MemPage) : (m.modChan i g).getCtx j = m.getCtx j := rfl
@[simp] theorem Mach.getSvc_modChan (m : Mach) (i j : Nat) (g : MemPage → MemPage) : (m.modChan i g).getSvc j = m.getSvc j := rfl
@[simp] theorem Mach.getThdDom_modChan (m : Mach) (i j : Nat) (g : MemPage → MemPage) : (m.modChan i g).getThdDom j = m.getThdDom j := rfl
@[simp] theorem Mach.getThdClu_modChan (m : Mach) (i j : Nat) (g : MemPage → MemPage) : (m.modChan i g).getThdClu j = m.getThdClu j := rfl
@[simp] theorem Mach.job?_modChan (m : Mach) (i j : Nat) (g : MemPage → MemPage) : (m.modChan i g).job? j = m.job? j := rfl
@[simp] theorem Mach.self_modChan (m : Mach) (i : Nat) (g : MemPage → MemPage) : (m.modChan i g).self = m.self := rfl
@[simp] theorem Mach.serial_modChan (m : Mach) (i : Nat) (g : MemPage → MemPage) : (m.modChan i g).serial = m.serial := rfl
@[simp] theorem Mach.fence_modChan (m : Mach) (i : Nat) (g : MemPage → MemPage) : (m.modChan i g).fence = m.fence := rfl
@[simp] theorem Mach.hdrs_modChan (m : Mach) (i : Nat) (g : MemPage → MemPage) : (m.modChan i g).hdrs = m.hdrs := rfl
@[simp] theorem Mach.trc_modChan (m : Mach) (i : Nat) (g : MemPage → MemPage) : (m.modChan i g).trc = m.trc := rfl
@[simp] theorem Mach.clu_modChan (m : Mach) (i : Nat) (g : MemPage → MemPage) : (m.modChan i g).clu = m.clu := rfl
@[simp] theorem Mach.cores_modChan (m : Mach) (i : Nat) (g : MemPage → MemPage) : (m.modChan i g).cores = m.cores := rfl
@[simp] theorem Mach.trv_modChan (m : Mach) (i : Nat) (g : MemPage → MemPage) : (m.modChan i g).trv = m.trv := rfl
@[simp] theorem Mach.gth_modChan (m : Mach) (i : Nat) (g : MemPage → MemPage) : (m.modChan i g).gth = m.gth := rfl
@[simp] theorem Mach.spr_modChan (m : Mach) (i : Nat) (g : MemPage → MemPage) : (m.modChan i g).spr = m.spr := rfl
@[simp] theorem Mach.ntm_modChan (m : Mach) (i : Nat) (g : MemPage → MemPage) : (m.modChan i g).ntm = m.ntm := rfl
@[simp] theorem Mach.mem_modChan (m : Mach) (i : Nat) (g : MemPage → MemPage) : (m.modChan i g).mem = m.mem := rfl
@[simp] theorem Mach.granErr_modChan (m : Mach) (i : Nat) (g : MemPage → MemPage) : (m.modChan i g).granErr = m.granErr := rfl
@[simp] theorem Mach.lastHeld_modChan (m : Mach) (i : Nat) (g : MemPage → MemPage) : (m.modChan i g).lastHeld = m.lastHeld := rfl
@[simp] theorem Mach.upd_modChan (m : Mach) (i : Nat) (g : MemPage → MemPage) : (m.modChan i g).upd = m.upd := rfl
@[simp] theorem Mach.cmt_modChan (m : Mach) (i : Nat) (g : MemPage → MemPage) : (m.modChan i g).cmt = m.cmt := rfl
@[simp] theorem Mach.pln_modChan (m : Mach) (i : Nat) (g : MemPage → MemPage) : (m.modChan i g).pln = m.pln := rfl
@[simp] theorem Mach.plnDom_modChan (m : Mach) (i : Nat) (g : MemPage → MemPage) : (m.modChan i g).plnDom = m.plnDom := rfl
@[simp] theorem Mach.lnk_modChan (m : Mach) (i : Nat) (g : MemPage → MemPage) : (m.modChan i g).lnk = m.lnk := rfl
@[simp] theorem Mach.rte_modChan (m : Mach) (i : Nat) (g : MemPage → MemPage) : (m.modChan i g).rte = m.rte := rfl
@[simp] theorem Mach.time_modChan (m : Mach) (i : Nat) (g : MemPage → MemPage) : (m.modChan i g).time = m.time := rfl
@[simp] theorem Mach.arrived_modChan (m : Mach) (i : Nat) (g : MemPage → MemPage) : (m.modChan i g).arrived = m.arrived := rfl
@[simp] theorem Mach.inbox_modChan (m : Mach) (i : Nat) (g : MemPage → MemPage) : (m.modChan i g).inbox = m.inbox := rfl
@[simp] theorem Mach.flowSeq_modChan (m : Mach) (i : Nat) (g : MemPage → MemPage) : (m.modChan i g).flowSeq = m.flowSeq := rfl
@[simp] theorem Mach.filters_modChan (m : Mach) (i : Nat) (g : MemPage → MemPage) : (m.modChan i g).filters = m.filters := rfl
@[simp] theorem Mach.fetches_modChan (m : Mach) (i : Nat) (g : MemPage → MemPage) : (m.modChan i g).fetches = m.fetches := rfl
@[simp] theorem Mach.posted_modChan (m : Mach) (i : Nat) (g : MemPage → MemPage) : (m.modChan i g).posted = m.posted := rfl
@[simp] theorem Mach.handles_modChan (m : Mach) (i : Nat) (g : MemPage → MemPage) : (m.modChan i g).handles = m.handles := rfl
@[simp] theorem Mach.regOut_modChan (m : Mach) (i : Nat) (g : MemPage → MemPage) : (m.modChan i g).regOut = m.regOut := rfl
@[simp] theorem Mach.regIn_modChan (m : Mach) (i : Nat) (g : MemPage → MemPage) : (m.modChan i g).regIn = m.regIn := rfl
@[simp] theorem Mach.lastRead_modChan (m : Mach) (i : Nat) (g : MemPage → MemPage) : (m.modChan i g).lastRead = m.lastRead := rfl
@[simp] theorem Mach.dom_modChan (m : Mach) (i : Nat) (g : MemPage → MemPage) : (m.modChan i g).dom = m.dom := rfl
@[simp] theorem Mach.ctx_modChan (m : Mach) (i : Nat) (g : MemPage → MemPage) : (m.modChan i g).ctx = m.ctx := rfl
@[simp] theorem Mach.svc_modChan (m : Mach) (i : Nat) (g : MemPage → MemPage) : (m.modChan i g).svc = m.svc := rfl
@[simp] theorem Mach.apc_modChan (m : Mach) (i : Nat) (g : MemPage → MemPage) : (m.modChan i g).apc = m.apc := rfl
@[simp] theorem Mach.rng_modChan (m : Mach) (i : Nat) (g : MemPage → MemPage) : (m.modChan i g).rng = m.rng := rfl
@[simp] theorem Mach.flt_modChan (m : Mach) (i : Nat) (g : MemPage → MemPage) : (m.modChan i g).flt = m.flt := rfl
@[simp] theorem Mach.mgt_modChan (m : Mach) (i : Nat) (g : MemPage → MemPage) : (m.modChan i g).mgt = m.mgt := rfl
@[simp] theorem Mach.pwr_modChan (m : Mach) (i : Nat) (g : MemPage → MemPage) : (m.modChan i g).pwr = m.pwr := rfl
@[simp] theorem Mach.rst_modChan (m : Mach) (i : Nat) (g : MemPage → MemPage) : (m.modChan i g).rst = m.rst := rfl
@[simp] theorem Mach.thdSel_modChan (m : Mach) (i : Nat) (g : MemPage → MemPage) : (m.modChan i g).thdSel = m.thdSel := rfl
@[simp] theorem Mach.thdDom_modChan (m : Mach) (i : Nat) (g : MemPage → MemPage) : (m.modChan i g).thdDom = m.thdDom := rfl
@[simp] theorem Mach.thdClu_modChan (m : Mach) (i : Nat) (g : MemPage → MemPage) : (m.modChan i g).thdClu = m.thdClu := rfl
@[simp] theorem Mach.pins_modChan (m : Mach) (i : Nat) (g : MemPage → MemPage) : (m.modChan i g).pins = m.pins := rfl

/-! ## modUpd -/

@[simp] theorem Mach.getUpd_modUpd (m : Mach) (i : Nat) (g : Upd → Upd) : (m.modUpd i g).getUpd i = g (m.getUpd i) := by
  simp [Mach.getUpd, Mach.modUpd]
theorem Mach.getUpd_modUpd_of_ne (m : Mach) {i j : Nat} (g : Upd → Upd) (h : i ≠ j) : (m.modUpd i g).getUpd j = m.getUpd j := by
  simp [Mach.getUpd, Mach.modUpd, Tab.get_upd_of_ne _ _ _ h]
@[simp] theorem Mach.getHdr_modUpd (m : Mach) (i j : Nat) (g : Upd → Upd) : (m.modUpd i g).getHdr j = m.getHdr j := rfl
@[simp] theorem Mach.getTrc_modUpd (m : Mach) (i j : Nat) (g : Upd → Upd) : (m.modUpd i g).getTrc j = m.getTrc j := rfl
@[simp] theorem Mach.getClu_modUpd (m : Mach) (i j : Nat) (g : Upd → Upd) : (m.modUpd i g).getClu j = m.getClu j := rfl
@[simp] theorem Mach.getCore_modUpd (m : Mach) (i j : Nat) (g : Upd → Upd) : (m.modUpd i g).getCore j = m.getCore j := rfl
@[simp] theorem Mach.getTrv_modUpd (m : Mach) (i j : Nat) (g : Upd → Upd) : (m.modUpd i g).getTrv j = m.getTrv j := rfl
@[simp] theorem Mach.getGth_modUpd (m : Mach) (i j : Nat) (g : Upd → Upd) : (m.modUpd i g).getGth j = m.getGth j := rfl
@[simp] theorem Mach.getSpr_modUpd (m : Mach) (i j : Nat) (g : Upd → Upd) : (m.modUpd i g).getSpr j = m.getSpr j := rfl
@[simp] theorem Mach.getNtm_modUpd (m : Mach) (i j : Nat) (g : Upd → Upd) : (m.modUpd i g).getNtm j = m.getNtm j := rfl
@[simp] theorem Mach.getChan_modUpd (m : Mach) (i j : Nat) (g : Upd → Upd) : (m.modUpd i g).getChan j = m.getChan j := rfl
@[simp] theorem Mach.getPlnDom_modUpd (m : Mach) (i j : Nat) (g : Upd → Upd) : (m.modUpd i g).getPlnDom j = m.getPlnDom j := rfl
@[simp] theorem Mach.getLnk_modUpd (m : Mach) (i j : Nat) (g : Upd → Upd) : (m.modUpd i g).getLnk j = m.getLnk j := rfl
@[simp] theorem Mach.getRte_modUpd (m : Mach) (i j : Nat) (g : Upd → Upd) : (m.modUpd i g).getRte j = m.getRte j := rfl
@[simp] theorem Mach.getDom_modUpd (m : Mach) (i j : Nat) (g : Upd → Upd) : (m.modUpd i g).getDom j = m.getDom j := rfl
@[simp] theorem Mach.getCtx_modUpd (m : Mach) (i j : Nat) (g : Upd → Upd) : (m.modUpd i g).getCtx j = m.getCtx j := rfl
@[simp] theorem Mach.getSvc_modUpd (m : Mach) (i j : Nat) (g : Upd → Upd) : (m.modUpd i g).getSvc j = m.getSvc j := rfl
@[simp] theorem Mach.getThdDom_modUpd (m : Mach) (i j : Nat) (g : Upd → Upd) : (m.modUpd i g).getThdDom j = m.getThdDom j := rfl
@[simp] theorem Mach.getThdClu_modUpd (m : Mach) (i j : Nat) (g : Upd → Upd) : (m.modUpd i g).getThdClu j = m.getThdClu j := rfl
@[simp] theorem Mach.job?_modUpd (m : Mach) (i j : Nat) (g : Upd → Upd) : (m.modUpd i g).job? j = m.job? j := rfl
@[simp] theorem Mach.self_modUpd (m : Mach) (i : Nat) (g : Upd → Upd) : (m.modUpd i g).self = m.self := rfl
@[simp] theorem Mach.serial_modUpd (m : Mach) (i : Nat) (g : Upd → Upd) : (m.modUpd i g).serial = m.serial := rfl
@[simp] theorem Mach.fence_modUpd (m : Mach) (i : Nat) (g : Upd → Upd) : (m.modUpd i g).fence = m.fence := rfl
@[simp] theorem Mach.hdrs_modUpd (m : Mach) (i : Nat) (g : Upd → Upd) : (m.modUpd i g).hdrs = m.hdrs := rfl
@[simp] theorem Mach.trc_modUpd (m : Mach) (i : Nat) (g : Upd → Upd) : (m.modUpd i g).trc = m.trc := rfl
@[simp] theorem Mach.clu_modUpd (m : Mach) (i : Nat) (g : Upd → Upd) : (m.modUpd i g).clu = m.clu := rfl
@[simp] theorem Mach.cores_modUpd (m : Mach) (i : Nat) (g : Upd → Upd) : (m.modUpd i g).cores = m.cores := rfl
@[simp] theorem Mach.trv_modUpd (m : Mach) (i : Nat) (g : Upd → Upd) : (m.modUpd i g).trv = m.trv := rfl
@[simp] theorem Mach.gth_modUpd (m : Mach) (i : Nat) (g : Upd → Upd) : (m.modUpd i g).gth = m.gth := rfl
@[simp] theorem Mach.spr_modUpd (m : Mach) (i : Nat) (g : Upd → Upd) : (m.modUpd i g).spr = m.spr := rfl
@[simp] theorem Mach.ntm_modUpd (m : Mach) (i : Nat) (g : Upd → Upd) : (m.modUpd i g).ntm = m.ntm := rfl
@[simp] theorem Mach.chan_modUpd (m : Mach) (i : Nat) (g : Upd → Upd) : (m.modUpd i g).chan = m.chan := rfl
@[simp] theorem Mach.mem_modUpd (m : Mach) (i : Nat) (g : Upd → Upd) : (m.modUpd i g).mem = m.mem := rfl
@[simp] theorem Mach.granErr_modUpd (m : Mach) (i : Nat) (g : Upd → Upd) : (m.modUpd i g).granErr = m.granErr := rfl
@[simp] theorem Mach.lastHeld_modUpd (m : Mach) (i : Nat) (g : Upd → Upd) : (m.modUpd i g).lastHeld = m.lastHeld := rfl
@[simp] theorem Mach.cmt_modUpd (m : Mach) (i : Nat) (g : Upd → Upd) : (m.modUpd i g).cmt = m.cmt := rfl
@[simp] theorem Mach.pln_modUpd (m : Mach) (i : Nat) (g : Upd → Upd) : (m.modUpd i g).pln = m.pln := rfl
@[simp] theorem Mach.plnDom_modUpd (m : Mach) (i : Nat) (g : Upd → Upd) : (m.modUpd i g).plnDom = m.plnDom := rfl
@[simp] theorem Mach.lnk_modUpd (m : Mach) (i : Nat) (g : Upd → Upd) : (m.modUpd i g).lnk = m.lnk := rfl
@[simp] theorem Mach.rte_modUpd (m : Mach) (i : Nat) (g : Upd → Upd) : (m.modUpd i g).rte = m.rte := rfl
@[simp] theorem Mach.time_modUpd (m : Mach) (i : Nat) (g : Upd → Upd) : (m.modUpd i g).time = m.time := rfl
@[simp] theorem Mach.arrived_modUpd (m : Mach) (i : Nat) (g : Upd → Upd) : (m.modUpd i g).arrived = m.arrived := rfl
@[simp] theorem Mach.inbox_modUpd (m : Mach) (i : Nat) (g : Upd → Upd) : (m.modUpd i g).inbox = m.inbox := rfl
@[simp] theorem Mach.flowSeq_modUpd (m : Mach) (i : Nat) (g : Upd → Upd) : (m.modUpd i g).flowSeq = m.flowSeq := rfl
@[simp] theorem Mach.filters_modUpd (m : Mach) (i : Nat) (g : Upd → Upd) : (m.modUpd i g).filters = m.filters := rfl
@[simp] theorem Mach.fetches_modUpd (m : Mach) (i : Nat) (g : Upd → Upd) : (m.modUpd i g).fetches = m.fetches := rfl
@[simp] theorem Mach.posted_modUpd (m : Mach) (i : Nat) (g : Upd → Upd) : (m.modUpd i g).posted = m.posted := rfl
@[simp] theorem Mach.handles_modUpd (m : Mach) (i : Nat) (g : Upd → Upd) : (m.modUpd i g).handles = m.handles := rfl
@[simp] theorem Mach.regOut_modUpd (m : Mach) (i : Nat) (g : Upd → Upd) : (m.modUpd i g).regOut = m.regOut := rfl
@[simp] theorem Mach.regIn_modUpd (m : Mach) (i : Nat) (g : Upd → Upd) : (m.modUpd i g).regIn = m.regIn := rfl
@[simp] theorem Mach.lastRead_modUpd (m : Mach) (i : Nat) (g : Upd → Upd) : (m.modUpd i g).lastRead = m.lastRead := rfl
@[simp] theorem Mach.dom_modUpd (m : Mach) (i : Nat) (g : Upd → Upd) : (m.modUpd i g).dom = m.dom := rfl
@[simp] theorem Mach.ctx_modUpd (m : Mach) (i : Nat) (g : Upd → Upd) : (m.modUpd i g).ctx = m.ctx := rfl
@[simp] theorem Mach.svc_modUpd (m : Mach) (i : Nat) (g : Upd → Upd) : (m.modUpd i g).svc = m.svc := rfl
@[simp] theorem Mach.apc_modUpd (m : Mach) (i : Nat) (g : Upd → Upd) : (m.modUpd i g).apc = m.apc := rfl
@[simp] theorem Mach.rng_modUpd (m : Mach) (i : Nat) (g : Upd → Upd) : (m.modUpd i g).rng = m.rng := rfl
@[simp] theorem Mach.flt_modUpd (m : Mach) (i : Nat) (g : Upd → Upd) : (m.modUpd i g).flt = m.flt := rfl
@[simp] theorem Mach.mgt_modUpd (m : Mach) (i : Nat) (g : Upd → Upd) : (m.modUpd i g).mgt = m.mgt := rfl
@[simp] theorem Mach.pwr_modUpd (m : Mach) (i : Nat) (g : Upd → Upd) : (m.modUpd i g).pwr = m.pwr := rfl
@[simp] theorem Mach.rst_modUpd (m : Mach) (i : Nat) (g : Upd → Upd) : (m.modUpd i g).rst = m.rst := rfl
@[simp] theorem Mach.thdSel_modUpd (m : Mach) (i : Nat) (g : Upd → Upd) : (m.modUpd i g).thdSel = m.thdSel := rfl
@[simp] theorem Mach.thdDom_modUpd (m : Mach) (i : Nat) (g : Upd → Upd) : (m.modUpd i g).thdDom = m.thdDom := rfl
@[simp] theorem Mach.thdClu_modUpd (m : Mach) (i : Nat) (g : Upd → Upd) : (m.modUpd i g).thdClu = m.thdClu := rfl
@[simp] theorem Mach.pins_modUpd (m : Mach) (i : Nat) (g : Upd → Upd) : (m.modUpd i g).pins = m.pins := rfl

/-! ## modPlnDom -/

@[simp] theorem Mach.getPlnDom_modPlnDom (m : Mach) (i : Nat) (g : PlnDom → PlnDom) : (m.modPlnDom i g).getPlnDom i = g (m.getPlnDom i) := by
  simp [Mach.getPlnDom, Mach.modPlnDom]
theorem Mach.getPlnDom_modPlnDom_of_ne (m : Mach) {i j : Nat} (g : PlnDom → PlnDom) (h : i ≠ j) : (m.modPlnDom i g).getPlnDom j = m.getPlnDom j := by
  simp [Mach.getPlnDom, Mach.modPlnDom, Tab.get_upd_of_ne _ _ _ h]
@[simp] theorem Mach.getHdr_modPlnDom (m : Mach) (i j : Nat) (g : PlnDom → PlnDom) : (m.modPlnDom i g).getHdr j = m.getHdr j := rfl
@[simp] theorem Mach.getTrc_modPlnDom (m : Mach) (i j : Nat) (g : PlnDom → PlnDom) : (m.modPlnDom i g).getTrc j = m.getTrc j := rfl
@[simp] theorem Mach.getClu_modPlnDom (m : Mach) (i j : Nat) (g : PlnDom → PlnDom) : (m.modPlnDom i g).getClu j = m.getClu j := rfl
@[simp] theorem Mach.getCore_modPlnDom (m : Mach) (i j : Nat) (g : PlnDom → PlnDom) : (m.modPlnDom i g).getCore j = m.getCore j := rfl
@[simp] theorem Mach.getTrv_modPlnDom (m : Mach) (i j : Nat) (g : PlnDom → PlnDom) : (m.modPlnDom i g).getTrv j = m.getTrv j := rfl
@[simp] theorem Mach.getGth_modPlnDom (m : Mach) (i j : Nat) (g : PlnDom → PlnDom) : (m.modPlnDom i g).getGth j = m.getGth j := rfl
@[simp] theorem Mach.getSpr_modPlnDom (m : Mach) (i j : Nat) (g : PlnDom → PlnDom) : (m.modPlnDom i g).getSpr j = m.getSpr j := rfl
@[simp] theorem Mach.getNtm_modPlnDom (m : Mach) (i j : Nat) (g : PlnDom → PlnDom) : (m.modPlnDom i g).getNtm j = m.getNtm j := rfl
@[simp] theorem Mach.getChan_modPlnDom (m : Mach) (i j : Nat) (g : PlnDom → PlnDom) : (m.modPlnDom i g).getChan j = m.getChan j := rfl
@[simp] theorem Mach.getUpd_modPlnDom (m : Mach) (i j : Nat) (g : PlnDom → PlnDom) : (m.modPlnDom i g).getUpd j = m.getUpd j := rfl
@[simp] theorem Mach.getLnk_modPlnDom (m : Mach) (i j : Nat) (g : PlnDom → PlnDom) : (m.modPlnDom i g).getLnk j = m.getLnk j := rfl
@[simp] theorem Mach.getRte_modPlnDom (m : Mach) (i j : Nat) (g : PlnDom → PlnDom) : (m.modPlnDom i g).getRte j = m.getRte j := rfl
@[simp] theorem Mach.getDom_modPlnDom (m : Mach) (i j : Nat) (g : PlnDom → PlnDom) : (m.modPlnDom i g).getDom j = m.getDom j := rfl
@[simp] theorem Mach.getCtx_modPlnDom (m : Mach) (i j : Nat) (g : PlnDom → PlnDom) : (m.modPlnDom i g).getCtx j = m.getCtx j := rfl
@[simp] theorem Mach.getSvc_modPlnDom (m : Mach) (i j : Nat) (g : PlnDom → PlnDom) : (m.modPlnDom i g).getSvc j = m.getSvc j := rfl
@[simp] theorem Mach.getThdDom_modPlnDom (m : Mach) (i j : Nat) (g : PlnDom → PlnDom) : (m.modPlnDom i g).getThdDom j = m.getThdDom j := rfl
@[simp] theorem Mach.getThdClu_modPlnDom (m : Mach) (i j : Nat) (g : PlnDom → PlnDom) : (m.modPlnDom i g).getThdClu j = m.getThdClu j := rfl
@[simp] theorem Mach.job?_modPlnDom (m : Mach) (i j : Nat) (g : PlnDom → PlnDom) : (m.modPlnDom i g).job? j = m.job? j := rfl
@[simp] theorem Mach.self_modPlnDom (m : Mach) (i : Nat) (g : PlnDom → PlnDom) : (m.modPlnDom i g).self = m.self := rfl
@[simp] theorem Mach.serial_modPlnDom (m : Mach) (i : Nat) (g : PlnDom → PlnDom) : (m.modPlnDom i g).serial = m.serial := rfl
@[simp] theorem Mach.fence_modPlnDom (m : Mach) (i : Nat) (g : PlnDom → PlnDom) : (m.modPlnDom i g).fence = m.fence := rfl
@[simp] theorem Mach.hdrs_modPlnDom (m : Mach) (i : Nat) (g : PlnDom → PlnDom) : (m.modPlnDom i g).hdrs = m.hdrs := rfl
@[simp] theorem Mach.trc_modPlnDom (m : Mach) (i : Nat) (g : PlnDom → PlnDom) : (m.modPlnDom i g).trc = m.trc := rfl
@[simp] theorem Mach.clu_modPlnDom (m : Mach) (i : Nat) (g : PlnDom → PlnDom) : (m.modPlnDom i g).clu = m.clu := rfl
@[simp] theorem Mach.cores_modPlnDom (m : Mach) (i : Nat) (g : PlnDom → PlnDom) : (m.modPlnDom i g).cores = m.cores := rfl
@[simp] theorem Mach.trv_modPlnDom (m : Mach) (i : Nat) (g : PlnDom → PlnDom) : (m.modPlnDom i g).trv = m.trv := rfl
@[simp] theorem Mach.gth_modPlnDom (m : Mach) (i : Nat) (g : PlnDom → PlnDom) : (m.modPlnDom i g).gth = m.gth := rfl
@[simp] theorem Mach.spr_modPlnDom (m : Mach) (i : Nat) (g : PlnDom → PlnDom) : (m.modPlnDom i g).spr = m.spr := rfl
@[simp] theorem Mach.ntm_modPlnDom (m : Mach) (i : Nat) (g : PlnDom → PlnDom) : (m.modPlnDom i g).ntm = m.ntm := rfl
@[simp] theorem Mach.chan_modPlnDom (m : Mach) (i : Nat) (g : PlnDom → PlnDom) : (m.modPlnDom i g).chan = m.chan := rfl
@[simp] theorem Mach.mem_modPlnDom (m : Mach) (i : Nat) (g : PlnDom → PlnDom) : (m.modPlnDom i g).mem = m.mem := rfl
@[simp] theorem Mach.granErr_modPlnDom (m : Mach) (i : Nat) (g : PlnDom → PlnDom) : (m.modPlnDom i g).granErr = m.granErr := rfl
@[simp] theorem Mach.lastHeld_modPlnDom (m : Mach) (i : Nat) (g : PlnDom → PlnDom) : (m.modPlnDom i g).lastHeld = m.lastHeld := rfl
@[simp] theorem Mach.upd_modPlnDom (m : Mach) (i : Nat) (g : PlnDom → PlnDom) : (m.modPlnDom i g).upd = m.upd := rfl
@[simp] theorem Mach.cmt_modPlnDom (m : Mach) (i : Nat) (g : PlnDom → PlnDom) : (m.modPlnDom i g).cmt = m.cmt := rfl
@[simp] theorem Mach.pln_modPlnDom (m : Mach) (i : Nat) (g : PlnDom → PlnDom) : (m.modPlnDom i g).pln = m.pln := rfl
@[simp] theorem Mach.lnk_modPlnDom (m : Mach) (i : Nat) (g : PlnDom → PlnDom) : (m.modPlnDom i g).lnk = m.lnk := rfl
@[simp] theorem Mach.rte_modPlnDom (m : Mach) (i : Nat) (g : PlnDom → PlnDom) : (m.modPlnDom i g).rte = m.rte := rfl
@[simp] theorem Mach.time_modPlnDom (m : Mach) (i : Nat) (g : PlnDom → PlnDom) : (m.modPlnDom i g).time = m.time := rfl
@[simp] theorem Mach.arrived_modPlnDom (m : Mach) (i : Nat) (g : PlnDom → PlnDom) : (m.modPlnDom i g).arrived = m.arrived := rfl
@[simp] theorem Mach.inbox_modPlnDom (m : Mach) (i : Nat) (g : PlnDom → PlnDom) : (m.modPlnDom i g).inbox = m.inbox := rfl
@[simp] theorem Mach.flowSeq_modPlnDom (m : Mach) (i : Nat) (g : PlnDom → PlnDom) : (m.modPlnDom i g).flowSeq = m.flowSeq := rfl
@[simp] theorem Mach.filters_modPlnDom (m : Mach) (i : Nat) (g : PlnDom → PlnDom) : (m.modPlnDom i g).filters = m.filters := rfl
@[simp] theorem Mach.fetches_modPlnDom (m : Mach) (i : Nat) (g : PlnDom → PlnDom) : (m.modPlnDom i g).fetches = m.fetches := rfl
@[simp] theorem Mach.posted_modPlnDom (m : Mach) (i : Nat) (g : PlnDom → PlnDom) : (m.modPlnDom i g).posted = m.posted := rfl
@[simp] theorem Mach.handles_modPlnDom (m : Mach) (i : Nat) (g : PlnDom → PlnDom) : (m.modPlnDom i g).handles = m.handles := rfl
@[simp] theorem Mach.regOut_modPlnDom (m : Mach) (i : Nat) (g : PlnDom → PlnDom) : (m.modPlnDom i g).regOut = m.regOut := rfl
@[simp] theorem Mach.regIn_modPlnDom (m : Mach) (i : Nat) (g : PlnDom → PlnDom) : (m.modPlnDom i g).regIn = m.regIn := rfl
@[simp] theorem Mach.lastRead_modPlnDom (m : Mach) (i : Nat) (g : PlnDom → PlnDom) : (m.modPlnDom i g).lastRead = m.lastRead := rfl
@[simp] theorem Mach.dom_modPlnDom (m : Mach) (i : Nat) (g : PlnDom → PlnDom) : (m.modPlnDom i g).dom = m.dom := rfl
@[simp] theorem Mach.ctx_modPlnDom (m : Mach) (i : Nat) (g : PlnDom → PlnDom) : (m.modPlnDom i g).ctx = m.ctx := rfl
@[simp] theorem Mach.svc_modPlnDom (m : Mach) (i : Nat) (g : PlnDom → PlnDom) : (m.modPlnDom i g).svc = m.svc := rfl
@[simp] theorem Mach.apc_modPlnDom (m : Mach) (i : Nat) (g : PlnDom → PlnDom) : (m.modPlnDom i g).apc = m.apc := rfl
@[simp] theorem Mach.rng_modPlnDom (m : Mach) (i : Nat) (g : PlnDom → PlnDom) : (m.modPlnDom i g).rng = m.rng := rfl
@[simp] theorem Mach.flt_modPlnDom (m : Mach) (i : Nat) (g : PlnDom → PlnDom) : (m.modPlnDom i g).flt = m.flt := rfl
@[simp] theorem Mach.mgt_modPlnDom (m : Mach) (i : Nat) (g : PlnDom → PlnDom) : (m.modPlnDom i g).mgt = m.mgt := rfl
@[simp] theorem Mach.pwr_modPlnDom (m : Mach) (i : Nat) (g : PlnDom → PlnDom) : (m.modPlnDom i g).pwr = m.pwr := rfl
@[simp] theorem Mach.rst_modPlnDom (m : Mach) (i : Nat) (g : PlnDom → PlnDom) : (m.modPlnDom i g).rst = m.rst := rfl
@[simp] theorem Mach.thdSel_modPlnDom (m : Mach) (i : Nat) (g : PlnDom → PlnDom) : (m.modPlnDom i g).thdSel = m.thdSel := rfl
@[simp] theorem Mach.thdDom_modPlnDom (m : Mach) (i : Nat) (g : PlnDom → PlnDom) : (m.modPlnDom i g).thdDom = m.thdDom := rfl
@[simp] theorem Mach.thdClu_modPlnDom (m : Mach) (i : Nat) (g : PlnDom → PlnDom) : (m.modPlnDom i g).thdClu = m.thdClu := rfl
@[simp] theorem Mach.pins_modPlnDom (m : Mach) (i : Nat) (g : PlnDom → PlnDom) : (m.modPlnDom i g).pins = m.pins := rfl

/-! ## modLnk -/

@[simp] theorem Mach.getLnk_modLnk (m : Mach) (i : Nat) (g : Lnk → Lnk) : (m.modLnk i g).getLnk i = g (m.getLnk i) := by
  simp [Mach.getLnk, Mach.modLnk]
theorem Mach.getLnk_modLnk_of_ne (m : Mach) {i j : Nat} (g : Lnk → Lnk) (h : i ≠ j) : (m.modLnk i g).getLnk j = m.getLnk j := by
  simp [Mach.getLnk, Mach.modLnk, Tab.get_upd_of_ne _ _ _ h]
@[simp] theorem Mach.getHdr_modLnk (m : Mach) (i j : Nat) (g : Lnk → Lnk) : (m.modLnk i g).getHdr j = m.getHdr j := rfl
@[simp] theorem Mach.getTrc_modLnk (m : Mach) (i j : Nat) (g : Lnk → Lnk) : (m.modLnk i g).getTrc j = m.getTrc j := rfl
@[simp] theorem Mach.getClu_modLnk (m : Mach) (i j : Nat) (g : Lnk → Lnk) : (m.modLnk i g).getClu j = m.getClu j := rfl
@[simp] theorem Mach.getCore_modLnk (m : Mach) (i j : Nat) (g : Lnk → Lnk) : (m.modLnk i g).getCore j = m.getCore j := rfl
@[simp] theorem Mach.getTrv_modLnk (m : Mach) (i j : Nat) (g : Lnk → Lnk) : (m.modLnk i g).getTrv j = m.getTrv j := rfl
@[simp] theorem Mach.getGth_modLnk (m : Mach) (i j : Nat) (g : Lnk → Lnk) : (m.modLnk i g).getGth j = m.getGth j := rfl
@[simp] theorem Mach.getSpr_modLnk (m : Mach) (i j : Nat) (g : Lnk → Lnk) : (m.modLnk i g).getSpr j = m.getSpr j := rfl
@[simp] theorem Mach.getNtm_modLnk (m : Mach) (i j : Nat) (g : Lnk → Lnk) : (m.modLnk i g).getNtm j = m.getNtm j := rfl
@[simp] theorem Mach.getChan_modLnk (m : Mach) (i j : Nat) (g : Lnk → Lnk) : (m.modLnk i g).getChan j = m.getChan j := rfl
@[simp] theorem Mach.getUpd_modLnk (m : Mach) (i j : Nat) (g : Lnk → Lnk) : (m.modLnk i g).getUpd j = m.getUpd j := rfl
@[simp] theorem Mach.getPlnDom_modLnk (m : Mach) (i j : Nat) (g : Lnk → Lnk) : (m.modLnk i g).getPlnDom j = m.getPlnDom j := rfl
@[simp] theorem Mach.getRte_modLnk (m : Mach) (i j : Nat) (g : Lnk → Lnk) : (m.modLnk i g).getRte j = m.getRte j := rfl
@[simp] theorem Mach.getDom_modLnk (m : Mach) (i j : Nat) (g : Lnk → Lnk) : (m.modLnk i g).getDom j = m.getDom j := rfl
@[simp] theorem Mach.getCtx_modLnk (m : Mach) (i j : Nat) (g : Lnk → Lnk) : (m.modLnk i g).getCtx j = m.getCtx j := rfl
@[simp] theorem Mach.getSvc_modLnk (m : Mach) (i j : Nat) (g : Lnk → Lnk) : (m.modLnk i g).getSvc j = m.getSvc j := rfl
@[simp] theorem Mach.getThdDom_modLnk (m : Mach) (i j : Nat) (g : Lnk → Lnk) : (m.modLnk i g).getThdDom j = m.getThdDom j := rfl
@[simp] theorem Mach.getThdClu_modLnk (m : Mach) (i j : Nat) (g : Lnk → Lnk) : (m.modLnk i g).getThdClu j = m.getThdClu j := rfl
@[simp] theorem Mach.job?_modLnk (m : Mach) (i j : Nat) (g : Lnk → Lnk) : (m.modLnk i g).job? j = m.job? j := rfl
@[simp] theorem Mach.self_modLnk (m : Mach) (i : Nat) (g : Lnk → Lnk) : (m.modLnk i g).self = m.self := rfl
@[simp] theorem Mach.serial_modLnk (m : Mach) (i : Nat) (g : Lnk → Lnk) : (m.modLnk i g).serial = m.serial := rfl
@[simp] theorem Mach.fence_modLnk (m : Mach) (i : Nat) (g : Lnk → Lnk) : (m.modLnk i g).fence = m.fence := rfl
@[simp] theorem Mach.hdrs_modLnk (m : Mach) (i : Nat) (g : Lnk → Lnk) : (m.modLnk i g).hdrs = m.hdrs := rfl
@[simp] theorem Mach.trc_modLnk (m : Mach) (i : Nat) (g : Lnk → Lnk) : (m.modLnk i g).trc = m.trc := rfl
@[simp] theorem Mach.clu_modLnk (m : Mach) (i : Nat) (g : Lnk → Lnk) : (m.modLnk i g).clu = m.clu := rfl
@[simp] theorem Mach.cores_modLnk (m : Mach) (i : Nat) (g : Lnk → Lnk) : (m.modLnk i g).cores = m.cores := rfl
@[simp] theorem Mach.trv_modLnk (m : Mach) (i : Nat) (g : Lnk → Lnk) : (m.modLnk i g).trv = m.trv := rfl
@[simp] theorem Mach.gth_modLnk (m : Mach) (i : Nat) (g : Lnk → Lnk) : (m.modLnk i g).gth = m.gth := rfl
@[simp] theorem Mach.spr_modLnk (m : Mach) (i : Nat) (g : Lnk → Lnk) : (m.modLnk i g).spr = m.spr := rfl
@[simp] theorem Mach.ntm_modLnk (m : Mach) (i : Nat) (g : Lnk → Lnk) : (m.modLnk i g).ntm = m.ntm := rfl
@[simp] theorem Mach.chan_modLnk (m : Mach) (i : Nat) (g : Lnk → Lnk) : (m.modLnk i g).chan = m.chan := rfl
@[simp] theorem Mach.mem_modLnk (m : Mach) (i : Nat) (g : Lnk → Lnk) : (m.modLnk i g).mem = m.mem := rfl
@[simp] theorem Mach.granErr_modLnk (m : Mach) (i : Nat) (g : Lnk → Lnk) : (m.modLnk i g).granErr = m.granErr := rfl
@[simp] theorem Mach.lastHeld_modLnk (m : Mach) (i : Nat) (g : Lnk → Lnk) : (m.modLnk i g).lastHeld = m.lastHeld := rfl
@[simp] theorem Mach.upd_modLnk (m : Mach) (i : Nat) (g : Lnk → Lnk) : (m.modLnk i g).upd = m.upd := rfl
@[simp] theorem Mach.cmt_modLnk (m : Mach) (i : Nat) (g : Lnk → Lnk) : (m.modLnk i g).cmt = m.cmt := rfl
@[simp] theorem Mach.pln_modLnk (m : Mach) (i : Nat) (g : Lnk → Lnk) : (m.modLnk i g).pln = m.pln := rfl
@[simp] theorem Mach.plnDom_modLnk (m : Mach) (i : Nat) (g : Lnk → Lnk) : (m.modLnk i g).plnDom = m.plnDom := rfl
@[simp] theorem Mach.rte_modLnk (m : Mach) (i : Nat) (g : Lnk → Lnk) : (m.modLnk i g).rte = m.rte := rfl
@[simp] theorem Mach.time_modLnk (m : Mach) (i : Nat) (g : Lnk → Lnk) : (m.modLnk i g).time = m.time := rfl
@[simp] theorem Mach.arrived_modLnk (m : Mach) (i : Nat) (g : Lnk → Lnk) : (m.modLnk i g).arrived = m.arrived := rfl
@[simp] theorem Mach.inbox_modLnk (m : Mach) (i : Nat) (g : Lnk → Lnk) : (m.modLnk i g).inbox = m.inbox := rfl
@[simp] theorem Mach.flowSeq_modLnk (m : Mach) (i : Nat) (g : Lnk → Lnk) : (m.modLnk i g).flowSeq = m.flowSeq := rfl
@[simp] theorem Mach.filters_modLnk (m : Mach) (i : Nat) (g : Lnk → Lnk) : (m.modLnk i g).filters = m.filters := rfl
@[simp] theorem Mach.fetches_modLnk (m : Mach) (i : Nat) (g : Lnk → Lnk) : (m.modLnk i g).fetches = m.fetches := rfl
@[simp] theorem Mach.posted_modLnk (m : Mach) (i : Nat) (g : Lnk → Lnk) : (m.modLnk i g).posted = m.posted := rfl
@[simp] theorem Mach.handles_modLnk (m : Mach) (i : Nat) (g : Lnk → Lnk) : (m.modLnk i g).handles = m.handles := rfl
@[simp] theorem Mach.regOut_modLnk (m : Mach) (i : Nat) (g : Lnk → Lnk) : (m.modLnk i g).regOut = m.regOut := rfl
@[simp] theorem Mach.regIn_modLnk (m : Mach) (i : Nat) (g : Lnk → Lnk) : (m.modLnk i g).regIn = m.regIn := rfl
@[simp] theorem Mach.lastRead_modLnk (m : Mach) (i : Nat) (g : Lnk → Lnk) : (m.modLnk i g).lastRead = m.lastRead := rfl
@[simp] theorem Mach.dom_modLnk (m : Mach) (i : Nat) (g : Lnk → Lnk) : (m.modLnk i g).dom = m.dom := rfl
@[simp] theorem Mach.ctx_modLnk (m : Mach) (i : Nat) (g : Lnk → Lnk) : (m.modLnk i g).ctx = m.ctx := rfl
@[simp] theorem Mach.svc_modLnk (m : Mach) (i : Nat) (g : Lnk → Lnk) : (m.modLnk i g).svc = m.svc := rfl
@[simp] theorem Mach.apc_modLnk (m : Mach) (i : Nat) (g : Lnk → Lnk) : (m.modLnk i g).apc = m.apc := rfl
@[simp] theorem Mach.rng_modLnk (m : Mach) (i : Nat) (g : Lnk → Lnk) : (m.modLnk i g).rng = m.rng := rfl
@[simp] theorem Mach.flt_modLnk (m : Mach) (i : Nat) (g : Lnk → Lnk) : (m.modLnk i g).flt = m.flt := rfl
@[simp] theorem Mach.mgt_modLnk (m : Mach) (i : Nat) (g : Lnk → Lnk) : (m.modLnk i g).mgt = m.mgt := rfl
@[simp] theorem Mach.pwr_modLnk (m : Mach) (i : Nat) (g : Lnk → Lnk) : (m.modLnk i g).pwr = m.pwr := rfl
@[simp] theorem Mach.rst_modLnk (m : Mach) (i : Nat) (g : Lnk → Lnk) : (m.modLnk i g).rst = m.rst := rfl
@[simp] theorem Mach.thdSel_modLnk (m : Mach) (i : Nat) (g : Lnk → Lnk) : (m.modLnk i g).thdSel = m.thdSel := rfl
@[simp] theorem Mach.thdDom_modLnk (m : Mach) (i : Nat) (g : Lnk → Lnk) : (m.modLnk i g).thdDom = m.thdDom := rfl
@[simp] theorem Mach.thdClu_modLnk (m : Mach) (i : Nat) (g : Lnk → Lnk) : (m.modLnk i g).thdClu = m.thdClu := rfl
@[simp] theorem Mach.pins_modLnk (m : Mach) (i : Nat) (g : Lnk → Lnk) : (m.modLnk i g).pins = m.pins := rfl

/-! ## modRte -/

@[simp] theorem Mach.getRte_modRte (m : Mach) (i : Nat) (g : Rte → Rte) : (m.modRte i g).getRte i = g (m.getRte i) := by
  simp [Mach.getRte, Mach.modRte]
theorem Mach.getRte_modRte_of_ne (m : Mach) {i j : Nat} (g : Rte → Rte) (h : i ≠ j) : (m.modRte i g).getRte j = m.getRte j := by
  simp [Mach.getRte, Mach.modRte, Tab.get_upd_of_ne _ _ _ h]
@[simp] theorem Mach.getHdr_modRte (m : Mach) (i j : Nat) (g : Rte → Rte) : (m.modRte i g).getHdr j = m.getHdr j := rfl
@[simp] theorem Mach.getTrc_modRte (m : Mach) (i j : Nat) (g : Rte → Rte) : (m.modRte i g).getTrc j = m.getTrc j := rfl
@[simp] theorem Mach.getClu_modRte (m : Mach) (i j : Nat) (g : Rte → Rte) : (m.modRte i g).getClu j = m.getClu j := rfl
@[simp] theorem Mach.getCore_modRte (m : Mach) (i j : Nat) (g : Rte → Rte) : (m.modRte i g).getCore j = m.getCore j := rfl
@[simp] theorem Mach.getTrv_modRte (m : Mach) (i j : Nat) (g : Rte → Rte) : (m.modRte i g).getTrv j = m.getTrv j := rfl
@[simp] theorem Mach.getGth_modRte (m : Mach) (i j : Nat) (g : Rte → Rte) : (m.modRte i g).getGth j = m.getGth j := rfl
@[simp] theorem Mach.getSpr_modRte (m : Mach) (i j : Nat) (g : Rte → Rte) : (m.modRte i g).getSpr j = m.getSpr j := rfl
@[simp] theorem Mach.getNtm_modRte (m : Mach) (i j : Nat) (g : Rte → Rte) : (m.modRte i g).getNtm j = m.getNtm j := rfl
@[simp] theorem Mach.getChan_modRte (m : Mach) (i j : Nat) (g : Rte → Rte) : (m.modRte i g).getChan j = m.getChan j := rfl
@[simp] theorem Mach.getUpd_modRte (m : Mach) (i j : Nat) (g : Rte → Rte) : (m.modRte i g).getUpd j = m.getUpd j := rfl
@[simp] theorem Mach.getPlnDom_modRte (m : Mach) (i j : Nat) (g : Rte → Rte) : (m.modRte i g).getPlnDom j = m.getPlnDom j := rfl
@[simp] theorem Mach.getLnk_modRte (m : Mach) (i j : Nat) (g : Rte → Rte) : (m.modRte i g).getLnk j = m.getLnk j := rfl
@[simp] theorem Mach.getDom_modRte (m : Mach) (i j : Nat) (g : Rte → Rte) : (m.modRte i g).getDom j = m.getDom j := rfl
@[simp] theorem Mach.getCtx_modRte (m : Mach) (i j : Nat) (g : Rte → Rte) : (m.modRte i g).getCtx j = m.getCtx j := rfl
@[simp] theorem Mach.getSvc_modRte (m : Mach) (i j : Nat) (g : Rte → Rte) : (m.modRte i g).getSvc j = m.getSvc j := rfl
@[simp] theorem Mach.getThdDom_modRte (m : Mach) (i j : Nat) (g : Rte → Rte) : (m.modRte i g).getThdDom j = m.getThdDom j := rfl
@[simp] theorem Mach.getThdClu_modRte (m : Mach) (i j : Nat) (g : Rte → Rte) : (m.modRte i g).getThdClu j = m.getThdClu j := rfl
@[simp] theorem Mach.job?_modRte (m : Mach) (i j : Nat) (g : Rte → Rte) : (m.modRte i g).job? j = m.job? j := rfl
@[simp] theorem Mach.self_modRte (m : Mach) (i : Nat) (g : Rte → Rte) : (m.modRte i g).self = m.self := rfl
@[simp] theorem Mach.serial_modRte (m : Mach) (i : Nat) (g : Rte → Rte) : (m.modRte i g).serial = m.serial := rfl
@[simp] theorem Mach.fence_modRte (m : Mach) (i : Nat) (g : Rte → Rte) : (m.modRte i g).fence = m.fence := rfl
@[simp] theorem Mach.hdrs_modRte (m : Mach) (i : Nat) (g : Rte → Rte) : (m.modRte i g).hdrs = m.hdrs := rfl
@[simp] theorem Mach.trc_modRte (m : Mach) (i : Nat) (g : Rte → Rte) : (m.modRte i g).trc = m.trc := rfl
@[simp] theorem Mach.clu_modRte (m : Mach) (i : Nat) (g : Rte → Rte) : (m.modRte i g).clu = m.clu := rfl
@[simp] theorem Mach.cores_modRte (m : Mach) (i : Nat) (g : Rte → Rte) : (m.modRte i g).cores = m.cores := rfl
@[simp] theorem Mach.trv_modRte (m : Mach) (i : Nat) (g : Rte → Rte) : (m.modRte i g).trv = m.trv := rfl
@[simp] theorem Mach.gth_modRte (m : Mach) (i : Nat) (g : Rte → Rte) : (m.modRte i g).gth = m.gth := rfl
@[simp] theorem Mach.spr_modRte (m : Mach) (i : Nat) (g : Rte → Rte) : (m.modRte i g).spr = m.spr := rfl
@[simp] theorem Mach.ntm_modRte (m : Mach) (i : Nat) (g : Rte → Rte) : (m.modRte i g).ntm = m.ntm := rfl
@[simp] theorem Mach.chan_modRte (m : Mach) (i : Nat) (g : Rte → Rte) : (m.modRte i g).chan = m.chan := rfl
@[simp] theorem Mach.mem_modRte (m : Mach) (i : Nat) (g : Rte → Rte) : (m.modRte i g).mem = m.mem := rfl
@[simp] theorem Mach.granErr_modRte (m : Mach) (i : Nat) (g : Rte → Rte) : (m.modRte i g).granErr = m.granErr := rfl
@[simp] theorem Mach.lastHeld_modRte (m : Mach) (i : Nat) (g : Rte → Rte) : (m.modRte i g).lastHeld = m.lastHeld := rfl
@[simp] theorem Mach.upd_modRte (m : Mach) (i : Nat) (g : Rte → Rte) : (m.modRte i g).upd = m.upd := rfl
@[simp] theorem Mach.cmt_modRte (m : Mach) (i : Nat) (g : Rte → Rte) : (m.modRte i g).cmt = m.cmt := rfl
@[simp] theorem Mach.pln_modRte (m : Mach) (i : Nat) (g : Rte → Rte) : (m.modRte i g).pln = m.pln := rfl
@[simp] theorem Mach.plnDom_modRte (m : Mach) (i : Nat) (g : Rte → Rte) : (m.modRte i g).plnDom = m.plnDom := rfl
@[simp] theorem Mach.lnk_modRte (m : Mach) (i : Nat) (g : Rte → Rte) : (m.modRte i g).lnk = m.lnk := rfl
@[simp] theorem Mach.time_modRte (m : Mach) (i : Nat) (g : Rte → Rte) : (m.modRte i g).time = m.time := rfl
@[simp] theorem Mach.arrived_modRte (m : Mach) (i : Nat) (g : Rte → Rte) : (m.modRte i g).arrived = m.arrived := rfl
@[simp] theorem Mach.inbox_modRte (m : Mach) (i : Nat) (g : Rte → Rte) : (m.modRte i g).inbox = m.inbox := rfl
@[simp] theorem Mach.flowSeq_modRte (m : Mach) (i : Nat) (g : Rte → Rte) : (m.modRte i g).flowSeq = m.flowSeq := rfl
@[simp] theorem Mach.filters_modRte (m : Mach) (i : Nat) (g : Rte → Rte) : (m.modRte i g).filters = m.filters := rfl
@[simp] theorem Mach.fetches_modRte (m : Mach) (i : Nat) (g : Rte → Rte) : (m.modRte i g).fetches = m.fetches := rfl
@[simp] theorem Mach.posted_modRte (m : Mach) (i : Nat) (g : Rte → Rte) : (m.modRte i g).posted = m.posted := rfl
@[simp] theorem Mach.handles_modRte (m : Mach) (i : Nat) (g : Rte → Rte) : (m.modRte i g).handles = m.handles := rfl
@[simp] theorem Mach.regOut_modRte (m : Mach) (i : Nat) (g : Rte → Rte) : (m.modRte i g).regOut = m.regOut := rfl
@[simp] theorem Mach.regIn_modRte (m : Mach) (i : Nat) (g : Rte → Rte) : (m.modRte i g).regIn = m.regIn := rfl
@[simp] theorem Mach.lastRead_modRte (m : Mach) (i : Nat) (g : Rte → Rte) : (m.modRte i g).lastRead = m.lastRead := rfl
@[simp] theorem Mach.dom_modRte (m : Mach) (i : Nat) (g : Rte → Rte) : (m.modRte i g).dom = m.dom := rfl
@[simp] theorem Mach.ctx_modRte (m : Mach) (i : Nat) (g : Rte → Rte) : (m.modRte i g).ctx = m.ctx := rfl
@[simp] theorem Mach.svc_modRte (m : Mach) (i : Nat) (g : Rte → Rte) : (m.modRte i g).svc = m.svc := rfl
@[simp] theorem Mach.apc_modRte (m : Mach) (i : Nat) (g : Rte → Rte) : (m.modRte i g).apc = m.apc := rfl
@[simp] theorem Mach.rng_modRte (m : Mach) (i : Nat) (g : Rte → Rte) : (m.modRte i g).rng = m.rng := rfl
@[simp] theorem Mach.flt_modRte (m : Mach) (i : Nat) (g : Rte → Rte) : (m.modRte i g).flt = m.flt := rfl
@[simp] theorem Mach.mgt_modRte (m : Mach) (i : Nat) (g : Rte → Rte) : (m.modRte i g).mgt = m.mgt := rfl
@[simp] theorem Mach.pwr_modRte (m : Mach) (i : Nat) (g : Rte → Rte) : (m.modRte i g).pwr = m.pwr := rfl
@[simp] theorem Mach.rst_modRte (m : Mach) (i : Nat) (g : Rte → Rte) : (m.modRte i g).rst = m.rst := rfl
@[simp] theorem Mach.thdSel_modRte (m : Mach) (i : Nat) (g : Rte → Rte) : (m.modRte i g).thdSel = m.thdSel := rfl
@[simp] theorem Mach.thdDom_modRte (m : Mach) (i : Nat) (g : Rte → Rte) : (m.modRte i g).thdDom = m.thdDom := rfl
@[simp] theorem Mach.thdClu_modRte (m : Mach) (i : Nat) (g : Rte → Rte) : (m.modRte i g).thdClu = m.thdClu := rfl
@[simp] theorem Mach.pins_modRte (m : Mach) (i : Nat) (g : Rte → Rte) : (m.modRte i g).pins = m.pins := rfl

/-! ## modDom -/

@[simp] theorem Mach.getDom_modDom (m : Mach) (i : Nat) (g : Dom → Dom) : (m.modDom i g).getDom i = g (m.getDom i) := by
  simp [Mach.getDom, Mach.modDom]
theorem Mach.getDom_modDom_of_ne (m : Mach) {i j : Nat} (g : Dom → Dom) (h : i ≠ j) : (m.modDom i g).getDom j = m.getDom j := by
  simp [Mach.getDom, Mach.modDom, Tab.get_upd_of_ne _ _ _ h]
@[simp] theorem Mach.getHdr_modDom (m : Mach) (i j : Nat) (g : Dom → Dom) : (m.modDom i g).getHdr j = m.getHdr j := rfl
@[simp] theorem Mach.getTrc_modDom (m : Mach) (i j : Nat) (g : Dom → Dom) : (m.modDom i g).getTrc j = m.getTrc j := rfl
@[simp] theorem Mach.getClu_modDom (m : Mach) (i j : Nat) (g : Dom → Dom) : (m.modDom i g).getClu j = m.getClu j := rfl
@[simp] theorem Mach.getCore_modDom (m : Mach) (i j : Nat) (g : Dom → Dom) : (m.modDom i g).getCore j = m.getCore j := rfl
@[simp] theorem Mach.getTrv_modDom (m : Mach) (i j : Nat) (g : Dom → Dom) : (m.modDom i g).getTrv j = m.getTrv j := rfl
@[simp] theorem Mach.getGth_modDom (m : Mach) (i j : Nat) (g : Dom → Dom) : (m.modDom i g).getGth j = m.getGth j := rfl
@[simp] theorem Mach.getSpr_modDom (m : Mach) (i j : Nat) (g : Dom → Dom) : (m.modDom i g).getSpr j = m.getSpr j := rfl
@[simp] theorem Mach.getNtm_modDom (m : Mach) (i j : Nat) (g : Dom → Dom) : (m.modDom i g).getNtm j = m.getNtm j := rfl
@[simp] theorem Mach.getChan_modDom (m : Mach) (i j : Nat) (g : Dom → Dom) : (m.modDom i g).getChan j = m.getChan j := rfl
@[simp] theorem Mach.getUpd_modDom (m : Mach) (i j : Nat) (g : Dom → Dom) : (m.modDom i g).getUpd j = m.getUpd j := rfl
@[simp] theorem Mach.getPlnDom_modDom (m : Mach) (i j : Nat) (g : Dom → Dom) : (m.modDom i g).getPlnDom j = m.getPlnDom j := rfl
@[simp] theorem Mach.getLnk_modDom (m : Mach) (i j : Nat) (g : Dom → Dom) : (m.modDom i g).getLnk j = m.getLnk j := rfl
@[simp] theorem Mach.getRte_modDom (m : Mach) (i j : Nat) (g : Dom → Dom) : (m.modDom i g).getRte j = m.getRte j := rfl
@[simp] theorem Mach.getCtx_modDom (m : Mach) (i j : Nat) (g : Dom → Dom) : (m.modDom i g).getCtx j = m.getCtx j := rfl
@[simp] theorem Mach.getSvc_modDom (m : Mach) (i j : Nat) (g : Dom → Dom) : (m.modDom i g).getSvc j = m.getSvc j := rfl
@[simp] theorem Mach.getThdDom_modDom (m : Mach) (i j : Nat) (g : Dom → Dom) : (m.modDom i g).getThdDom j = m.getThdDom j := rfl
@[simp] theorem Mach.getThdClu_modDom (m : Mach) (i j : Nat) (g : Dom → Dom) : (m.modDom i g).getThdClu j = m.getThdClu j := rfl
@[simp] theorem Mach.job?_modDom (m : Mach) (i j : Nat) (g : Dom → Dom) : (m.modDom i g).job? j = m.job? j := rfl
@[simp] theorem Mach.self_modDom (m : Mach) (i : Nat) (g : Dom → Dom) : (m.modDom i g).self = m.self := rfl
@[simp] theorem Mach.serial_modDom (m : Mach) (i : Nat) (g : Dom → Dom) : (m.modDom i g).serial = m.serial := rfl
@[simp] theorem Mach.fence_modDom (m : Mach) (i : Nat) (g : Dom → Dom) : (m.modDom i g).fence = m.fence := rfl
@[simp] theorem Mach.hdrs_modDom (m : Mach) (i : Nat) (g : Dom → Dom) : (m.modDom i g).hdrs = m.hdrs := rfl
@[simp] theorem Mach.trc_modDom (m : Mach) (i : Nat) (g : Dom → Dom) : (m.modDom i g).trc = m.trc := rfl
@[simp] theorem Mach.clu_modDom (m : Mach) (i : Nat) (g : Dom → Dom) : (m.modDom i g).clu = m.clu := rfl
@[simp] theorem Mach.cores_modDom (m : Mach) (i : Nat) (g : Dom → Dom) : (m.modDom i g).cores = m.cores := rfl
@[simp] theorem Mach.trv_modDom (m : Mach) (i : Nat) (g : Dom → Dom) : (m.modDom i g).trv = m.trv := rfl
@[simp] theorem Mach.gth_modDom (m : Mach) (i : Nat) (g : Dom → Dom) : (m.modDom i g).gth = m.gth := rfl
@[simp] theorem Mach.spr_modDom (m : Mach) (i : Nat) (g : Dom → Dom) : (m.modDom i g).spr = m.spr := rfl
@[simp] theorem Mach.ntm_modDom (m : Mach) (i : Nat) (g : Dom → Dom) : (m.modDom i g).ntm = m.ntm := rfl
@[simp] theorem Mach.chan_modDom (m : Mach) (i : Nat) (g : Dom → Dom) : (m.modDom i g).chan = m.chan := rfl
@[simp] theorem Mach.mem_modDom (m : Mach) (i : Nat) (g : Dom → Dom) : (m.modDom i g).mem = m.mem := rfl
@[simp] theorem Mach.granErr_modDom (m : Mach) (i : Nat) (g : Dom → Dom) : (m.modDom i g).granErr = m.granErr := rfl
@[simp] theorem Mach.lastHeld_modDom (m : Mach) (i : Nat) (g : Dom → Dom) : (m.modDom i g).lastHeld = m.lastHeld := rfl
@[simp] theorem Mach.upd_modDom (m : Mach) (i : Nat) (g : Dom → Dom) : (m.modDom i g).upd = m.upd := rfl
@[simp] theorem Mach.cmt_modDom (m : Mach) (i : Nat) (g : Dom → Dom) : (m.modDom i g).cmt = m.cmt := rfl
@[simp] theorem Mach.pln_modDom (m : Mach) (i : Nat) (g : Dom → Dom) : (m.modDom i g).pln = m.pln := rfl
@[simp] theorem Mach.plnDom_modDom (m : Mach) (i : Nat) (g : Dom → Dom) : (m.modDom i g).plnDom = m.plnDom := rfl
@[simp] theorem Mach.lnk_modDom (m : Mach) (i : Nat) (g : Dom → Dom) : (m.modDom i g).lnk = m.lnk := rfl
@[simp] theorem Mach.rte_modDom (m : Mach) (i : Nat) (g : Dom → Dom) : (m.modDom i g).rte = m.rte := rfl
@[simp] theorem Mach.time_modDom (m : Mach) (i : Nat) (g : Dom → Dom) : (m.modDom i g).time = m.time := rfl
@[simp] theorem Mach.arrived_modDom (m : Mach) (i : Nat) (g : Dom → Dom) : (m.modDom i g).arrived = m.arrived := rfl
@[simp] theorem Mach.inbox_modDom (m : Mach) (i : Nat) (g : Dom → Dom) : (m.modDom i g).inbox = m.inbox := rfl
@[simp] theorem Mach.flowSeq_modDom (m : Mach) (i : Nat) (g : Dom → Dom) : (m.modDom i g).flowSeq = m.flowSeq := rfl
@[simp] theorem Mach.filters_modDom (m : Mach) (i : Nat) (g : Dom → Dom) : (m.modDom i g).filters = m.filters := rfl
@[simp] theorem Mach.fetches_modDom (m : Mach) (i : Nat) (g : Dom → Dom) : (m.modDom i g).fetches = m.fetches := rfl
@[simp] theorem Mach.posted_modDom (m : Mach) (i : Nat) (g : Dom → Dom) : (m.modDom i g).posted = m.posted := rfl
@[simp] theorem Mach.handles_modDom (m : Mach) (i : Nat) (g : Dom → Dom) : (m.modDom i g).handles = m.handles := rfl
@[simp] theorem Mach.regOut_modDom (m : Mach) (i : Nat) (g : Dom → Dom) : (m.modDom i g).regOut = m.regOut := rfl
@[simp] theorem Mach.regIn_modDom (m : Mach) (i : Nat) (g : Dom → Dom) : (m.modDom i g).regIn = m.regIn := rfl
@[simp] theorem Mach.lastRead_modDom (m : Mach) (i : Nat) (g : Dom → Dom) : (m.modDom i g).lastRead = m.lastRead := rfl
@[simp] theorem Mach.ctx_modDom (m : Mach) (i : Nat) (g : Dom → Dom) : (m.modDom i g).ctx = m.ctx := rfl
@[simp] theorem Mach.svc_modDom (m : Mach) (i : Nat) (g : Dom → Dom) : (m.modDom i g).svc = m.svc := rfl
@[simp] theorem Mach.apc_modDom (m : Mach) (i : Nat) (g : Dom → Dom) : (m.modDom i g).apc = m.apc := rfl
@[simp] theorem Mach.rng_modDom (m : Mach) (i : Nat) (g : Dom → Dom) : (m.modDom i g).rng = m.rng := rfl
@[simp] theorem Mach.flt_modDom (m : Mach) (i : Nat) (g : Dom → Dom) : (m.modDom i g).flt = m.flt := rfl
@[simp] theorem Mach.mgt_modDom (m : Mach) (i : Nat) (g : Dom → Dom) : (m.modDom i g).mgt = m.mgt := rfl
@[simp] theorem Mach.pwr_modDom (m : Mach) (i : Nat) (g : Dom → Dom) : (m.modDom i g).pwr = m.pwr := rfl
@[simp] theorem Mach.rst_modDom (m : Mach) (i : Nat) (g : Dom → Dom) : (m.modDom i g).rst = m.rst := rfl
@[simp] theorem Mach.thdSel_modDom (m : Mach) (i : Nat) (g : Dom → Dom) : (m.modDom i g).thdSel = m.thdSel := rfl
@[simp] theorem Mach.thdDom_modDom (m : Mach) (i : Nat) (g : Dom → Dom) : (m.modDom i g).thdDom = m.thdDom := rfl
@[simp] theorem Mach.thdClu_modDom (m : Mach) (i : Nat) (g : Dom → Dom) : (m.modDom i g).thdClu = m.thdClu := rfl
@[simp] theorem Mach.pins_modDom (m : Mach) (i : Nat) (g : Dom → Dom) : (m.modDom i g).pins = m.pins := rfl

/-! ## modCtx -/

@[simp] theorem Mach.getCtx_modCtx (m : Mach) (i : Nat) (g : Ctx → Ctx) : (m.modCtx i g).getCtx i = g (m.getCtx i) := by
  simp [Mach.getCtx, Mach.modCtx]
theorem Mach.getCtx_modCtx_of_ne (m : Mach) {i j : Nat} (g : Ctx → Ctx) (h : i ≠ j) : (m.modCtx i g).getCtx j = m.getCtx j := by
  simp [Mach.getCtx, Mach.modCtx, Tab.get_upd_of_ne _ _ _ h]
@[simp] theorem Mach.getHdr_modCtx (m : Mach) (i j : Nat) (g : Ctx → Ctx) : (m.modCtx i g).getHdr j = m.getHdr j := rfl
@[simp] theorem Mach.getTrc_modCtx (m : Mach) (i j : Nat) (g : Ctx → Ctx) : (m.modCtx i g).getTrc j = m.getTrc j := rfl
@[simp] theorem Mach.getClu_modCtx (m : Mach) (i j : Nat) (g : Ctx → Ctx) : (m.modCtx i g).getClu j = m.getClu j := rfl
@[simp] theorem Mach.getCore_modCtx (m : Mach) (i j : Nat) (g : Ctx → Ctx) : (m.modCtx i g).getCore j = m.getCore j := rfl
@[simp] theorem Mach.getTrv_modCtx (m : Mach) (i j : Nat) (g : Ctx → Ctx) : (m.modCtx i g).getTrv j = m.getTrv j := rfl
@[simp] theorem Mach.getGth_modCtx (m : Mach) (i j : Nat) (g : Ctx → Ctx) : (m.modCtx i g).getGth j = m.getGth j := rfl
@[simp] theorem Mach.getSpr_modCtx (m : Mach) (i j : Nat) (g : Ctx → Ctx) : (m.modCtx i g).getSpr j = m.getSpr j := rfl
@[simp] theorem Mach.getNtm_modCtx (m : Mach) (i j : Nat) (g : Ctx → Ctx) : (m.modCtx i g).getNtm j = m.getNtm j := rfl
@[simp] theorem Mach.getChan_modCtx (m : Mach) (i j : Nat) (g : Ctx → Ctx) : (m.modCtx i g).getChan j = m.getChan j := rfl
@[simp] theorem Mach.getUpd_modCtx (m : Mach) (i j : Nat) (g : Ctx → Ctx) : (m.modCtx i g).getUpd j = m.getUpd j := rfl
@[simp] theorem Mach.getPlnDom_modCtx (m : Mach) (i j : Nat) (g : Ctx → Ctx) : (m.modCtx i g).getPlnDom j = m.getPlnDom j := rfl
@[simp] theorem Mach.getLnk_modCtx (m : Mach) (i j : Nat) (g : Ctx → Ctx) : (m.modCtx i g).getLnk j = m.getLnk j := rfl
@[simp] theorem Mach.getRte_modCtx (m : Mach) (i j : Nat) (g : Ctx → Ctx) : (m.modCtx i g).getRte j = m.getRte j := rfl
@[simp] theorem Mach.getDom_modCtx (m : Mach) (i j : Nat) (g : Ctx → Ctx) : (m.modCtx i g).getDom j = m.getDom j := rfl
@[simp] theorem Mach.getSvc_modCtx (m : Mach) (i j : Nat) (g : Ctx → Ctx) : (m.modCtx i g).getSvc j = m.getSvc j := rfl
@[simp] theorem Mach.getThdDom_modCtx (m : Mach) (i j : Nat) (g : Ctx → Ctx) : (m.modCtx i g).getThdDom j = m.getThdDom j := rfl
@[simp] theorem Mach.getThdClu_modCtx (m : Mach) (i j : Nat) (g : Ctx → Ctx) : (m.modCtx i g).getThdClu j = m.getThdClu j := rfl
@[simp] theorem Mach.job?_modCtx (m : Mach) (i j : Nat) (g : Ctx → Ctx) : (m.modCtx i g).job? j = m.job? j := rfl
@[simp] theorem Mach.self_modCtx (m : Mach) (i : Nat) (g : Ctx → Ctx) : (m.modCtx i g).self = m.self := rfl
@[simp] theorem Mach.serial_modCtx (m : Mach) (i : Nat) (g : Ctx → Ctx) : (m.modCtx i g).serial = m.serial := rfl
@[simp] theorem Mach.fence_modCtx (m : Mach) (i : Nat) (g : Ctx → Ctx) : (m.modCtx i g).fence = m.fence := rfl
@[simp] theorem Mach.hdrs_modCtx (m : Mach) (i : Nat) (g : Ctx → Ctx) : (m.modCtx i g).hdrs = m.hdrs := rfl
@[simp] theorem Mach.trc_modCtx (m : Mach) (i : Nat) (g : Ctx → Ctx) : (m.modCtx i g).trc = m.trc := rfl
@[simp] theorem Mach.clu_modCtx (m : Mach) (i : Nat) (g : Ctx → Ctx) : (m.modCtx i g).clu = m.clu := rfl
@[simp] theorem Mach.cores_modCtx (m : Mach) (i : Nat) (g : Ctx → Ctx) : (m.modCtx i g).cores = m.cores := rfl
@[simp] theorem Mach.trv_modCtx (m : Mach) (i : Nat) (g : Ctx → Ctx) : (m.modCtx i g).trv = m.trv := rfl
@[simp] theorem Mach.gth_modCtx (m : Mach) (i : Nat) (g : Ctx → Ctx) : (m.modCtx i g).gth = m.gth := rfl
@[simp] theorem Mach.spr_modCtx (m : Mach) (i : Nat) (g : Ctx → Ctx) : (m.modCtx i g).spr = m.spr := rfl
@[simp] theorem Mach.ntm_modCtx (m : Mach) (i : Nat) (g : Ctx → Ctx) : (m.modCtx i g).ntm = m.ntm := rfl
@[simp] theorem Mach.chan_modCtx (m : Mach) (i : Nat) (g : Ctx → Ctx) : (m.modCtx i g).chan = m.chan := rfl
@[simp] theorem Mach.mem_modCtx (m : Mach) (i : Nat) (g : Ctx → Ctx) : (m.modCtx i g).mem = m.mem := rfl
@[simp] theorem Mach.granErr_modCtx (m : Mach) (i : Nat) (g : Ctx → Ctx) : (m.modCtx i g).granErr = m.granErr := rfl
@[simp] theorem Mach.lastHeld_modCtx (m : Mach) (i : Nat) (g : Ctx → Ctx) : (m.modCtx i g).lastHeld = m.lastHeld := rfl
@[simp] theorem Mach.upd_modCtx (m : Mach) (i : Nat) (g : Ctx → Ctx) : (m.modCtx i g).upd = m.upd := rfl
@[simp] theorem Mach.cmt_modCtx (m : Mach) (i : Nat) (g : Ctx → Ctx) : (m.modCtx i g).cmt = m.cmt := rfl
@[simp] theorem Mach.pln_modCtx (m : Mach) (i : Nat) (g : Ctx → Ctx) : (m.modCtx i g).pln = m.pln := rfl
@[simp] theorem Mach.plnDom_modCtx (m : Mach) (i : Nat) (g : Ctx → Ctx) : (m.modCtx i g).plnDom = m.plnDom := rfl
@[simp] theorem Mach.lnk_modCtx (m : Mach) (i : Nat) (g : Ctx → Ctx) : (m.modCtx i g).lnk = m.lnk := rfl
@[simp] theorem Mach.rte_modCtx (m : Mach) (i : Nat) (g : Ctx → Ctx) : (m.modCtx i g).rte = m.rte := rfl
@[simp] theorem Mach.time_modCtx (m : Mach) (i : Nat) (g : Ctx → Ctx) : (m.modCtx i g).time = m.time := rfl
@[simp] theorem Mach.arrived_modCtx (m : Mach) (i : Nat) (g : Ctx → Ctx) : (m.modCtx i g).arrived = m.arrived := rfl
@[simp] theorem Mach.inbox_modCtx (m : Mach) (i : Nat) (g : Ctx → Ctx) : (m.modCtx i g).inbox = m.inbox := rfl
@[simp] theorem Mach.flowSeq_modCtx (m : Mach) (i : Nat) (g : Ctx → Ctx) : (m.modCtx i g).flowSeq = m.flowSeq := rfl
@[simp] theorem Mach.filters_modCtx (m : Mach) (i : Nat) (g : Ctx → Ctx) : (m.modCtx i g).filters = m.filters := rfl
@[simp] theorem Mach.fetches_modCtx (m : Mach) (i : Nat) (g : Ctx → Ctx) : (m.modCtx i g).fetches = m.fetches := rfl
@[simp] theorem Mach.posted_modCtx (m : Mach) (i : Nat) (g : Ctx → Ctx) : (m.modCtx i g).posted = m.posted := rfl
@[simp] theorem Mach.handles_modCtx (m : Mach) (i : Nat) (g : Ctx → Ctx) : (m.modCtx i g).handles = m.handles := rfl
@[simp] theorem Mach.regOut_modCtx (m : Mach) (i : Nat) (g : Ctx → Ctx) : (m.modCtx i g).regOut = m.regOut := rfl
@[simp] theorem Mach.regIn_modCtx (m : Mach) (i : Nat) (g : Ctx → Ctx) : (m.modCtx i g).regIn = m.regIn := rfl
@[simp] theorem Mach.lastRead_modCtx (m : Mach) (i : Nat) (g : Ctx → Ctx) : (m.modCtx i g).lastRead = m.lastRead := rfl
@[simp] theorem Mach.dom_modCtx (m : Mach) (i : Nat) (g : Ctx → Ctx) : (m.modCtx i g).dom = m.dom := rfl
@[simp] theorem Mach.svc_modCtx (m : Mach) (i : Nat) (g : Ctx → Ctx) : (m.modCtx i g).svc = m.svc := rfl
@[simp] theorem Mach.apc_modCtx (m : Mach) (i : Nat) (g : Ctx → Ctx) : (m.modCtx i g).apc = m.apc := rfl
@[simp] theorem Mach.rng_modCtx (m : Mach) (i : Nat) (g : Ctx → Ctx) : (m.modCtx i g).rng = m.rng := rfl
@[simp] theorem Mach.flt_modCtx (m : Mach) (i : Nat) (g : Ctx → Ctx) : (m.modCtx i g).flt = m.flt := rfl
@[simp] theorem Mach.mgt_modCtx (m : Mach) (i : Nat) (g : Ctx → Ctx) : (m.modCtx i g).mgt = m.mgt := rfl
@[simp] theorem Mach.pwr_modCtx (m : Mach) (i : Nat) (g : Ctx → Ctx) : (m.modCtx i g).pwr = m.pwr := rfl
@[simp] theorem Mach.rst_modCtx (m : Mach) (i : Nat) (g : Ctx → Ctx) : (m.modCtx i g).rst = m.rst := rfl
@[simp] theorem Mach.thdSel_modCtx (m : Mach) (i : Nat) (g : Ctx → Ctx) : (m.modCtx i g).thdSel = m.thdSel := rfl
@[simp] theorem Mach.thdDom_modCtx (m : Mach) (i : Nat) (g : Ctx → Ctx) : (m.modCtx i g).thdDom = m.thdDom := rfl
@[simp] theorem Mach.thdClu_modCtx (m : Mach) (i : Nat) (g : Ctx → Ctx) : (m.modCtx i g).thdClu = m.thdClu := rfl
@[simp] theorem Mach.pins_modCtx (m : Mach) (i : Nat) (g : Ctx → Ctx) : (m.modCtx i g).pins = m.pins := rfl

/-! ## modSvc -/

@[simp] theorem Mach.getSvc_modSvc (m : Mach) (i : Nat) (g : Svc → Svc) : (m.modSvc i g).getSvc i = g (m.getSvc i) := by
  simp [Mach.getSvc, Mach.modSvc]
theorem Mach.getSvc_modSvc_of_ne (m : Mach) {i j : Nat} (g : Svc → Svc) (h : i ≠ j) : (m.modSvc i g).getSvc j = m.getSvc j := by
  simp [Mach.getSvc, Mach.modSvc, Tab.get_upd_of_ne _ _ _ h]
@[simp] theorem Mach.getHdr_modSvc (m : Mach) (i j : Nat) (g : Svc → Svc) : (m.modSvc i g).getHdr j = m.getHdr j := rfl
@[simp] theorem Mach.getTrc_modSvc (m : Mach) (i j : Nat) (g : Svc → Svc) : (m.modSvc i g).getTrc j = m.getTrc j := rfl
@[simp] theorem Mach.getClu_modSvc (m : Mach) (i j : Nat) (g : Svc → Svc) : (m.modSvc i g).getClu j = m.getClu j := rfl
@[simp] theorem Mach.getCore_modSvc (m : Mach) (i j : Nat) (g : Svc → Svc) : (m.modSvc i g).getCore j = m.getCore j := rfl
@[simp] theorem Mach.getTrv_modSvc (m : Mach) (i j : Nat) (g : Svc → Svc) : (m.modSvc i g).getTrv j = m.getTrv j := rfl
@[simp] theorem Mach.getGth_modSvc (m : Mach) (i j : Nat) (g : Svc → Svc) : (m.modSvc i g).getGth j = m.getGth j := rfl
@[simp] theorem Mach.getSpr_modSvc (m : Mach) (i j : Nat) (g : Svc → Svc) : (m.modSvc i g).getSpr j = m.getSpr j := rfl
@[simp] theorem Mach.getNtm_modSvc (m : Mach) (i j : Nat) (g : Svc → Svc) : (m.modSvc i g).getNtm j = m.getNtm j := rfl
@[simp] theorem Mach.getChan_modSvc (m : Mach) (i j : Nat) (g : Svc → Svc) : (m.modSvc i g).getChan j = m.getChan j := rfl
@[simp] theorem Mach.getUpd_modSvc (m : Mach) (i j : Nat) (g : Svc → Svc) : (m.modSvc i g).getUpd j = m.getUpd j := rfl
@[simp] theorem Mach.getPlnDom_modSvc (m : Mach) (i j : Nat) (g : Svc → Svc) : (m.modSvc i g).getPlnDom j = m.getPlnDom j := rfl
@[simp] theorem Mach.getLnk_modSvc (m : Mach) (i j : Nat) (g : Svc → Svc) : (m.modSvc i g).getLnk j = m.getLnk j := rfl
@[simp] theorem Mach.getRte_modSvc (m : Mach) (i j : Nat) (g : Svc → Svc) : (m.modSvc i g).getRte j = m.getRte j := rfl
@[simp] theorem Mach.getDom_modSvc (m : Mach) (i j : Nat) (g : Svc → Svc) : (m.modSvc i g).getDom j = m.getDom j := rfl
@[simp] theorem Mach.getCtx_modSvc (m : Mach) (i j : Nat) (g : Svc → Svc) : (m.modSvc i g).getCtx j = m.getCtx j := rfl
@[simp] theorem Mach.getThdDom_modSvc (m : Mach) (i j : Nat) (g : Svc → Svc) : (m.modSvc i g).getThdDom j = m.getThdDom j := rfl
@[simp] theorem Mach.getThdClu_modSvc (m : Mach) (i j : Nat) (g : Svc → Svc) : (m.modSvc i g).getThdClu j = m.getThdClu j := rfl
@[simp] theorem Mach.job?_modSvc (m : Mach) (i j : Nat) (g : Svc → Svc) : (m.modSvc i g).job? j = m.job? j := rfl
@[simp] theorem Mach.self_modSvc (m : Mach) (i : Nat) (g : Svc → Svc) : (m.modSvc i g).self = m.self := rfl
@[simp] theorem Mach.serial_modSvc (m : Mach) (i : Nat) (g : Svc → Svc) : (m.modSvc i g).serial = m.serial := rfl
@[simp] theorem Mach.fence_modSvc (m : Mach) (i : Nat) (g : Svc → Svc) : (m.modSvc i g).fence = m.fence := rfl
@[simp] theorem Mach.hdrs_modSvc (m : Mach) (i : Nat) (g : Svc → Svc) : (m.modSvc i g).hdrs = m.hdrs := rfl
@[simp] theorem Mach.trc_modSvc (m : Mach) (i : Nat) (g : Svc → Svc) : (m.modSvc i g).trc = m.trc := rfl
@[simp] theorem Mach.clu_modSvc (m : Mach) (i : Nat) (g : Svc → Svc) : (m.modSvc i g).clu = m.clu := rfl
@[simp] theorem Mach.cores_modSvc (m : Mach) (i : Nat) (g : Svc → Svc) : (m.modSvc i g).cores = m.cores := rfl
@[simp] theorem Mach.trv_modSvc (m : Mach) (i : Nat) (g : Svc → Svc) : (m.modSvc i g).trv = m.trv := rfl
@[simp] theorem Mach.gth_modSvc (m : Mach) (i : Nat) (g : Svc → Svc) : (m.modSvc i g).gth = m.gth := rfl
@[simp] theorem Mach.spr_modSvc (m : Mach) (i : Nat) (g : Svc → Svc) : (m.modSvc i g).spr = m.spr := rfl
@[simp] theorem Mach.ntm_modSvc (m : Mach) (i : Nat) (g : Svc → Svc) : (m.modSvc i g).ntm = m.ntm := rfl
@[simp] theorem Mach.chan_modSvc (m : Mach) (i : Nat) (g : Svc → Svc) : (m.modSvc i g).chan = m.chan := rfl
@[simp] theorem Mach.mem_modSvc (m : Mach) (i : Nat) (g : Svc → Svc) : (m.modSvc i g).mem = m.mem := rfl
@[simp] theorem Mach.granErr_modSvc (m : Mach) (i : Nat) (g : Svc → Svc) : (m.modSvc i g).granErr = m.granErr := rfl
@[simp] theorem Mach.lastHeld_modSvc (m : Mach) (i : Nat) (g : Svc → Svc) : (m.modSvc i g).lastHeld = m.lastHeld := rfl
@[simp] theorem Mach.upd_modSvc (m : Mach) (i : Nat) (g : Svc → Svc) : (m.modSvc i g).upd = m.upd := rfl
@[simp] theorem Mach.cmt_modSvc (m : Mach) (i : Nat) (g : Svc → Svc) : (m.modSvc i g).cmt = m.cmt := rfl
@[simp] theorem Mach.pln_modSvc (m : Mach) (i : Nat) (g : Svc → Svc) : (m.modSvc i g).pln = m.pln := rfl
@[simp] theorem Mach.plnDom_modSvc (m : Mach) (i : Nat) (g : Svc → Svc) : (m.modSvc i g).plnDom = m.plnDom := rfl
@[simp] theorem Mach.lnk_modSvc (m : Mach) (i : Nat) (g : Svc → Svc) : (m.modSvc i g).lnk = m.lnk := rfl
@[simp] theorem Mach.rte_modSvc (m : Mach) (i : Nat) (g : Svc → Svc) : (m.modSvc i g).rte = m.rte := rfl
@[simp] theorem Mach.time_modSvc (m : Mach) (i : Nat) (g : Svc → Svc) : (m.modSvc i g).time = m.time := rfl
@[simp] theorem Mach.arrived_modSvc (m : Mach) (i : Nat) (g : Svc → Svc) : (m.modSvc i g).arrived = m.arrived := rfl
@[simp] theorem Mach.inbox_modSvc (m : Mach) (i : Nat) (g : Svc → Svc) : (m.modSvc i g).inbox = m.inbox := rfl
@[simp] theorem Mach.flowSeq_modSvc (m : Mach) (i : Nat) (g : Svc → Svc) : (m.modSvc i g).flowSeq = m.flowSeq := rfl
@[simp] theorem Mach.filters_modSvc (m : Mach) (i : Nat) (g : Svc → Svc) : (m.modSvc i g).filters = m.filters := rfl
@[simp] theorem Mach.fetches_modSvc (m : Mach) (i : Nat) (g : Svc → Svc) : (m.modSvc i g).fetches = m.fetches := rfl
@[simp] theorem Mach.posted_modSvc (m : Mach) (i : Nat) (g : Svc → Svc) : (m.modSvc i g).posted = m.posted := rfl
@[simp] theorem Mach.handles_modSvc (m : Mach) (i : Nat) (g : Svc → Svc) : (m.modSvc i g).handles = m.handles := rfl
@[simp] theorem Mach.regOut_modSvc (m : Mach) (i : Nat) (g : Svc → Svc) : (m.modSvc i g).regOut = m.regOut := rfl
@[simp] theorem Mach.regIn_modSvc (m : Mach) (i : Nat) (g : Svc → Svc) : (m.modSvc i g).regIn = m.regIn := rfl
@[simp] theorem Mach.lastRead_modSvc (m : Mach) (i : Nat) (g : Svc → Svc) : (m.modSvc i g).lastRead = m.lastRead := rfl
@[simp] theorem Mach.dom_modSvc (m : Mach) (i : Nat) (g : Svc → Svc) : (m.modSvc i g).dom = m.dom := rfl
@[simp] theorem Mach.ctx_modSvc (m : Mach) (i : Nat) (g : Svc → Svc) : (m.modSvc i g).ctx = m.ctx := rfl
@[simp] theorem Mach.apc_modSvc (m : Mach) (i : Nat) (g : Svc → Svc) : (m.modSvc i g).apc = m.apc := rfl
@[simp] theorem Mach.rng_modSvc (m : Mach) (i : Nat) (g : Svc → Svc) : (m.modSvc i g).rng = m.rng := rfl
@[simp] theorem Mach.flt_modSvc (m : Mach) (i : Nat) (g : Svc → Svc) : (m.modSvc i g).flt = m.flt := rfl
@[simp] theorem Mach.mgt_modSvc (m : Mach) (i : Nat) (g : Svc → Svc) : (m.modSvc i g).mgt = m.mgt := rfl
@[simp] theorem Mach.pwr_modSvc (m : Mach) (i : Nat) (g : Svc → Svc) : (m.modSvc i g).pwr = m.pwr := rfl
@[simp] theorem Mach.rst_modSvc (m : Mach) (i : Nat) (g : Svc → Svc) : (m.modSvc i g).rst = m.rst := rfl
@[simp] theorem Mach.thdSel_modSvc (m : Mach) (i : Nat) (g : Svc → Svc) : (m.modSvc i g).thdSel = m.thdSel := rfl
@[simp] theorem Mach.thdDom_modSvc (m : Mach) (i : Nat) (g : Svc → Svc) : (m.modSvc i g).thdDom = m.thdDom := rfl
@[simp] theorem Mach.thdClu_modSvc (m : Mach) (i : Nat) (g : Svc → Svc) : (m.modSvc i g).thdClu = m.thdClu := rfl
@[simp] theorem Mach.pins_modSvc (m : Mach) (i : Nat) (g : Svc → Svc) : (m.modSvc i g).pins = m.pins := rfl

/-! ## modThdDom -/

@[simp] theorem Mach.getThdDom_modThdDom (m : Mach) (i : Nat) (g : ThdDom → ThdDom) : (m.modThdDom i g).getThdDom i = g (m.getThdDom i) := by
  simp [Mach.getThdDom, Mach.modThdDom]
theorem Mach.getThdDom_modThdDom_of_ne (m : Mach) {i j : Nat} (g : ThdDom → ThdDom) (h : i ≠ j) : (m.modThdDom i g).getThdDom j = m.getThdDom j := by
  simp [Mach.getThdDom, Mach.modThdDom, Tab.get_upd_of_ne _ _ _ h]
@[simp] theorem Mach.getHdr_modThdDom (m : Mach) (i j : Nat) (g : ThdDom → ThdDom) : (m.modThdDom i g).getHdr j = m.getHdr j := rfl
@[simp] theorem Mach.getTrc_modThdDom (m : Mach) (i j : Nat) (g : ThdDom → ThdDom) : (m.modThdDom i g).getTrc j = m.getTrc j := rfl
@[simp] theorem Mach.getClu_modThdDom (m : Mach) (i j : Nat) (g : ThdDom → ThdDom) : (m.modThdDom i g).getClu j = m.getClu j := rfl
@[simp] theorem Mach.getCore_modThdDom (m : Mach) (i j : Nat) (g : ThdDom → ThdDom) : (m.modThdDom i g).getCore j = m.getCore j := rfl
@[simp] theorem Mach.getTrv_modThdDom (m : Mach) (i j : Nat) (g : ThdDom → ThdDom) : (m.modThdDom i g).getTrv j = m.getTrv j := rfl
@[simp] theorem Mach.getGth_modThdDom (m : Mach) (i j : Nat) (g : ThdDom → ThdDom) : (m.modThdDom i g).getGth j = m.getGth j := rfl
@[simp] theorem Mach.getSpr_modThdDom (m : Mach) (i j : Nat) (g : ThdDom → ThdDom) : (m.modThdDom i g).getSpr j = m.getSpr j := rfl
@[simp] theorem Mach.getNtm_modThdDom (m : Mach) (i j : Nat) (g : ThdDom → ThdDom) : (m.modThdDom i g).getNtm j = m.getNtm j := rfl
@[simp] theorem Mach.getChan_modThdDom (m : Mach) (i j : Nat) (g : ThdDom → ThdDom) : (m.modThdDom i g).getChan j = m.getChan j := rfl
@[simp] theorem Mach.getUpd_modThdDom (m : Mach) (i j : Nat) (g : ThdDom → ThdDom) : (m.modThdDom i g).getUpd j = m.getUpd j := rfl
@[simp] theorem Mach.getPlnDom_modThdDom (m : Mach) (i j : Nat) (g : ThdDom → ThdDom) : (m.modThdDom i g).getPlnDom j = m.getPlnDom j := rfl
@[simp] theorem Mach.getLnk_modThdDom (m : Mach) (i j : Nat) (g : ThdDom → ThdDom) : (m.modThdDom i g).getLnk j = m.getLnk j := rfl
@[simp] theorem Mach.getRte_modThdDom (m : Mach) (i j : Nat) (g : ThdDom → ThdDom) : (m.modThdDom i g).getRte j = m.getRte j := rfl
@[simp] theorem Mach.getDom_modThdDom (m : Mach) (i j : Nat) (g : ThdDom → ThdDom) : (m.modThdDom i g).getDom j = m.getDom j := rfl
@[simp] theorem Mach.getCtx_modThdDom (m : Mach) (i j : Nat) (g : ThdDom → ThdDom) : (m.modThdDom i g).getCtx j = m.getCtx j := rfl
@[simp] theorem Mach.getSvc_modThdDom (m : Mach) (i j : Nat) (g : ThdDom → ThdDom) : (m.modThdDom i g).getSvc j = m.getSvc j := rfl
@[simp] theorem Mach.getThdClu_modThdDom (m : Mach) (i j : Nat) (g : ThdDom → ThdDom) : (m.modThdDom i g).getThdClu j = m.getThdClu j := rfl
@[simp] theorem Mach.job?_modThdDom (m : Mach) (i j : Nat) (g : ThdDom → ThdDom) : (m.modThdDom i g).job? j = m.job? j := rfl
@[simp] theorem Mach.self_modThdDom (m : Mach) (i : Nat) (g : ThdDom → ThdDom) : (m.modThdDom i g).self = m.self := rfl
@[simp] theorem Mach.serial_modThdDom (m : Mach) (i : Nat) (g : ThdDom → ThdDom) : (m.modThdDom i g).serial = m.serial := rfl
@[simp] theorem Mach.fence_modThdDom (m : Mach) (i : Nat) (g : ThdDom → ThdDom) : (m.modThdDom i g).fence = m.fence := rfl
@[simp] theorem Mach.hdrs_modThdDom (m : Mach) (i : Nat) (g : ThdDom → ThdDom) : (m.modThdDom i g).hdrs = m.hdrs := rfl
@[simp] theorem Mach.trc_modThdDom (m : Mach) (i : Nat) (g : ThdDom → ThdDom) : (m.modThdDom i g).trc = m.trc := rfl
@[simp] theorem Mach.clu_modThdDom (m : Mach) (i : Nat) (g : ThdDom → ThdDom) : (m.modThdDom i g).clu = m.clu := rfl
@[simp] theorem Mach.cores_modThdDom (m : Mach) (i : Nat) (g : ThdDom → ThdDom) : (m.modThdDom i g).cores = m.cores := rfl
@[simp] theorem Mach.trv_modThdDom (m : Mach) (i : Nat) (g : ThdDom → ThdDom) : (m.modThdDom i g).trv = m.trv := rfl
@[simp] theorem Mach.gth_modThdDom (m : Mach) (i : Nat) (g : ThdDom → ThdDom) : (m.modThdDom i g).gth = m.gth := rfl
@[simp] theorem Mach.spr_modThdDom (m : Mach) (i : Nat) (g : ThdDom → ThdDom) : (m.modThdDom i g).spr = m.spr := rfl
@[simp] theorem Mach.ntm_modThdDom (m : Mach) (i : Nat) (g : ThdDom → ThdDom) : (m.modThdDom i g).ntm = m.ntm := rfl
@[simp] theorem Mach.chan_modThdDom (m : Mach) (i : Nat) (g : ThdDom → ThdDom) : (m.modThdDom i g).chan = m.chan := rfl
@[simp] theorem Mach.mem_modThdDom (m : Mach) (i : Nat) (g : ThdDom → ThdDom) : (m.modThdDom i g).mem = m.mem := rfl
@[simp] theorem Mach.granErr_modThdDom (m : Mach) (i : Nat) (g : ThdDom → ThdDom) : (m.modThdDom i g).granErr = m.granErr := rfl
@[simp] theorem Mach.lastHeld_modThdDom (m : Mach) (i : Nat) (g : ThdDom → ThdDom) : (m.modThdDom i g).lastHeld = m.lastHeld := rfl
@[simp] theorem Mach.upd_modThdDom (m : Mach) (i : Nat) (g : ThdDom → ThdDom) : (m.modThdDom i g).upd = m.upd := rfl
@[simp] theorem Mach.cmt_modThdDom (m : Mach) (i : Nat) (g : ThdDom → ThdDom) : (m.modThdDom i g).cmt = m.cmt := rfl
@[simp] theorem Mach.pln_modThdDom (m : Mach) (i : Nat) (g : ThdDom → ThdDom) : (m.modThdDom i g).pln = m.pln := rfl
@[simp] theorem Mach.plnDom_modThdDom (m : Mach) (i : Nat) (g : ThdDom → ThdDom) : (m.modThdDom i g).plnDom = m.plnDom := rfl
@[simp] theorem Mach.lnk_modThdDom (m : Mach) (i : Nat) (g : ThdDom → ThdDom) : (m.modThdDom i g).lnk = m.lnk := rfl
@[simp] theorem Mach.rte_modThdDom (m : Mach) (i : Nat) (g : ThdDom → ThdDom) : (m.modThdDom i g).rte = m.rte := rfl
@[simp] theorem Mach.time_modThdDom (m : Mach) (i : Nat) (g : ThdDom → ThdDom) : (m.modThdDom i g).time = m.time := rfl
@[simp] theorem Mach.arrived_modThdDom (m : Mach) (i : Nat) (g : ThdDom → ThdDom) : (m.modThdDom i g).arrived = m.arrived := rfl
@[simp] theorem Mach.inbox_modThdDom (m : Mach) (i : Nat) (g : ThdDom → ThdDom) : (m.modThdDom i g).inbox = m.inbox := rfl
@[simp] theorem Mach.flowSeq_modThdDom (m : Mach) (i : Nat) (g : ThdDom → ThdDom) : (m.modThdDom i g).flowSeq = m.flowSeq := rfl
@[simp] theorem Mach.filters_modThdDom (m : Mach) (i : Nat) (g : ThdDom → ThdDom) : (m.modThdDom i g).filters = m.filters := rfl
@[simp] theorem Mach.fetches_modThdDom (m : Mach) (i : Nat) (g : ThdDom → ThdDom) : (m.modThdDom i g).fetches = m.fetches := rfl
@[simp] theorem Mach.posted_modThdDom (m : Mach) (i : Nat) (g : ThdDom → ThdDom) : (m.modThdDom i g).posted = m.posted := rfl
@[simp] theorem Mach.handles_modThdDom (m : Mach) (i : Nat) (g : ThdDom → ThdDom) : (m.modThdDom i g).handles = m.handles := rfl
@[simp] theorem Mach.regOut_modThdDom (m : Mach) (i : Nat) (g : ThdDom → ThdDom) : (m.modThdDom i g).regOut = m.regOut := rfl
@[simp] theorem Mach.regIn_modThdDom (m : Mach) (i : Nat) (g : ThdDom → ThdDom) : (m.modThdDom i g).regIn = m.regIn := rfl
@[simp] theorem Mach.lastRead_modThdDom (m : Mach) (i : Nat) (g : ThdDom → ThdDom) : (m.modThdDom i g).lastRead = m.lastRead := rfl
@[simp] theorem Mach.dom_modThdDom (m : Mach) (i : Nat) (g : ThdDom → ThdDom) : (m.modThdDom i g).dom = m.dom := rfl
@[simp] theorem Mach.ctx_modThdDom (m : Mach) (i : Nat) (g : ThdDom → ThdDom) : (m.modThdDom i g).ctx = m.ctx := rfl
@[simp] theorem Mach.svc_modThdDom (m : Mach) (i : Nat) (g : ThdDom → ThdDom) : (m.modThdDom i g).svc = m.svc := rfl
@[simp] theorem Mach.apc_modThdDom (m : Mach) (i : Nat) (g : ThdDom → ThdDom) : (m.modThdDom i g).apc = m.apc := rfl
@[simp] theorem Mach.rng_modThdDom (m : Mach) (i : Nat) (g : ThdDom → ThdDom) : (m.modThdDom i g).rng = m.rng := rfl
@[simp] theorem Mach.flt_modThdDom (m : Mach) (i : Nat) (g : ThdDom → ThdDom) : (m.modThdDom i g).flt = m.flt := rfl
@[simp] theorem Mach.mgt_modThdDom (m : Mach) (i : Nat) (g : ThdDom → ThdDom) : (m.modThdDom i g).mgt = m.mgt := rfl
@[simp] theorem Mach.pwr_modThdDom (m : Mach) (i : Nat) (g : ThdDom → ThdDom) : (m.modThdDom i g).pwr = m.pwr := rfl
@[simp] theorem Mach.rst_modThdDom (m : Mach) (i : Nat) (g : ThdDom → ThdDom) : (m.modThdDom i g).rst = m.rst := rfl
@[simp] theorem Mach.thdSel_modThdDom (m : Mach) (i : Nat) (g : ThdDom → ThdDom) : (m.modThdDom i g).thdSel = m.thdSel := rfl
@[simp] theorem Mach.thdClu_modThdDom (m : Mach) (i : Nat) (g : ThdDom → ThdDom) : (m.modThdDom i g).thdClu = m.thdClu := rfl
@[simp] theorem Mach.pins_modThdDom (m : Mach) (i : Nat) (g : ThdDom → ThdDom) : (m.modThdDom i g).pins = m.pins := rfl

/-! ## modThdClu -/

@[simp] theorem Mach.getThdClu_modThdClu (m : Mach) (i : Nat) (g : ThdClu → ThdClu) : (m.modThdClu i g).getThdClu i = g (m.getThdClu i) := by
  simp [Mach.getThdClu, Mach.modThdClu]
theorem Mach.getThdClu_modThdClu_of_ne (m : Mach) {i j : Nat} (g : ThdClu → ThdClu) (h : i ≠ j) : (m.modThdClu i g).getThdClu j = m.getThdClu j := by
  simp [Mach.getThdClu, Mach.modThdClu, Tab.get_upd_of_ne _ _ _ h]
@[simp] theorem Mach.getHdr_modThdClu (m : Mach) (i j : Nat) (g : ThdClu → ThdClu) : (m.modThdClu i g).getHdr j = m.getHdr j := rfl
@[simp] theorem Mach.getTrc_modThdClu (m : Mach) (i j : Nat) (g : ThdClu → ThdClu) : (m.modThdClu i g).getTrc j = m.getTrc j := rfl
@[simp] theorem Mach.getClu_modThdClu (m : Mach) (i j : Nat) (g : ThdClu → ThdClu) : (m.modThdClu i g).getClu j = m.getClu j := rfl
@[simp] theorem Mach.getCore_modThdClu (m : Mach) (i j : Nat) (g : ThdClu → ThdClu) : (m.modThdClu i g).getCore j = m.getCore j := rfl
@[simp] theorem Mach.getTrv_modThdClu (m : Mach) (i j : Nat) (g : ThdClu → ThdClu) : (m.modThdClu i g).getTrv j = m.getTrv j := rfl
@[simp] theorem Mach.getGth_modThdClu (m : Mach) (i j : Nat) (g : ThdClu → ThdClu) : (m.modThdClu i g).getGth j = m.getGth j := rfl
@[simp] theorem Mach.getSpr_modThdClu (m : Mach) (i j : Nat) (g : ThdClu → ThdClu) : (m.modThdClu i g).getSpr j = m.getSpr j := rfl
@[simp] theorem Mach.getNtm_modThdClu (m : Mach) (i j : Nat) (g : ThdClu → ThdClu) : (m.modThdClu i g).getNtm j = m.getNtm j := rfl
@[simp] theorem Mach.getChan_modThdClu (m : Mach) (i j : Nat) (g : ThdClu → ThdClu) : (m.modThdClu i g).getChan j = m.getChan j := rfl
@[simp] theorem Mach.getUpd_modThdClu (m : Mach) (i j : Nat) (g : ThdClu → ThdClu) : (m.modThdClu i g).getUpd j = m.getUpd j := rfl
@[simp] theorem Mach.getPlnDom_modThdClu (m : Mach) (i j : Nat) (g : ThdClu → ThdClu) : (m.modThdClu i g).getPlnDom j = m.getPlnDom j := rfl
@[simp] theorem Mach.getLnk_modThdClu (m : Mach) (i j : Nat) (g : ThdClu → ThdClu) : (m.modThdClu i g).getLnk j = m.getLnk j := rfl
@[simp] theorem Mach.getRte_modThdClu (m : Mach) (i j : Nat) (g : ThdClu → ThdClu) : (m.modThdClu i g).getRte j = m.getRte j := rfl
@[simp] theorem Mach.getDom_modThdClu (m : Mach) (i j : Nat) (g : ThdClu → ThdClu) : (m.modThdClu i g).getDom j = m.getDom j := rfl
@[simp] theorem Mach.getCtx_modThdClu (m : Mach) (i j : Nat) (g : ThdClu → ThdClu) : (m.modThdClu i g).getCtx j = m.getCtx j := rfl
@[simp] theorem Mach.getSvc_modThdClu (m : Mach) (i j : Nat) (g : ThdClu → ThdClu) : (m.modThdClu i g).getSvc j = m.getSvc j := rfl
@[simp] theorem Mach.getThdDom_modThdClu (m : Mach) (i j : Nat) (g : ThdClu → ThdClu) : (m.modThdClu i g).getThdDom j = m.getThdDom j := rfl
@[simp] theorem Mach.job?_modThdClu (m : Mach) (i j : Nat) (g : ThdClu → ThdClu) : (m.modThdClu i g).job? j = m.job? j := rfl
@[simp] theorem Mach.self_modThdClu (m : Mach) (i : Nat) (g : ThdClu → ThdClu) : (m.modThdClu i g).self = m.self := rfl
@[simp] theorem Mach.serial_modThdClu (m : Mach) (i : Nat) (g : ThdClu → ThdClu) : (m.modThdClu i g).serial = m.serial := rfl
@[simp] theorem Mach.fence_modThdClu (m : Mach) (i : Nat) (g : ThdClu → ThdClu) : (m.modThdClu i g).fence = m.fence := rfl
@[simp] theorem Mach.hdrs_modThdClu (m : Mach) (i : Nat) (g : ThdClu → ThdClu) : (m.modThdClu i g).hdrs = m.hdrs := rfl
@[simp] theorem Mach.trc_modThdClu (m : Mach) (i : Nat) (g : ThdClu → ThdClu) : (m.modThdClu i g).trc = m.trc := rfl
@[simp] theorem Mach.clu_modThdClu (m : Mach) (i : Nat) (g : ThdClu → ThdClu) : (m.modThdClu i g).clu = m.clu := rfl
@[simp] theorem Mach.cores_modThdClu (m : Mach) (i : Nat) (g : ThdClu → ThdClu) : (m.modThdClu i g).cores = m.cores := rfl
@[simp] theorem Mach.trv_modThdClu (m : Mach) (i : Nat) (g : ThdClu → ThdClu) : (m.modThdClu i g).trv = m.trv := rfl
@[simp] theorem Mach.gth_modThdClu (m : Mach) (i : Nat) (g : ThdClu → ThdClu) : (m.modThdClu i g).gth = m.gth := rfl
@[simp] theorem Mach.spr_modThdClu (m : Mach) (i : Nat) (g : ThdClu → ThdClu) : (m.modThdClu i g).spr = m.spr := rfl
@[simp] theorem Mach.ntm_modThdClu (m : Mach) (i : Nat) (g : ThdClu → ThdClu) : (m.modThdClu i g).ntm = m.ntm := rfl
@[simp] theorem Mach.chan_modThdClu (m : Mach) (i : Nat) (g : ThdClu → ThdClu) : (m.modThdClu i g).chan = m.chan := rfl
@[simp] theorem Mach.mem_modThdClu (m : Mach) (i : Nat) (g : ThdClu → ThdClu) : (m.modThdClu i g).mem = m.mem := rfl
@[simp] theorem Mach.granErr_modThdClu (m : Mach) (i : Nat) (g : ThdClu → ThdClu) : (m.modThdClu i g).granErr = m.granErr := rfl
@[simp] theorem Mach.lastHeld_modThdClu (m : Mach) (i : Nat) (g : ThdClu → ThdClu) : (m.modThdClu i g).lastHeld = m.lastHeld := rfl
@[simp] theorem Mach.upd_modThdClu (m : Mach) (i : Nat) (g : ThdClu → ThdClu) : (m.modThdClu i g).upd = m.upd := rfl
@[simp] theorem Mach.cmt_modThdClu (m : Mach) (i : Nat) (g : ThdClu → ThdClu) : (m.modThdClu i g).cmt = m.cmt := rfl
@[simp] theorem Mach.pln_modThdClu (m : Mach) (i : Nat) (g : ThdClu → ThdClu) : (m.modThdClu i g).pln = m.pln := rfl
@[simp] theorem Mach.plnDom_modThdClu (m : Mach) (i : Nat) (g : ThdClu → ThdClu) : (m.modThdClu i g).plnDom = m.plnDom := rfl
@[simp] theorem Mach.lnk_modThdClu (m : Mach) (i : Nat) (g : ThdClu → ThdClu) : (m.modThdClu i g).lnk = m.lnk := rfl
@[simp] theorem Mach.rte_modThdClu (m : Mach) (i : Nat) (g : ThdClu → ThdClu) : (m.modThdClu i g).rte = m.rte := rfl
@[simp] theorem Mach.time_modThdClu (m : Mach) (i : Nat) (g : ThdClu → ThdClu) : (m.modThdClu i g).time = m.time := rfl
@[simp] theorem Mach.arrived_modThdClu (m : Mach) (i : Nat) (g : ThdClu → ThdClu) : (m.modThdClu i g).arrived = m.arrived := rfl
@[simp] theorem Mach.inbox_modThdClu (m : Mach) (i : Nat) (g : ThdClu → ThdClu) : (m.modThdClu i g).inbox = m.inbox := rfl
@[simp] theorem Mach.flowSeq_modThdClu (m : Mach) (i : Nat) (g : ThdClu → ThdClu) : (m.modThdClu i g).flowSeq = m.flowSeq := rfl
@[simp] theorem Mach.filters_modThdClu (m : Mach) (i : Nat) (g : ThdClu → ThdClu) : (m.modThdClu i g).filters = m.filters := rfl
@[simp] theorem Mach.fetches_modThdClu (m : Mach) (i : Nat) (g : ThdClu → ThdClu) : (m.modThdClu i g).fetches = m.fetches := rfl
@[simp] theorem Mach.posted_modThdClu (m : Mach) (i : Nat) (g : ThdClu → ThdClu) : (m.modThdClu i g).posted = m.posted := rfl
@[simp] theorem Mach.handles_modThdClu (m : Mach) (i : Nat) (g : ThdClu → ThdClu) : (m.modThdClu i g).handles = m.handles := rfl
@[simp] theorem Mach.regOut_modThdClu (m : Mach) (i : Nat) (g : ThdClu → ThdClu) : (m.modThdClu i g).regOut = m.regOut := rfl
@[simp] theorem Mach.regIn_modThdClu (m : Mach) (i : Nat) (g : ThdClu → ThdClu) : (m.modThdClu i g).regIn = m.regIn := rfl
@[simp] theorem Mach.lastRead_modThdClu (m : Mach) (i : Nat) (g : ThdClu → ThdClu) : (m.modThdClu i g).lastRead = m.lastRead := rfl
@[simp] theorem Mach.dom_modThdClu (m : Mach) (i : Nat) (g : ThdClu → ThdClu) : (m.modThdClu i g).dom = m.dom := rfl
@[simp] theorem Mach.ctx_modThdClu (m : Mach) (i : Nat) (g : ThdClu → ThdClu) : (m.modThdClu i g).ctx = m.ctx := rfl
@[simp] theorem Mach.svc_modThdClu (m : Mach) (i : Nat) (g : ThdClu → ThdClu) : (m.modThdClu i g).svc = m.svc := rfl
@[simp] theorem Mach.apc_modThdClu (m : Mach) (i : Nat) (g : ThdClu → ThdClu) : (m.modThdClu i g).apc = m.apc := rfl
@[simp] theorem Mach.rng_modThdClu (m : Mach) (i : Nat) (g : ThdClu → ThdClu) : (m.modThdClu i g).rng = m.rng := rfl
@[simp] theorem Mach.flt_modThdClu (m : Mach) (i : Nat) (g : ThdClu → ThdClu) : (m.modThdClu i g).flt = m.flt := rfl
@[simp] theorem Mach.mgt_modThdClu (m : Mach) (i : Nat) (g : ThdClu → ThdClu) : (m.modThdClu i g).mgt = m.mgt := rfl
@[simp] theorem Mach.pwr_modThdClu (m : Mach) (i : Nat) (g : ThdClu → ThdClu) : (m.modThdClu i g).pwr = m.pwr := rfl
@[simp] theorem Mach.rst_modThdClu (m : Mach) (i : Nat) (g : ThdClu → ThdClu) : (m.modThdClu i g).rst = m.rst := rfl
@[simp] theorem Mach.thdSel_modThdClu (m : Mach) (i : Nat) (g : ThdClu → ThdClu) : (m.modThdClu i g).thdSel = m.thdSel := rfl
@[simp] theorem Mach.thdDom_modThdClu (m : Mach) (i : Nat) (g : ThdClu → ThdClu) : (m.modThdClu i g).thdDom = m.thdDom := rfl
@[simp] theorem Mach.pins_modThdClu (m : Mach) (i : Nat) (g : ThdClu → ThdClu) : (m.modThdClu i g).pins = m.pins := rfl

/-! ## setJob and onMach -/

@[simp] theorem Mach.job?_setJob (m : Mach) (i : Nat) (j : Option Job) : (m.setJob i j).job? i = j := by
  simp [Mach.job?, Mach.setJob]
theorem Mach.job?_setJob_of_ne (m : Mach) {i k : Nat} (j : Option Job) (h : i ≠ k) : (m.setJob i j).job? k = m.job? k := by
  simp [Mach.job?, Mach.setJob, Tab.get_put_of_ne _ _ _ h]
@[simp] theorem Mach.getHdr_setJob (m : Mach) (i k : Nat) (j : Option Job) : (m.setJob i j).getHdr k = m.getHdr k := rfl
@[simp] theorem Mach.getTrc_setJob (m : Mach) (i k : Nat) (j : Option Job) : (m.setJob i j).getTrc k = m.getTrc k := rfl
@[simp] theorem Mach.getClu_setJob (m : Mach) (i k : Nat) (j : Option Job) : (m.setJob i j).getClu k = m.getClu k := rfl
@[simp] theorem Mach.getCore_setJob (m : Mach) (i k : Nat) (j : Option Job) : (m.setJob i j).getCore k = m.getCore k := rfl
@[simp] theorem Mach.getTrv_setJob (m : Mach) (i k : Nat) (j : Option Job) : (m.setJob i j).getTrv k = m.getTrv k := rfl
@[simp] theorem Mach.getGth_setJob (m : Mach) (i k : Nat) (j : Option Job) : (m.setJob i j).getGth k = m.getGth k := rfl
@[simp] theorem Mach.getSpr_setJob (m : Mach) (i k : Nat) (j : Option Job) : (m.setJob i j).getSpr k = m.getSpr k := rfl
@[simp] theorem Mach.getNtm_setJob (m : Mach) (i k : Nat) (j : Option Job) : (m.setJob i j).getNtm k = m.getNtm k := rfl
@[simp] theorem Mach.getChan_setJob (m : Mach) (i k : Nat) (j : Option Job) : (m.setJob i j).getChan k = m.getChan k := rfl
@[simp] theorem Mach.getUpd_setJob (m : Mach) (i k : Nat) (j : Option Job) : (m.setJob i j).getUpd k = m.getUpd k := rfl
@[simp] theorem Mach.getPlnDom_setJob (m : Mach) (i k : Nat) (j : Option Job) : (m.setJob i j).getPlnDom k = m.getPlnDom k := rfl
@[simp] theorem Mach.getLnk_setJob (m : Mach) (i k : Nat) (j : Option Job) : (m.setJob i j).getLnk k = m.getLnk k := rfl
@[simp] theorem Mach.getRte_setJob (m : Mach) (i k : Nat) (j : Option Job) : (m.setJob i j).getRte k = m.getRte k := rfl
@[simp] theorem Mach.getDom_setJob (m : Mach) (i k : Nat) (j : Option Job) : (m.setJob i j).getDom k = m.getDom k := rfl
@[simp] theorem Mach.getCtx_setJob (m : Mach) (i k : Nat) (j : Option Job) : (m.setJob i j).getCtx k = m.getCtx k := rfl
@[simp] theorem Mach.getSvc_setJob (m : Mach) (i k : Nat) (j : Option Job) : (m.setJob i j).getSvc k = m.getSvc k := rfl
@[simp] theorem Mach.getThdDom_setJob (m : Mach) (i k : Nat) (j : Option Job) : (m.setJob i j).getThdDom k = m.getThdDom k := rfl
@[simp] theorem Mach.getThdClu_setJob (m : Mach) (i k : Nat) (j : Option Job) : (m.setJob i j).getThdClu k = m.getThdClu k := rfl
@[simp] theorem Mach.self_setJob (m : Mach) (i : Nat) (j : Option Job) : (m.setJob i j).self = m.self := rfl
@[simp] theorem Mach.serial_setJob (m : Mach) (i : Nat) (j : Option Job) : (m.setJob i j).serial = m.serial := rfl
@[simp] theorem Mach.fence_setJob (m : Mach) (i : Nat) (j : Option Job) : (m.setJob i j).fence = m.fence := rfl
@[simp] theorem Mach.hdrs_setJob (m : Mach) (i : Nat) (j : Option Job) : (m.setJob i j).hdrs = m.hdrs := rfl
@[simp] theorem Mach.trc_setJob (m : Mach) (i : Nat) (j : Option Job) : (m.setJob i j).trc = m.trc := rfl
@[simp] theorem Mach.clu_setJob (m : Mach) (i : Nat) (j : Option Job) : (m.setJob i j).clu = m.clu := rfl
@[simp] theorem Mach.cores_setJob (m : Mach) (i : Nat) (j : Option Job) : (m.setJob i j).cores = m.cores := rfl
@[simp] theorem Mach.trv_setJob (m : Mach) (i : Nat) (j : Option Job) : (m.setJob i j).trv = m.trv := rfl
@[simp] theorem Mach.gth_setJob (m : Mach) (i : Nat) (j : Option Job) : (m.setJob i j).gth = m.gth := rfl
@[simp] theorem Mach.spr_setJob (m : Mach) (i : Nat) (j : Option Job) : (m.setJob i j).spr = m.spr := rfl
@[simp] theorem Mach.ntm_setJob (m : Mach) (i : Nat) (j : Option Job) : (m.setJob i j).ntm = m.ntm := rfl
@[simp] theorem Mach.chan_setJob (m : Mach) (i : Nat) (j : Option Job) : (m.setJob i j).chan = m.chan := rfl
@[simp] theorem Mach.mem_setJob (m : Mach) (i : Nat) (j : Option Job) : (m.setJob i j).mem = m.mem := rfl
@[simp] theorem Mach.granErr_setJob (m : Mach) (i : Nat) (j : Option Job) : (m.setJob i j).granErr = m.granErr := rfl
@[simp] theorem Mach.lastHeld_setJob (m : Mach) (i : Nat) (j : Option Job) : (m.setJob i j).lastHeld = m.lastHeld := rfl
@[simp] theorem Mach.upd_setJob (m : Mach) (i : Nat) (j : Option Job) : (m.setJob i j).upd = m.upd := rfl
@[simp] theorem Mach.pln_setJob (m : Mach) (i : Nat) (j : Option Job) : (m.setJob i j).pln = m.pln := rfl
@[simp] theorem Mach.plnDom_setJob (m : Mach) (i : Nat) (j : Option Job) : (m.setJob i j).plnDom = m.plnDom := rfl
@[simp] theorem Mach.lnk_setJob (m : Mach) (i : Nat) (j : Option Job) : (m.setJob i j).lnk = m.lnk := rfl
@[simp] theorem Mach.rte_setJob (m : Mach) (i : Nat) (j : Option Job) : (m.setJob i j).rte = m.rte := rfl
@[simp] theorem Mach.time_setJob (m : Mach) (i : Nat) (j : Option Job) : (m.setJob i j).time = m.time := rfl
@[simp] theorem Mach.arrived_setJob (m : Mach) (i : Nat) (j : Option Job) : (m.setJob i j).arrived = m.arrived := rfl
@[simp] theorem Mach.inbox_setJob (m : Mach) (i : Nat) (j : Option Job) : (m.setJob i j).inbox = m.inbox := rfl
@[simp] theorem Mach.flowSeq_setJob (m : Mach) (i : Nat) (j : Option Job) : (m.setJob i j).flowSeq = m.flowSeq := rfl
@[simp] theorem Mach.filters_setJob (m : Mach) (i : Nat) (j : Option Job) : (m.setJob i j).filters = m.filters := rfl
@[simp] theorem Mach.fetches_setJob (m : Mach) (i : Nat) (j : Option Job) : (m.setJob i j).fetches = m.fetches := rfl
@[simp] theorem Mach.posted_setJob (m : Mach) (i : Nat) (j : Option Job) : (m.setJob i j).posted = m.posted := rfl
@[simp] theorem Mach.handles_setJob (m : Mach) (i : Nat) (j : Option Job) : (m.setJob i j).handles = m.handles := rfl
@[simp] theorem Mach.regOut_setJob (m : Mach) (i : Nat) (j : Option Job) : (m.setJob i j).regOut = m.regOut := rfl
@[simp] theorem Mach.regIn_setJob (m : Mach) (i : Nat) (j : Option Job) : (m.setJob i j).regIn = m.regIn := rfl
@[simp] theorem Mach.lastRead_setJob (m : Mach) (i : Nat) (j : Option Job) : (m.setJob i j).lastRead = m.lastRead := rfl
@[simp] theorem Mach.dom_setJob (m : Mach) (i : Nat) (j : Option Job) : (m.setJob i j).dom = m.dom := rfl
@[simp] theorem Mach.ctx_setJob (m : Mach) (i : Nat) (j : Option Job) : (m.setJob i j).ctx = m.ctx := rfl
@[simp] theorem Mach.svc_setJob (m : Mach) (i : Nat) (j : Option Job) : (m.setJob i j).svc = m.svc := rfl
@[simp] theorem Mach.apc_setJob (m : Mach) (i : Nat) (j : Option Job) : (m.setJob i j).apc = m.apc := rfl
@[simp] theorem Mach.rng_setJob (m : Mach) (i : Nat) (j : Option Job) : (m.setJob i j).rng = m.rng := rfl
@[simp] theorem Mach.flt_setJob (m : Mach) (i : Nat) (j : Option Job) : (m.setJob i j).flt = m.flt := rfl
@[simp] theorem Mach.mgt_setJob (m : Mach) (i : Nat) (j : Option Job) : (m.setJob i j).mgt = m.mgt := rfl
@[simp] theorem Mach.pwr_setJob (m : Mach) (i : Nat) (j : Option Job) : (m.setJob i j).pwr = m.pwr := rfl
@[simp] theorem Mach.rst_setJob (m : Mach) (i : Nat) (j : Option Job) : (m.setJob i j).rst = m.rst := rfl
@[simp] theorem Mach.thdSel_setJob (m : Mach) (i : Nat) (j : Option Job) : (m.setJob i j).thdSel = m.thdSel := rfl
@[simp] theorem Mach.thdDom_setJob (m : Mach) (i : Nat) (j : Option Job) : (m.setJob i j).thdDom = m.thdDom := rfl
@[simp] theorem Mach.thdClu_setJob (m : Mach) (i : Nat) (j : Option Job) : (m.setJob i j).thdClu = m.thdClu := rfl
@[simp] theorem Mach.pins_setJob (m : Mach) (i : Nat) (j : Option Job) : (m.setJob i j).pins = m.pins := rfl

/-- Changing a job changes its slot. -/
theorem Mach.job?_modJob (m : Mach) (i : Nat) (g : Job → Job) : (m.modJob i g).job? i = (m.job? i).map g := by
  unfold Mach.modJob
  cases h : m.job? i with
  | none => simp [h]
  | some j => simp

@[simp] theorem State.mach_onMach (s : State) (g : Mach → Mach) : (s.onMach g).mach = g s.mach := rfl
@[simp] theorem State.pending_onMach (s : State) (g : Mach → Mach) : (s.onMach g).pending = s.pending := rfl

end Sys2Proof.Machine
end

