-- ==== Sys2Proof/Laws/Core.lean ====
section
/-!
SUPPORT. What the shared operations of core instructions do: reading and writing registers, issuing, and going on behind an
instruction (R174 to R178, R183, R196).
-/
namespace Sys2Proof.Machine

/-! ## Registers -/

/-- Reading a scalar register after a write: s0 stays zero, the register written holds the value, the others stand. -/
theorem CoreSt.sreg_setS (c : CoreSt) (a i : Nat) (v : BitVec 64) :
    (c.setS a v).sreg i = if i % 32 = a % 32 ∧ a % 32 ≠ 0 then v else c.sreg i := by
  unfold CoreSt.setS CoreSt.sreg
  by_cases ha : a % 32 = 0
  · simp [ha]
  · by_cases hi : i % 32 = 0
    · simp [ha, hi]; intro h; omega
    · by_cases h : i % 32 = a % 32
      · simp [ha, h]
      · simp [ha, hi, h, Tab.get_put, Ne.symm h]

/-- s0 reads as zero. -/
@[simp] theorem CoreSt.sreg_zero (c : CoreSt) : c.sreg 0 = 0 := by simp [CoreSt.sreg]
/-- p0 reads as 1. -/
@[simp] theorem CoreSt.pred_zero (c : CoreSt) : c.pred 0 = true := by simp [CoreSt.pred]

theorem CoreSt.setS_eq (c : CoreSt) (a : Nat) (v : BitVec 64) : c.setS a v = { c with s := (c.setS a v).s } := by
  unfold CoreSt.setS; split <;> rfl
theorem CoreSt.setP_eq (c : CoreSt) (a : Nat) (b : Bool) : c.setP a b = { c with p := (c.setP a b).p } := by
  unfold CoreSt.setP; split
  · rfl
  · split <;> rfl

/-- Reading a predicate after a write: p0 stays 1, the predicate written holds the bit, the others stand. -/
theorem CoreSt.pred_setP (c : CoreSt) (a i : Nat) (b : Bool) :
    (c.setP a b).pred i = if i % 8 = a % 8 ∧ a % 8 ≠ 0 then b else c.pred i := by
  have hi : i % 8 < 8 := Nat.mod_lt _ (by decide)
  unfold CoreSt.setP CoreSt.pred
  by_cases ha : a % 8 = 0
  · simp [ha]
  · by_cases h0 : i % 8 = 0
    · have hne : ¬ 0 = a % 8 := fun h => ha h.symm
      simp [h0, hne]
    · have bit (n : Nat) (hn : n < 8) : (BitVec.ofNat 8 (2 ^ (a % 8))).getLsbD n = decide (a % 8 = n) := by
        rw [BitVec.getLsbD_ofNat, Nat.testBit_two_pow, decide_eq_true hn, Bool.true_and]
      have put : (if a % 8 = 0 then c
          else if b then { c with p := c.p ||| BitVec.ofNat 8 (2 ^ (a % 8)) }
          else { c with p := c.p &&& ~~~ BitVec.ofNat 8 (2 ^ (a % 8)) }).p.getLsbD (i % 8)
          = if a % 8 = i % 8 then b else c.p.getLsbD (i % 8) := by
        rw [if_neg ha]
        cases b
        · rw [if_neg Bool.false_ne_true]
          show (c.p &&& ~~~ BitVec.ofNat 8 (2 ^ (a % 8))).getLsbD (i % 8) = _
          rw [BitVec.getLsbD_and, BitVec.getLsbD_not, bit _ hi, decide_eq_true hi]
          by_cases h : a % 8 = i % 8
          · rw [if_pos h, decide_eq_true h]; cases c.p.getLsbD (i % 8) <;> rfl
          · rw [if_neg h, decide_eq_false h]; cases c.p.getLsbD (i % 8) <;> rfl
        · rw [if_pos rfl]
          show (c.p ||| BitVec.ofNat 8 (2 ^ (a % 8))).getLsbD (i % 8) = _
          rw [BitVec.getLsbD_or, bit _ hi]
          by_cases h : a % 8 = i % 8
          · rw [if_pos h, decide_eq_true h]; cases c.p.getLsbD (i % 8) <;> rfl
          · rw [if_neg h, decide_eq_false h]; cases c.p.getLsbD (i % 8) <;> rfl
      simp only [h0, if_false]
      rw [put]
      by_cases h : a % 8 = i % 8
      · rw [if_pos h, if_pos (⟨h.symm, ha⟩ : i % 8 = a % 8 ∧ a % 8 ≠ 0)]
      · rw [if_neg h, if_neg fun e : i % 8 = a % 8 ∧ a % 8 ≠ 0 => h e.1.symm]

/-! ## Issue -/

/-- Nothing stalls an instruction where no routed TMMA is outstanding. -/
theorem Mach.hazard_of_none (m : Mach) (q : Nat) (u : Uses) (h : (m.getSpr (q / 16)).routed = []) :
    m.hazard q u = false := by
  simp [Mach.hazard, h]

/-- An instruction that issues has its effect. -/
theorem Mach.issue_of_issues {m : Mach} {q : Nat} {f : CoreFields} {cls op : Nat} (u : Uses) (eff : Mach → Mach)
    (h : Issues m q f cls op) : m.issue q f cls op u eff = eff m := by
  obtain ⟨h1, h2, h3⟩ := h
  unfold Mach.issue
  simp [h1, h2, m.hazard_of_none q u h3]

/-- Where the core does not stand at the word, nothing happens. -/
theorem Mach.issue_of_not_standsAt {m : Mach} {q : Nat} {f : CoreFields} {cls op : Nat} (u : Uses) (eff : Mach → Mach)
    (h : m.standsAt q (f.word cls op) = false) : m.issue q f cls op u eff = m := by
  unfold Mach.issue
  simp [h]

/-- An instruction whose predicate is not met is passed over (R177). -/
theorem Mach.issue_of_skipped {m : Mach} {q : Nat} {f : CoreFields} {cls op : Nat} (u : Uses) (eff : Mach → Mach)
    (h : m.standsAt q (f.word cls op) = true) (p : (m.getCore q).pred f.pred = f.pneg) :
    m.issue q f cls op u eff = m.advance q := by
  unfold Mach.issue
  simp [h, p]

/-! ## Going on behind an instruction -/

/-- A core after an instruction that does not branch. -/
def CoreSt.goOn (c : CoreSt) (now : Nat) : CoreSt :=
  let d := ({ c with run := .running } : CoreSt).fallTo (c.pc.toNat + 1) now
  { d with retired := d.retired + 1 }

theorem CoreSt.goesOn_goOn (c : CoreSt) (now : Nat) : GoesOn c (c.goOn now) := by
  unfold GoesOn CoreSt.goOn CoreSt.fallTo
  dsimp only
  split <;> rfl

@[simp] theorem CoreSt.s_goOn (c : CoreSt) (now : Nat) : (c.goOn now).s = c.s := by
  rw [CoreSt.goesOn_goOn c now]
@[simp] theorem CoreSt.p_goOn (c : CoreSt) (now : Nat) : (c.goOn now).p = c.p := by
  rw [CoreSt.goesOn_goOn c now]
@[simp] theorem CoreSt.ibuf_goOn (c : CoreSt) (now : Nat) : (c.goOn now).ibuf = c.ibuf := by
  rw [CoreSt.goesOn_goOn c now]
@[simp] theorem CoreSt.bind_goOn (c : CoreSt) (now : Nat) : (c.goOn now).bind = c.bind := by
  rw [CoreSt.goesOn_goOn c now]
@[simp] theorem CoreSt.progId_goOn (c : CoreSt) (now : Nat) : (c.goOn now).progId = c.progId := by
  rw [CoreSt.goesOn_goOn c now]
@[simp] theorem CoreSt.phase_goOn (c : CoreSt) (now : Nat) : (c.goOn now).phase = c.phase := by
  rw [CoreSt.goesOn_goOn c now]
@[simp] theorem CoreSt.step_goOn (c : CoreSt) (now : Nat) : (c.goOn now).step = c.step := by
  rw [CoreSt.goesOn_goOn c now]
@[simp] theorem CoreSt.waitCounter_goOn (c : CoreSt) (now : Nat) : (c.goOn now).waitCounter = c.waitCounter := by
  rw [CoreSt.goesOn_goOn c now]
@[simp] theorem CoreSt.waitTarget_goOn (c : CoreSt) (now : Nat) : (c.goOn now).waitTarget = c.waitTarget := by
  rw [CoreSt.goesOn_goOn c now]
@[simp] theorem CoreSt.draining_goOn (c : CoreSt) (now : Nat) : (c.goOn now).draining = c.draining := by
  rw [CoreSt.goesOn_goOn c now]
@[simp] theorem CoreSt.stalls_goOn (c : CoreSt) (now : Nat) : (c.goOn now).stalls = c.stalls := by
  rw [CoreSt.goesOn_goOn c now]
@[simp] theorem CoreSt.waits_goOn (c : CoreSt) (now : Nat) : (c.goOn now).waits = c.waits := by
  rw [CoreSt.goesOn_goOn c now]
@[simp] theorem CoreSt.amax_goOn (c : CoreSt) (now : Nat) : (c.goOn now).amax = c.amax := by
  rw [CoreSt.goesOn_goOn c now]
@[simp] theorem CoreSt.dmaPc_goOn (c : CoreSt) (now : Nat) : (c.goOn now).dmaPc = c.dmaPc := by
  rw [CoreSt.goesOn_goOn c now]
@[simp] theorem CoreSt.dmaReason_goOn (c : CoreSt) (now : Nat) : (c.goOn now).dmaReason = c.dmaReason := by
  rw [CoreSt.goesOn_goOn c now]
@[simp] theorem CoreSt.t_goOn (c : CoreSt) (now : Nat) : (c.goOn now).t = c.t := by
  rw [CoreSt.goesOn_goOn c now]
@[simp] theorem CoreSt.a0_goOn (c : CoreSt) (now : Nat) : (c.goOn now).a0 = c.a0 := by
  rw [CoreSt.goesOn_goOn c now]
@[simp] theorem CoreSt.a1_goOn (c : CoreSt) (now : Nat) : (c.goOn now).a1 = c.a1 := by
  rw [CoreSt.goesOn_goOn c now]
@[simp] theorem CoreSt.v_goOn (c : CoreSt) (now : Nat) : (c.goOn now).v = c.v := by
  rw [CoreSt.goesOn_goOn c now]
@[simp] theorem CoreSt.m_goOn (c : CoreSt) (now : Nat) : (c.goOn now).m = c.m := by
  rw [CoreSt.goesOn_goOn c now]
@[simp] theorem CoreSt.carry_goOn (c : CoreSt) (now : Nat) : (c.goOn now).carry = c.carry := by
  rw [CoreSt.goesOn_goOn c now]
@[simp] theorem CoreSt.carryOpen_goOn (c : CoreSt) (now : Nat) : (c.goOn now).carryOpen = c.carryOpen := by
  rw [CoreSt.goesOn_goOn c now]
@[simp] theorem CoreSt.mulOrd_goOn (c : CoreSt) (now : Nat) : (c.goOn now).mulOrd = c.mulOrd := by
  rw [CoreSt.goesOn_goOn c now]
@[simp] theorem CoreSt.xfers_goOn (c : CoreSt) (now : Nat) : (c.goOn now).xfers = c.xfers := by
  rw [CoreSt.goesOn_goOn c now]
@[simp] theorem CoreSt.xferOrd_goOn (c : CoreSt) (now : Nat) : (c.goOn now).xferOrd = c.xferOrd := by
  rw [CoreSt.goesOn_goOn c now]
@[simp] theorem CoreSt.held_goOn (c : CoreSt) (now : Nat) : (c.goOn now).held = c.held := by
  rw [CoreSt.goesOn_goOn c now]
theorem CoreSt.sreg_goOn (c : CoreSt) (now i : Nat) : (c.goOn now).sreg i = c.sreg i := by simp [CoreSt.sreg]
theorem CoreSt.pred_goOn (c : CoreSt) (now i : Nat) : (c.goOn now).pred i = c.pred i := by simp [CoreSt.pred]

/-- Outside every loop body that ends here, execution goes on at the next instruction, where there is one (R175). -/
theorem CoreSt.goOn_next (c : CoreSt) (now : Nat) (hl : c.loops = []) (hn : c.pc.toNat + 1 < c.ibuf.length) :
    c.goOn now = { c with run := .running, pc := BitVec.ofNat 11 (c.pc.toNat + 1), retired := c.retired + 1 } := by
  unfold CoreSt.goOn CoreSt.fallTo
  have h : ¬ c.ibuf.length ≤ c.pc.toNat + 1 := by omega
  simp [hl, settle, h]

theorem Mach.thd_eq (m : Mach) (k : Nat) (c : Option Nat) (e n : Nat) :
    m.thd k c e n = { m with thdClu := (m.thd k c e n).thdClu } := by
  unfold Mach.thd; dsimp only; split <;> rfl
@[simp] theorem Mach.getCore_thd (m : Mach) (k : Nat) (c : Option Nat) (e n r : Nat) :
    (m.thd k c e n).getCore r = m.getCore r := by
  unfold Mach.thd; dsimp only; split <;> rfl

theorem Mach.getCore_advance (m : Mach) (q : Nat) : (m.advance q).getCore q = (m.getCore q).goOn m.now := by
  unfold Mach.advance Mach.retire
  rw [Mach.getCore_thd, Mach.getCore_modCore, Mach.getCore_modCore]
  rfl

theorem Mach.getCore_advance_of_ne (m : Mach) {q r : Nat} (h : r ≠ q) : (m.advance q).getCore r = m.getCore r := by
  unfold Mach.advance Mach.retire
  rw [Mach.getCore_thd, Mach.getCore_modCore_of_ne _ _ h.symm, Mach.getCore_modCore_of_ne _ _ h.symm]

theorem Mach.advance_eq (m : Mach) (q : Nat) :
    m.advance q = { m with cores := (m.advance q).cores, thdClu := (m.advance q).thdClu } := by
  unfold Mach.advance Mach.retire
  rw [Mach.thd_eq]
  rfl

/-- Everything an instruction that changes only its core does. -/
theorem Mach.simple_spec (m : Mach) (q : Nat) (g : CoreSt → CoreSt) :
    (m.simple q g).getCore q = (g (m.getCore q)).goOn m.now ∧ CoreOnly m (m.simple q g) q := by
  unfold Mach.simple
  refine ⟨?_, ?_, ?_⟩
  · rw [Mach.getCore_advance, Mach.getCore_modCore]; rfl
  · intro r h
    rw [Mach.getCore_advance_of_ne _ h, Mach.getCore_modCore_of_ne _ _ h.symm]
  · rw [Mach.advance_eq]; rfl

end Sys2Proof.Machine
end

