-- ==== Sys2Proof/Laws/Events.lean ====
section
/-!
SUPPORT. What counting an occurrence of an event does, said once: the page's header takes the occurrence, no other header
changes, and beside headers only raised interrupts and datagrams out can change (R40, R435, R436).
-/
namespace Sys2Proof.Machine

/-! ## Datagrams and notifications -/

/-- Sending a datagram changes the domain and the service port only. -/
theorem Mach.sendGram_eq (m : Mach) (d type ctx addr : Nat) (data : List Byte) (trace : Nat) :
    m.sendGram d type ctx addr data trace =
      { m with dom := (m.sendGram d type ctx addr data trace).dom, svc := (m.sendGram d type ctx addr data trace).svc } := by
  unfold Mach.sendGram
  dsimp only
  split
  · rfl
  · split
    · rfl
    · split <;> rfl

/-- Raising a notification changes raised interrupts, the domain and the service port only. -/
theorem Mach.notify_eq (m : Mach) (d core ident ctx : Nat) :
    m.notify d core ident ctx =
      { m with apc := (m.notify d core ident ctx).apc, dom := (m.notify d core ident ctx).dom,
               svc := (m.notify d core ident ctx).svc } := by
  unfold Mach.notify
  split
  · rfl
  · split
    · rfl
    · rfl
    · rw [Mach.sendGram_eq]

theorem Mach.notifyAll_eq (ds : List Nat) (m : Mach) (f : Mach → Nat → Nat × Nat × Nat) :
    ∃ a d v, ds.foldl (fun m i => m.notify i (f m i).1 (f m i).2.1 (f m i).2.2) m = { m with apc := a, dom := d, svc := v } := by
  induction ds generalizing m with
  | nil => exact ⟨m.apc, m.dom, m.svc, rfl⟩
  | cons i ds ih =>
    rw [List.foldl_cons, Mach.notify_eq]
    obtain ⟨a, d, v, h⟩ := ih { m with apc := (m.notify i (f m i).1 (f m i).2.1 (f m i).2.2).apc,
                                       dom := (m.notify i (f m i).1 (f m i).2.1 (f m i).2.2).dom,
                                       svc := (m.notify i (f m i).1 (f m i).2.1 (f m i).2.2).svc }
    exact ⟨a, d, v, h⟩

/-! ## Events -/

@[simp] theorem Hdr.occur_zero (h : Hdr) (e : Nat) : h.occur e 0 = h := rfl

/-- The bit of the event is set. -/
theorem Hdr.event_occur (h : Hdr) (e n : Nat) (hn : n ≠ 0) : (h.occur e n).event = h.event ||| BitVec.ofNat 8 (2 ^ e) := by
  simp [Hdr.occur, hn]
/-- The tally of the event has risen, saturating; no other has changed. -/
theorem Hdr.tally_occur (h : Hdr) (e n i : Nat) :
    Tab.get 0 (h.occur e n).tallies i =
      if i = e then BitVec.ofNat 32 (min ((Tab.get 0 h.tallies e).toNat + n) 0xFFFFFFFF) else Tab.get 0 h.tallies i := by
  unfold Hdr.occur
  split
  · rename_i hn
    subst hn
    split
    · rename_i h; subst h
      have := (Tab.get 0 h.tallies i).isLt
      apply BitVec.eq_of_toNat_eq
      simp [BitVec.toNat_ofNat]
      omega
    · rfl
  · split
    · rename_i h; subst h; simp
    · rename_i hi; simp [Tab.get_upd_of_ne _ _ _ (Ne.symm hi)]
/-- What else the header holds stands. -/
theorem Hdr.occur_rest (h : Hdr) (e n : Nat) :
    (h.occur e n).quiesce = h.quiesce ∧ (h.occur e n).enable = h.enable ∧ (h.occur e n).quiesced = h.quiesced ∧
      (h.occur e n).mask = h.mask := by
  unfold Hdr.occur; split <;> simp

@[simp] theorem Mach.event_zero (m : Mach) (ty i e : Nat) : m.event ty i e 0 = m := rfl

/-- Everything an occurrence of an event changes. -/
theorem Mach.event_spec (m : Mach) (ty i e n : Nat) (hn : n ≠ 0) :
    ∃ a d v, m.event ty i e n =
      { m.modHdr (hdrKey ty i) (fun h => h.occur e n) with apc := a, dom := d, svc := v } := by
  unfold Mach.event
  rw [if_neg hn]
  dsimp only
  split
  · exact Mach.notifyAll_eq _ _ (fun m d => ((m.getDom d).notifyCore.toNat, (m.getDom d).notifyId.toNat, 0))
  · exact ⟨_, _, _, rfl⟩

/-- An occurrence changes nothing but what counting changes. -/
theorem Mach.event_eq (m : Mach) (ty i e n : Nat) : m.event ty i e n = m.withReports (m.event ty i e n) := by
  by_cases hn : n = 0
  · subst hn; rfl
  · obtain ⟨a, d, v, h⟩ := m.event_spec ty i e n hn
    rw [h]; rfl

/-- The page's header takes the occurrence; every other header stands. -/
theorem Mach.getHdr_event (m : Mach) (ty i e n j : Nat) :
    (m.event ty i e n).getHdr j = if j = hdrKey ty i then (m.getHdr j).occur e n else m.getHdr j := by
  by_cases hn : n = 0
  · subst hn; split <;> rfl
  · obtain ⟨a, d, v, h⟩ := m.event_spec ty i e n hn
    rw [h]
    show (m.modHdr (hdrKey ty i) fun h => h.occur e n).getHdr j = _
    split
    · rename_i hj; subst hj; simp
    · rename_i hj; exact Mach.getHdr_modHdr_of_ne _ _ (Ne.symm hj)

/-- A chain of occurrences changes nothing but what counting changes. -/
theorem Mach.withReports_trans {m a b : Mach} (h1 : a = m.withReports a) (h2 : b = a.withReports b) : b = m.withReports b := by
  rw [h2, h1]; rfl

/-- The tallies of a conversion change nothing but what counting changes. -/
theorem Mach.tally_eq (m : Mach) (ty i : Nat) (t : Tal) : m.tally ty i t = m.withReports (m.tally ty i t) := by
  unfold Mach.tally
  exact Mach.withReports_trans (Mach.withReports_trans (Mach.withReports_trans (Mach.event_eq ..) (Mach.event_eq ..))
    (Mach.event_eq ..)) (Mach.event_eq ..)

/-- What the tallies of a conversion do to headers (R73). -/
theorem Mach.getHdr_tally (m : Mach) (ty i j : Nat) (t : Tal) :
    (m.tally ty i t).getHdr j = if j = hdrKey ty i then
      ((((m.getHdr j).occur 0 t.sat).occur 1 t.unf).occur 2 t.special).occur 3 t.hdr else m.getHdr j := by
  unfold Mach.tally
  simp only [Mach.getHdr_event]
  split <;> rfl

theorem Mach.cores_tally (m : Mach) (ty i : Nat) (t : Tal) : (m.tally ty i t).cores = m.cores := by rw [Mach.tally_eq]; rfl
@[simp] theorem Mach.getCore_tally (m : Mach) (ty i q : Nat) (t : Tal) : (m.tally ty i t).getCore q = m.getCore q := by
  unfold Mach.getCore; rw [Mach.cores_tally]
@[simp] theorem Mach.getCore_event (m : Mach) (ty i e n q : Nat) : (m.event ty i e n).getCore q = m.getCore q := by
  unfold Mach.getCore; rw [Mach.event_eq]; rfl
@[simp] theorem Mach.mem_event (m : Mach) (ty i e n : Nat) : (m.event ty i e n).mem = m.mem := by rw [Mach.event_eq]; rfl
@[simp] theorem Mach.mem_tally (m : Mach) (ty i : Nat) (t : Tal) : (m.tally ty i t).mem = m.mem := by rw [Mach.tally_eq]; rfl
@[simp] theorem Mach.now_event (m : Mach) (ty i e n : Nat) : (m.event ty i e n).now = m.now := by
  rw [Mach.event_eq]; rfl
@[simp] theorem Mach.now_tally (m : Mach) (ty i : Nat) (t : Tal) : (m.tally ty i t).now = m.now := by
  rw [Mach.tally_eq]; rfl

/-- An instruction that tallies, changes its core and goes on: everything it does. -/
theorem Mach.tally_simple_spec (m : Mach) (q : Nat) (t : Tal) (g : CoreSt → CoreSt) :
    ((m.tally tyCor q t).simple q g).getCore q = (g (m.getCore q)).goOn m.now ∧
      CoreTallies m ((m.tally tyCor q t).simple q g) q t := by
  obtain ⟨h1, h2, h3⟩ := Mach.simple_spec (m.tally tyCor q t) q g
  refine ⟨by rw [h1]; simp, ?_, ?_, ?_, ?_⟩
  · intro r hr; rw [h2 r hr]; simp
  · rw [h3]
    show (m.tally tyCor q t).getHdr _ = _
    rw [Mach.getHdr_tally, if_pos rfl]
  · intro k hk
    rw [h3]
    show (m.tally tyCor q t).getHdr _ = _
    rw [Mach.getHdr_tally, if_neg hk]
  · rw [h3, Mach.tally_eq]; rfl

end Sys2Proof.Machine
end

