-- ==== Sys2Proof/Laws/Memory.lean ====
section
/-!
SUPPORT. What the shared operations over memory do, said once: reading, writing, zeroing and adding, that each keeps the
canonical form, and the local store of a core (R174, R364, R374, R379, R380).
-/
namespace Sys2Proof.Machine

/-! ## Bytes -/

/-- Reading bytes of memory. -/
theorem Mach.peek_eq (m : Mach) (a n : Nat) : m.peek a n = (List.range n).map fun i => m.byteAt (a + i) :=
  Tab.getRange_eq 0 m.mem a n

@[simp] theorem Mach.length_peek (m : Mach) (a n : Nat) : (m.peek a n).length = n := by simp [Mach.peek_eq]

/-- A byte after bytes have been put. -/
theorem Mach.byteAt_poke (m : Mach) (a i : Nat) (bs : List Byte) (w : m.memWf) :
    (m.poke a bs).byteAt i = if a ≤ i ∧ i < a + bs.length then bs.getD (i - a) 0 else m.byteAt i :=
  Tab.get_putRange 0 m.mem a bs i w

/-- Putting bytes keeps the canonical form. -/
theorem Mach.memWf_poke (m : Mach) (a : Nat) (bs : List Byte) (w : m.memWf) : (m.poke a bs).memWf :=
  Tab.wf_putRange 0 m.mem a bs w

/-- A byte after a range has been zeroed. -/
theorem Mach.byteAt_zeroMem (m : Mach) (a n i : Nat) (w : m.memWf) :
    (m.zeroMem a n).byteAt i = if a ≤ i ∧ i < a + n then 0 else m.byteAt i :=
  Tab.get_clearRange 0 m.mem a n i w

/-- Zeroing keeps the canonical form. -/
theorem Mach.memWf_zeroMem (m : Mach) (a n : Nat) (w : m.memWf) : (m.zeroMem a n).memWf := Tab.wf_clearRange 0 m.mem a n w

/-- The form of memory depends on memory alone. -/
theorem Mach.memWf_congr {m m' : Mach} (h : m'.mem = m.mem) (w : m.memWf) : m'.memWf := by
  unfold Mach.memWf; rw [h]; exact w

/-! ## Counting accesses -/

/-- Counting one piece changes pages of memory dies and channels only. -/
theorem Mach.countPiece_eq (m : Mach) (a n : Nat) (u : MemUse) :
    m.countPiece a n u = { m with chan := (m.countPiece a n u).chan, ntm := (m.countPiece a n u).ntm } := by
  unfold Mach.countPiece
  cases tierOf a <;> rfl

theorem Mach.countSlow_eq (m : Mach) (a n : Nat) (u : MemUse) :
    m.countSlow a n u = { m with chan := (m.countSlow a n u).chan, ntm := (m.countSlow a n u).ntm } := by
  unfold Mach.countSlow
  split
  · rfl
  · generalize List.range _ = ls
    induction ls generalizing m with
    | nil => rfl
    | cons i ls ih => rw [List.foldl_cons, ih, Mach.countPiece_eq]

/-- Counting an access changes pages of memory dies and channels only. -/
theorem Mach.countMem_eq (m : Mach) (a n : Nat) (u : MemUse) :
    m.countMem a n u = { m with chan := (m.countMem a n u).chan, ntm := (m.countMem a n u).ntm } := by
  unfold Mach.countMem
  split
  · exact m.countSlow_eq a n u
  · exact m.countPiece_eq a n u

theorem Mach.thdGlobal_eq (m : Mach) (d ev n : Nat) : m.thdGlobal d ev n = { m with thdDom := (m.thdGlobal d ev n).thdDom } := by
  unfold Mach.thdGlobal; split <;> rfl

theorem Mach.thdBytes_eq (m : Mach) (d : Option Nat) (a n : Nat) :
    m.thdBytes d a n = { m with thdDom := (m.thdBytes d a n).thdDom } := by
  unfold Mach.thdBytes
  split
  · rw [Mach.thdGlobal_eq]
  · rw [Mach.thdGlobal_eq]
  · rfl

/-! ## Reads and writes where memory has no detection-code error -/

/-- Sound memory has no faulty granule. -/
theorem Mach.faulty_sound (m : Mach) (a n : Nat) (h : m.granErr = []) : m.faulty a n = [] := by simp [Mach.faulty, h]

/-- A read of sound memory delivers what stands there. -/
theorem Mach.delivers_sound (m : Mach) (a n : Nat) (h : m.granErr = []) : m.delivers a n = m.peek a n := by
  simp [Mach.delivers, m.faulty_sound a n h]

/-- A read of sound memory finds no failure and changes nothing. -/
theorem Mach.codeCheck_sound (m : Mach) (kind : DataKind) (a n : Nat) (h : m.granErr = []) : m.codeCheck kind a n = (m, false) := by
  simp [Mach.codeCheck, m.faulty_sound a n h, Mach.pageEvents]

/-- A write to sound memory has no granule to ready. -/
theorem Mach.readyWrite_sound (m : Mach) (kind : DataKind) (a n : Nat) (h : m.granErr = []) : m.readyWrite kind a n = (false, m) := by
  simp [Mach.readyWrite, m.faulty_sound a n h]

/-- What a read of sound memory answers, and that it only counts. -/
theorem Mach.readMem_sound (m : Mach) (dom : Option Nat) (kind : DataKind) (a n : Nat) (h : m.granErr = []) :
    m.readMem dom kind a n = (m.peek a n, false, (m.countMem a n .read).thdBytes dom a n) := by
  simp [Mach.readMem, m.codeCheck_sound kind a n h, m.delivers_sound a n h]

/-- What a write to sound memory does. -/
theorem Mach.writeMem_sound (m : Mach) (dom : Option Nat) (kind : DataKind) (a : Nat) (bs : List Byte) (h : m.granErr = []) :
    (m.writeMem dom kind a bs).1 = false ∧
      (m.writeMem dom kind a bs).2 =
        if bs = [] then m else ((m.poke a bs).countMem a bs.length .write).thdBytes dom a bs.length := by
  unfold Mach.writeMem
  cases bs <;> simp [m.readyWrite_sound kind a _ h]

/-! ## The local store of a core -/

theorem tierOf_store {q o : Nat} (hq : q < 10240) (ho : o < 2 ^ 15) : tierOf (storeBase q + o) = .store q o := by
  have ho' : o < 32768 := ho
  have e : storeBase q + o = 3298534883328 + q * 32768 + o := rfl
  generalize storeBase q + o = x at e
  unfold tierOf
  have h1 : ¬ x < 0x008000000000 := by omega
  have h2 : ¬ x < 0x010000000000 := by omega
  have h3 : ¬ x < 0x010000000000 + 8 * 2 ^ 31 := by omega
  have h4 : ¬ (0x020000000000 ≤ x ∧ x < 0x020000000000 + 640 * 2 ^ 20) := by omega
  have h5 : 0x030000000000 ≤ x ∧ x < 0x030000000000 + 10240 * 2 ^ 15 := by omega
  have h6 : (x - 0x030000000000) / 2 ^ 15 = q := by omega
  have h7 : (x - 0x030000000000) % 2 ^ 15 = o := by omega
  simp only [h1, h2, h3, h4, h5, if_false, and_self, if_true, h6, h7]

theorem Mach.countMem_store (m : Mach) {q o : Nat} (n : Nat) (u : MemUse) (hq : q < 10240) (ho : o < 2 ^ 15) :
    m.countMem (storeBase q + o) n u = m := by
  unfold Mach.countMem Mach.countPiece; rw [tierOf_store hq ho]

/-- The bytes of a local store from an offset on. -/
theorem Mach.lsBytes_eq (m : Mach) (q off n : Nat) (hn : n ≤ 2 ^ 15) :
    m.lsBytes q off n = (List.range n).map fun i => m.storeByte q (off + i) := by
  unfold Mach.lsBytes
  dsimp only
  rw [Mach.peek_eq, Mach.peek_eq]
  apply List.ext_getElem
  · rw [List.length_append, List.length_map, List.length_map, List.length_map, List.length_range, List.length_range, List.length_range]
    omega
  · intro i h1 h2
    simp only [List.length_append, List.length_map, List.length_range] at h1
    simp only [List.getElem_append, List.length_map, List.length_range, List.getElem_map, List.getElem_range, Mach.storeByte]
    split
    · congr 1; omega
    · congr 1; omega

/-- Reading the local store of sound memory changes nothing. -/
theorem Mach.lsRead_sound (m : Mach) (q off n : Nat) (h : m.granErr = []) : m.lsRead q off n = (m.lsBytes q off n, m) := by
  unfold Mach.lsRead
  simp [m.codeCheck_sound _ _ _ h, m.delivers_sound _ _ h, Mach.onFail, Mach.lsBytes]

/-- A write of one run of bytes into the local store of sound memory. -/
theorem Mach.writeMem_store (m : Mach) (q o : Nat) (bs : List Byte) (h : m.granErr = []) (w : m.memWf) (hq : q < 10240)
    (ho : o < 2 ^ 15) :
    ∃ mem, m.writeMem none .working (storeBase q + o) bs = (false, { m with mem := mem }) ∧
      Tab.wf (0 : Byte) mem = true ∧
      ∀ a, Tab.get 0 mem a =
        if storeBase q + o ≤ a ∧ a < storeBase q + o + bs.length then bs.getD (a - (storeBase q + o)) 0 else m.byteAt a := by
  obtain ⟨h1, h2⟩ := m.writeMem_sound none .working (storeBase q + o) bs h
  by_cases hb : bs = []
  · refine ⟨m.mem, Prod.ext h1 (by rw [h2, if_pos hb]), w, ?_⟩
    intro a
    subst hb
    rw [if_neg (by simp)]
    rfl
  · refine ⟨(m.poke (storeBase q + o) bs).mem, Prod.ext h1 ?_, m.memWf_poke _ _ w, fun a => m.byteAt_poke _ _ _ w⟩
    rw [h2, if_neg hb, Mach.countMem_store _ _ _ hq ho]
    rfl

/-- Writing the local store of sound memory puts the bytes, wrapping, and changes nothing else. -/
theorem Mach.lsWrite_spec (m : Mach) (q off : Nat) (bs : List Byte) (h : m.granErr = []) (w : m.memWf) (hq : q < 10240)
    (hb : bs.length ≤ 2 ^ 15) :
    ∃ mem, m.lsWrite q off bs = { m with mem := mem } ∧ Tab.wf (0 : Byte) mem = true ∧
      StoreWritten m { m with mem := mem } q off bs := by
  have hb' : bs.length ≤ 32768 := hb
  have ho : off % 2 ^ 15 < 32768 := Nat.mod_lt _ (by decide)
  obtain ⟨m1, e1, w1, g1⟩ := m.writeMem_store q (off % 2 ^ 15) (bs.take (min bs.length (2 ^ 15 - off % 2 ^ 15))) h w hq ho
  obtain ⟨m2, e2, w2, g2⟩ := Mach.writeMem_store { m with mem := m1 } q 0 (bs.drop (min bs.length (2 ^ 15 - off % 2 ^ 15)))
    h w1 hq (by decide)
  refine ⟨m2, ?_, w2, ?_, ?_⟩
  · unfold Mach.lsWrite
    dsimp only
    rw [e1]
    dsimp only
    rw [show storeBase q = storeBase q + 0 from rfl, e2]
    rfl
  · intro i hi
    show Tab.get 0 m2 (storeBase q + (off + i) % 2 ^ 15) = _
    rw [g2]
    have hm : (off + i) % 2 ^ 15 =
        if off % 2 ^ 15 + i < 2 ^ 15 then off % 2 ^ 15 + i else off % 2 ^ 15 + i - 2 ^ 15 := by
      split <;> omega
    simp only [List.length_drop, Nat.add_zero]
    split
    · rename_i hc
      rw [hm] at hc ⊢
      split at hc
      · omega
      · rename_i hn
        rw [if_neg hn, List.getD_eq_getElem?_getD, List.getElem?_drop, List.getD_eq_getElem?_getD]
        congr 2
        omega
    · rename_i hc
      show Tab.get 0 m1 _ = _
      rw [g1]
      simp only [List.length_take]
      rw [hm] at hc ⊢
      split at hc
      · rename_i hn
        rw [if_pos hn, if_pos (by omega), List.getD_eq_getElem?_getD, List.getElem?_take, List.getD_eq_getElem?_getD]
        rw [if_pos (by omega)]
        congr 2
        omega
      · omega
  · intro a ha
    show Tab.get 0 m2 a = _
    rw [g2, if_neg]
    · show Tab.get 0 m1 a = _
      rw [g1, if_neg]
      intro hc
      simp only [List.length_take] at hc
      exact ha (a - (storeBase q + off % 2 ^ 15)) (by omega) (by omega)
    · intro hc
      simp only [List.length_drop] at hc
      exact ha (a - storeBase q + (2 ^ 15 - off % 2 ^ 15)) (by omega) (by omega)

/-- An instruction issues on a core of the module. -/
theorem Issues.core_lt {m : Mach} {q : Nat} {f : CoreFields} {cls op : Nat} (h : Issues m q f cls op) : q < 10240 := by
  have := h.1
  unfold Mach.standsAt Mach.clusterPresent at this
  simp at this
  omega

end Sys2Proof.Machine
end

