-- ==== Sys2Proof/Laws/Canonical.lean ====
section
/-!
SUPPORT. Every memory operation keeps memory in its canonical form: reads, checks and counts leave memory as it is, and writes, adds, trace
records and zeroing keep the form (`memWf`, R364).
-/
namespace Sys2Proof.Machine

/-! ## Runs of operations -/

/-- A run of operations on the module keeps whatever each of them keeps. -/
theorem foldl_keeps {α β : Type} (P : β → Prop) (g : β → α → β) (keep : ∀ b x, P b → P (g b x)) (xs : List α) (b : β) (h : P b) :
    P (xs.foldl g b) := by
  induction xs generalizing b with
  | nil => simpa using h
  | cons x rest more => simpa using more (g b x) (keep b x h)

/-- A run of operations leaves memory alone where each of them does. -/
theorem Mach.mem_foldl {α : Type} (m : Mach) (g : Mach → α → Mach) (same : ∀ m x, (g m x).mem = m.mem) (xs : List α) :
    (xs.foldl g m).mem = m.mem :=
  foldl_keeps (fun n => n.mem = m.mem) g (fun n x h => (same n x).trans h) xs m rfl

/-! ## What leaves memory as it is -/

/-- Sending a datagram. -/
theorem Mach.mem_sendGram (m : Mach) (d type ctx addr : Nat) (data : List Byte) (trace : Nat) :
    (m.sendGram d type ctx addr data trace).mem = m.mem := by rw [Mach.sendGram_eq]

/-- Counting an access and its bytes. -/
theorem Mach.mem_countMem (m : Mach) (a n : Nat) (u : MemUse) : (m.countMem a n u).mem = m.mem := by rw [Mach.countMem_eq]

/-- Counting bytes for the observation of a domain. -/
theorem Mach.mem_thdBytes (m : Mach) (d : Option Nat) (a n : Nat) : (m.thdBytes d a n).mem = m.mem := by rw [Mach.thdBytes_eq]

/-- A record of the fault history (R459). -/
theorem Mach.mem_histAdd (m : Mach) (r : HistRec) : (m.histAdd r).mem = m.mem := by
  have last (n : Mach) : (if 65536 ≤ n.flt.history.length then n else { n with flt := { n.flt with history := n.flt.history ++ [r] } }).mem = n.mem := by
    split <;> rfl
  unfold Mach.histAdd
  refine (last _).trans ?_
  split
  · rfl
  · exact Mach.mem_event _ _ _ _ _

/-- A cluster declared suspect (R361). -/
theorem Mach.mem_suspect (m : Mach) (k : Nat) : (m.suspect k).mem = m.mem := by
  unfold Mach.suspect
  split
  · rfl
  · simp only [Mach.mem_event]; rfl

/-- A CPER record (R462). -/
theorem Mach.mem_export (m : Mach) (f : FaultInfo) : (m.export f).mem = m.mem := by
  unfold Mach.export
  split
  · simp only [Mach.mem_event]
  · rfl

/-- A fault recorded (R458). -/
theorem Mach.mem_fault (m : Mach) (f : FaultInfo) : (m.fault f).mem = m.mem := by
  unfold Mach.fault
  simp only [Mach.mem_export]
  repeat' split
  all_goals simp only [Mach.mem_suspect, Mach.mem_event, Mach.mem_histAdd]

/-- A detection-code error recorded (R379). -/
theorem Mach.mem_codeError (m : Mach) (kind : DataKind) (g : Nat) (again : Bool) : (m.codeError kind g again).mem = m.mem := by
  unfold Mach.codeError
  repeat' split
  all_goals simp only [Mach.mem_fault]
  all_goals rfl

/-- Events at the pages that show granules. -/
theorem Mach.mem_pageEvents (m : Mach) (gs : List Nat) (e : Nat) : (m.pageEvents gs e).mem = m.mem := by
  unfold Mach.pageEvents
  exact Mach.mem_foldl m (fun (n : Mach) (p : Nat × Nat) => n.event p.1 p.2 e) (fun n p => Mach.mem_event n p.1 p.2 e 1) _

/-- The check of a range (R379). -/
theorem Mach.mem_codeCheck (m : Mach) (kind : DataKind) (a n : Nat) : (m.codeCheck kind a n).1.mem = m.mem := by
  unfold Mach.codeCheck
  dsimp only
  rw [Mach.mem_foldl _ _ (fun n e => by split <;> rfl), Mach.mem_pageEvents, Mach.mem_pageEvents,
    Mach.mem_foldl m (fun (n : Mach) (e : Nat × GranErr) => n.codeError kind e.1 e.2.lasting)
      fun n e => Mach.mem_codeError n kind e.1 e.2.lasting]

/-- A read. -/
theorem Mach.mem_readMem (m : Mach) (dom : Option Nat) (kind : DataKind) (a n : Nat) : (m.readMem dom kind a n).2.2.mem = m.mem := by
  simp only [Mach.readMem, Mach.mem_thdBytes, Mach.mem_countMem, Mach.mem_codeCheck]

/-- A change of a job's record. -/
theorem Mach.mem_modJob (m : Mach) (slot : Nat) (g : Job → Job) : (m.modJob slot g).mem = m.mem := by
  unfold Mach.modJob
  split <;> rfl

/-- A packet put into the fabric (R390). -/
theorem Mach.mem_send (m : Mach) (l : Nat) (p : Packet) : (m.send l p).mem = m.mem := by
  simp only [Mach.send, Mach.inject]
  split
  · rfl
  · rw [Mach.thdGlobal_eq]
    rfl

/-- A commit message (R312). -/
theorem Mach.mem_sendCommit (m : Mach) (slot dest kind ready reason carried sent applied : Nat) (step attempt : Option Nat) :
    (m.sendCommit slot dest kind ready reason carried sent applied step attempt).mem = m.mem := by
  unfold Mach.sendCommit
  split
  · rfl
  · exact (Mach.mem_modJob _ _ _).trans (Mach.mem_send _ _ _)

/-- A condition that an access finds (R314, R379). -/
theorem Mach.mem_onFail (m : Mach) (bad : Bool) (slot : Nat) (kind : DataKind) : (m.onFail bad slot kind).mem = m.mem := by
  unfold Mach.onFail Mach.readFailed Mach.abortCond
  repeat' split
  all_goals first
    | rfl
    | exact (Mach.mem_sendCommit _ _ _ _ _ _ _ _ _ _ _).trans (Mach.mem_modJob _ _ _)

/-! ## What keeps the form -/

/-- A granule that is written in part (R380). -/
theorem Mach.memWf_partialWrite (m : Mach) (kind : DataKind) (g : Nat) (e : GranErr) (whole : Bool) (w : m.memWf) :
    (m.partialWrite kind g e whole).1.memWf := by
  have checked : (m.codeCheck kind (64 * g) 64).1.memWf := Mach.memWf_congr (Mach.mem_codeCheck _ _ _ _) w
  unfold Mach.partialWrite
  by_cases h : whole = true
  · rw [if_pos h]; exact w
  · rw [if_neg h]
    dsimp only
    by_cases h2 : (m.codeCheck kind (64 * g) 64).2 = true
    · rw [if_pos h2]; exact Mach.memWf_congr (Mach.mem_pageEvents _ _ _) checked
    · rw [if_neg h2]
      by_cases h3 : e.detected g = true
      · rw [if_pos h3]; exact checked
      · rw [if_neg h3]; exact Mach.memWf_poke _ _ _ checked

/-- Granules made ready for a write (R380). -/
theorem Mach.memWf_readyWrite (m : Mach) (kind : DataKind) (a n : Nat) (w : m.memWf) : (m.readyWrite kind a n).2.memWf :=
  foldl_keeps (fun acc : Bool × Mach => acc.2.memWf) _ (fun acc e h => acc.2.memWf_partialWrite kind e.1 e.2 _ h) _ _ w

/-- A write (R364, R380). -/
theorem Mach.memWf_writeMem (m : Mach) (dom : Option Nat) (kind : DataKind) (a : Nat) (bs : List Byte) (w : m.memWf) :
    (m.writeMem dom kind a bs).2.memWf := by
  unfold Mach.writeMem
  dsimp only
  split
  · exact w
  · exact Mach.memWf_congr ((Mach.mem_thdBytes _ _ _ _).trans (Mach.mem_countMem _ _ _ _))
      (Mach.memWf_poke _ _ _ (m.memWf_readyWrite kind a bs.length w))

/-- An indivisible add (R374). -/
theorem Mach.memWf_addWord (m : Mach) (kind : DataKind) (a v : Nat) (w : m.memWf) : (m.addWord kind a v).2.memWf :=
  Mach.memWf_congr (Mach.mem_countMem _ _ _ _) (Mach.memWf_poke _ _ _ (m.memWf_readyWrite kind a 8 w))

/-- A tally in memory (R166). -/
theorem Mach.memWf_bumpTally (m : Mach) (kind : DataKind) (a n : Nat) (w : m.memWf) : (m.bumpTally kind a n).2.memWf :=
  Mach.memWf_congr (Mach.mem_countMem _ _ _ _) (Mach.memWf_poke _ _ _ (m.memWf_readyWrite kind a 4 w))

/-- A store into a core's local store (R194). -/
theorem Mach.memWf_lsWrite (m : Mach) (q off : Nat) (bs : List Byte) (w : m.memWf) : (m.lsWrite q off bs).memWf := by
  unfold Mach.lsWrite
  exact Mach.memWf_congr (Mach.mem_onFail _ _ _ _) (Mach.memWf_writeMem _ _ _ _ _ (Mach.memWf_writeMem _ _ _ _ _ w))

/-- A trace record (R516). -/
theorem Mach.memWf_tracePut (m : Mach) (d place : Nat) (bytes : List Byte) (w : m.memWf) : (m.tracePut d place bytes).memWf := by
  unfold Mach.tracePut
  dsimp only
  split
  · exact Mach.memWf_congr (Mach.mem_sendGram _ _ _ _ _ _ _) (Mach.memWf_writeMem m none .working _ bytes w)
  · exact Mach.memWf_writeMem m none .working _ bytes w

/-- A trace record or its loss (R515 to R517). -/
theorem Mach.memWf_trace (m : Mach) (d ty attempt job wher step detail : Nat) (w : m.memWf) :
    (m.trace d ty attempt job wher step detail).memWf := by
  unfold Mach.trace
  simp only
  repeat' split
  all_goals first
    | exact w
    | exact Mach.memWf_tracePut _ _ _ _ w
    | exact Mach.memWf_tracePut _ _ _ _ (Mach.memWf_congr (Mach.mem_event _ _ _ _ _) (Mach.memWf_tracePut _ _ _ _ w))
    | exact Mach.memWf_congr (Mach.mem_event _ _ _ _ _) (Mach.memWf_tracePut _ _ _ _ w)

end Sys2Proof.Machine
end

