-- ==== Sys2Proof/Laws/PerInstr.lean ====
section
/-!
SUPPORT. One lemma per command for each family of LAWS.json. Family CoreBound: a well-formed command that runs on a core,
a cluster's engine or an update lane names a unit the module has (R2, R280).
-/
namespace Sys2Proof

/-- The core a core instruction runs on, where the command is one. -/
def Instr.core? (i : Instr) : Option Nat :=
  match i with
  | .nop q _ => some q
  | .halt q _ => some q
  | .br q _ => some q
  | .loop q _ => some q
  | .li q _ => some q
  | .lui q _ => some q
  | .add q _ => some q
  | .addi q _ => some q
  | .sub q _ => some q
  | .mul q _ => some q
  | .andB q _ => some q
  | .orB q _ => some q
  | .xorB q _ => some q
  | .shl q _ => some q
  | .shr q _ => some q
  | .sra q _ => some q
  | .minS q _ => some q
  | .maxS q _ => some q
  | .cmp q _ => some q
  | .cmpi q _ => some q
  | .ld q _ => some q
  | .st q _ => some q
  | .pset q _ => some q
  | .lidx q _ => some q
  | .xfer q _ => some q
  | .trvSubmit q _ => some q
  | .gthLookup q _ => some q
  | .gthScatter q _ => some q
  | .drain q _ => some q
  | .signal q _ => some q
  | .wait q _ => some q
  | .rdcnt q _ => some q
  | .zero q _ => some q
  | .tld q _ => some q
  | .tst q _ => some q
  | .tzero q _ => some q
  | .tmma q _ _ _ => some q
  | .tmma32 q _ _ _ => some q
  | .tmma64 q _ _ _ => some q
  | .tout q _ => some q
  | .ttrans q _ => some q
  | .taccSt q _ => some q
  | .taccLd q _ => some q
  | .routedTmmaStart _ => none
  | .routedTmmaDone _ => none
  | .sseg q _ => some q
  | .senc q _ => some q
  | .sdec q _ => some q
  | .smchk q _ => some q
  | .smgrad q _ => some q
  | .vld q _ => some q
  | .vst q _ => some q
  | .vbcast q _ => some q
  | .vadd q _ => some q
  | .vsub q _ => some q
  | .vmul q _ => some q
  | .vfma q _ => some q
  | .vmin q _ => some q
  | .vmax q _ => some q
  | .vabs q _ => some q
  | .vsel q _ => some q
  | .vcmp q _ => some q
  | .vperm q _ => some q
  | .vshuf q _ => some q
  | .vpack q _ => some q
  | .vunpack q _ => some q
  | .vredt q _ => some q
  | .vsegred q _ => some q
  | .vexp2 q _ => some q
  | .vlog2 q _ => some q
  | .vrcp q _ => some q
  | .vrsq q _ => some q
  | .vcvt q _ => some q
  | .mtail q _ => some q
  | .mlogic q _ => some q
  | .vfma64 q _ => some q
  | .vtget q _ => some q
  | .vtput q _ => some q
  | .rkey q _ => some q
  | .rbern q _ => some q
  | .rfree q _ => some q
  | .cvt q _ => some q
  | .camax q _ => some q
  | .cred64 q _ => some q
  | .phaseStart _ _ => none
  | .corePhaseEnd q => some q
  | .platDrawn _ _ => none
  | .batchStart _ => none
  | .batchComplete _ _ => none
  | .prefetchHint _ => none
  | .prefetchFetch _ _ => none
  | .lookupStart _ => none
  | .lookupComplete _ _ => none
  | .scatterStart _ _ => none
  | .scatterComplete _ _ => none
  | .migrationSourceFree _ _ _ => none
  | .segmentStart _ => none
  | .forwardedSegment _ => none
  | .segmentReport _ => none
  | .aggregateComplete _ _ => none
  | .finishComplete _ _ => none
  | .updNop _ _ _ => none
  | .updLd _ _ _ => none
  | .updSt _ _ _ => none
  | .updAdd _ _ _ => none
  | .updSub _ _ _ => none
  | .updMul _ _ _ => none
  | .updFma _ _ _ => none
  | .updDiv _ _ _ => none
  | .updSqrt _ _ _ => none
  | .updRsqrt _ _ _ => none
  | .updMin _ _ _ => none
  | .updMax _ _ _ => none
  | .updAbs _ _ _ => none
  | .updSign _ _ _ => none
  | .updSel _ _ _ => none
  | .updClip _ _ _ => none
  | .updLerp _ _ _ => none
  | .updPow _ _ _ => none
  | .updAmax _ _ _ => none
  | .updSrnd _ _ _ => none
  | .updatePhaseDone _ => none
  | .undoLogFull _ _ => none
  | .rootComputeStart _ => none
  | .rootComputeDone _ => none
  | .reduced _ => none
  | .closed _ => none
  | .vote _ => none
  | .stepCommit _ => none
  | .applyDone _ => none
  | .stepAbort _ => none
  | .abortDone _ => none
  | .stepDone _ => none
  | .monumentWritten _ => none
  | .stepStart _ => none
  | .pnrRequest _ => none
  | .pnrQuery _ => none
  | .pnrAnswer _ => none
  | .pnrGrant _ => none
  | .alive _ => none
  | .aliveDue _ _ => none
  | .carry _ => none
  | .peerSilent _ => none
  | .reduceLost _ => none
  | .peerLost _ => none
  | .coordinatorLost _ => none
  | .closureWatchdog _ => none
  | .packetRoute _ _ => none
  | .readReq _ => none
  | .writeReq _ => none
  | .addAcked _ => none
  | .readData _ => none
  | .writeAck _ => none
  | .regAck _ => none
  | .regData _ => none
  | .postedWrite _ => none
  | .red64Add _ => none
  | .count _ => none
  | .linkLoss _ => none
  | .frameReceived _ _ => none
  | .frameAckTimeout _ => none
  | .retryExhausted _ => none
  | .portTrainingDone _ _ => none
  | .drainMarker _ _ _ => none
  | .timePpsEdge => none
  | .ppsMissing => none
  | .ctrlCommit _ _ _ => none
  | .quiesce _ _ _ _ => none
  | .enable _ _ _ _ => none
  | .blockQuiesced _ _ => none
  | .eventClear _ _ _ _ _ => none
  | .registerWrite _ _ _ _ => none
  | .retrain _ _ => none
  | .arm0 _ _ => none
  | .arm1 _ _ => none
  | .flip _ _ => none
  | .rteRankWrite _ _ _ _ => none
  | .rteMtData _ _ _ => none
  | .rteLtData _ _ _ => none
  | .rteMcData _ _ _ => none
  | .rteTimeSet _ _ => none
  | .updProgCount _ _ _ => none
  | .ctxActivate _ _ => none
  | .ctxDeactivate _ _ => none
  | .ctxReset _ _ => none
  | .ctxSqTail _ _ _ => none
  | .ctxCqHead _ _ _ => none
  | .commandTake _ => none
  | .loadImage _ _ _ => none
  | .run _ _ => none
  | .stop _ _ => none
  | .tableSelect _ _ => none
  | .stake _ _ => none
  | .monument _ _ => none
  | .restore _ _ _ => none
  | .restoreBegin _ => none
  | .teardown _ _ => none
  | .easement _ _ => none
  | .easementInForce _ => none
  | .freeze _ _ => none
  | .unfreeze _ _ => none
  | .saveContext _ _ => none
  | .contextStopped _ => none
  | .resumeContext _ _ => none
  | .commandComplete _ _ => none
  | .coalesceTimeout _ => none
  | .submit _ _ => none
  | .dgramWrite _ _ => none
  | .dgramRead _ _ => none
  | .dgramAck _ _ => none
  | .datagramResend _ _ => none
  | .domReset _ _ => none
  | .rstDomainHold _ _ => none
  | .domainResetDone _ => none
  | .apcAssign _ _ _ _ => none
  | .thdSelWrite _ _ _ _ => none
  | .thdGselWrite _ _ _ => none
  | .thdTraceCtrl _ _ => none
  | .traceBufferPlaced _ _ => none
  | .fwActivate _ => none
  | .fwCommit _ => none
  | .pwrCommit _ => none
  | .powerTransitionDone => none
  | .aclkSwitch _ => none
  | .pwrBrakeAssert => none
  | .pwrBrakeRelease => none
  | .droop _ => none
  | .sensorSample _ => none
  | .railTelemetry _ _ => none
  | .logFlush => none
  | .managementWatchdog => none
  | .tlsConnect _ => none
  | .firmwareUpdate _ => none
  | .attestation _ => none
  | .configureDomain _ _ => none
  | .clearFaultHistory _ _ => none
  | .powerOn => none
  | .coldReset _ => none
  | .warmReset _ => none
  | .resetFrame _ => none
  | .resetRelease => none
  | .supplyCheck _ => none
  | .fuseLoad _ => none
  | .optionLoading => none
  | .firmwareVerification => none
  | .lpddr5xTraining _ => none
  | .nearTierSelfTest _ _ => none
  | .linkTraining _ _ => none
  | .ready => none
  | .regRead _ _ _ => none
  | .dgramRegRead _ _ => none
  | .control _ => none
  | .guestFault _ _ => none
  | .svcLinkDown _ => none
  | .svcPortUp _ => none

namespace Laws.CoreBound

/-- A well-formed command of a core names one of the 10,240 cores. -/
def Statement (i : Instr) : Prop := i.wf = true → ∀ q, i.core? = some q → q < 10240

/-- The bound out of the first check of a core command. -/
theorem bound {q : Nat} {b : Bool} (h : (decide (q < 10240) && b) = true) : q < 10240 :=
  of_decide_eq_true (Bool.and_eq_true_iff.mp h).1

theorem nop (q : Nat) (f : CoreFields) : Statement (.nop q f) :=
  fun h _ hr => Option.some.inj hr ▸ bound h
theorem halt (q : Nat) (f : CoreFields) : Statement (.halt q f) :=
  fun h _ hr => Option.some.inj hr ▸ bound h
theorem br (q : Nat) (f : CoreFields) : Statement (.br q f) :=
  fun h _ hr => Option.some.inj hr ▸ bound h
theorem loop (q : Nat) (f : CoreFields) : Statement (.loop q f) :=
  fun h _ hr => Option.some.inj hr ▸ bound h
theorem li (q : Nat) (f : CoreFields) : Statement (.li q f) :=
  fun h _ hr => Option.some.inj hr ▸ bound h
theorem lui (q : Nat) (f : CoreFields) : Statement (.lui q f) :=
  fun h _ hr => Option.some.inj hr ▸ bound h
theorem add (q : Nat) (f : CoreFields) : Statement (.add q f) :=
  fun h _ hr => Option.some.inj hr ▸ bound h
theorem addi (q : Nat) (f : CoreFields) : Statement (.addi q f) :=
  fun h _ hr => Option.some.inj hr ▸ bound h
theorem sub (q : Nat) (f : CoreFields) : Statement (.sub q f) :=
  fun h _ hr => Option.some.inj hr ▸ bound h
theorem mul (q : Nat) (f : CoreFields) : Statement (.mul q f) :=
  fun h _ hr => Option.some.inj hr ▸ bound h
theorem andB (q : Nat) (f : CoreFields) : Statement (.andB q f) :=
  fun h _ hr => Option.some.inj hr ▸ bound h
theorem orB (q : Nat) (f : CoreFields) : Statement (.orB q f) :=
  fun h _ hr => Option.some.inj hr ▸ bound h
theorem xorB (q : Nat) (f : CoreFields) : Statement (.xorB q f) :=
  fun h _ hr => Option.some.inj hr ▸ bound h
theorem shl (q : Nat) (f : CoreFields) : Statement (.shl q f) :=
  fun h _ hr => Option.some.inj hr ▸ bound h
theorem shr (q : Nat) (f : CoreFields) : Statement (.shr q f) :=
  fun h _ hr => Option.some.inj hr ▸ bound h
theorem sra (q : Nat) (f : CoreFields) : Statement (.sra q f) :=
  fun h _ hr => Option.some.inj hr ▸ bound h
theorem minS (q : Nat) (f : CoreFields) : Statement (.minS q f) :=
  fun h _ hr => Option.some.inj hr ▸ bound h
theorem maxS (q : Nat) (f : CoreFields) : Statement (.maxS q f) :=
  fun h _ hr => Option.some.inj hr ▸ bound h
theorem cmp (q : Nat) (f : CoreFields) : Statement (.cmp q f) :=
  fun h _ hr => Option.some.inj hr ▸ bound h
theorem cmpi (q : Nat) (f : CoreFields) : Statement (.cmpi q f) :=
  fun h _ hr => Option.some.inj hr ▸ bound h
theorem ld (q : Nat) (f : CoreFields) : Statement (.ld q f) :=
  fun h _ hr => Option.some.inj hr ▸ bound h
theorem st (q : Nat) (f : CoreFields) : Statement (.st q f) :=
  fun h _ hr => Option.some.inj hr ▸ bound h
theorem pset (q : Nat) (f : CoreFields) : Statement (.pset q f) :=
  fun h _ hr => Option.some.inj hr ▸ bound h
theorem lidx (q : Nat) (f : CoreFields) : Statement (.lidx q f) :=
  fun h _ hr => Option.some.inj hr ▸ bound h
theorem xfer (q : Nat) (f : CoreFields) : Statement (.xfer q f) :=
  fun h _ hr => Option.some.inj hr ▸ bound h
theorem trvSubmit (q : Nat) (f : CoreFields) : Statement (.trvSubmit q f) :=
  fun h _ hr => Option.some.inj hr ▸ bound h
theorem gthLookup (q : Nat) (f : CoreFields) : Statement (.gthLookup q f) :=
  fun h _ hr => Option.some.inj hr ▸ bound h
theorem gthScatter (q : Nat) (f : CoreFields) : Statement (.gthScatter q f) :=
  fun h _ hr => Option.some.inj hr ▸ bound h
theorem drain (q : Nat) (f : CoreFields) : Statement (.drain q f) :=
  fun h _ hr => Option.some.inj hr ▸ bound h
theorem signal (q : Nat) (f : CoreFields) : Statement (.signal q f) :=
  fun h _ hr => Option.some.inj hr ▸ bound h
theorem wait (q : Nat) (f : CoreFields) : Statement (.wait q f) :=
  fun h _ hr => Option.some.inj hr ▸ bound h
theorem rdcnt (q : Nat) (f : CoreFields) : Statement (.rdcnt q f) :=
  fun h _ hr => Option.some.inj hr ▸ bound h
theorem zero (q : Nat) (f : CoreFields) : Statement (.zero q f) :=
  fun h _ hr => Option.some.inj hr ▸ bound h
theorem tld (q : Nat) (f : CoreFields) : Statement (.tld q f) :=
  fun h _ hr => Option.some.inj hr ▸ bound h
theorem tst (q : Nat) (f : CoreFields) : Statement (.tst q f) :=
  fun h _ hr => Option.some.inj hr ▸ bound h
theorem tzero (q : Nat) (f : CoreFields) : Statement (.tzero q f) :=
  fun h _ hr => Option.some.inj hr ▸ bound h
theorem tmma (q : Nat) (f : CoreFields) (flt1 flt2 : List (Nat × Int)) : Statement (.tmma q f flt1 flt2) :=
  fun h _ hr => Option.some.inj hr ▸ bound h
theorem tmma32 (q : Nat) (f : CoreFields) (flt1 flt2 : List (Nat × Int)) : Statement (.tmma32 q f flt1 flt2) :=
  fun h _ hr => Option.some.inj hr ▸ bound h
theorem tmma64 (q : Nat) (f : CoreFields) (flt1 flt2 : List (Nat × Int)) : Statement (.tmma64 q f flt1 flt2) :=
  fun h _ hr => Option.some.inj hr ▸ bound h
theorem tout (q : Nat) (f : CoreFields) : Statement (.tout q f) :=
  fun h _ hr => Option.some.inj hr ▸ bound h
theorem ttrans (q : Nat) (f : CoreFields) : Statement (.ttrans q f) :=
  fun h _ hr => Option.some.inj hr ▸ bound h
theorem taccSt (q : Nat) (f : CoreFields) : Statement (.taccSt q f) :=
  fun h _ hr => Option.some.inj hr ▸ bound h
theorem taccLd (q : Nat) (f : CoreFields) : Statement (.taccLd q f) :=
  fun h _ hr => Option.some.inj hr ▸ bound h
theorem routedTmmaStart (k : Nat) : Statement (.routedTmmaStart k) := fun _ _ hr => nomatch hr
theorem routedTmmaDone (k : Nat) : Statement (.routedTmmaDone k) := fun _ _ hr => nomatch hr
theorem sseg (q : Nat) (f : CoreFields) : Statement (.sseg q f) :=
  fun h _ hr => Option.some.inj hr ▸ bound h
theorem senc (q : Nat) (f : CoreFields) : Statement (.senc q f) :=
  fun h _ hr => Option.some.inj hr ▸ bound h
theorem sdec (q : Nat) (f : CoreFields) : Statement (.sdec q f) :=
  fun h _ hr => Option.some.inj hr ▸ bound h
theorem smchk (q : Nat) (f : CoreFields) : Statement (.smchk q f) :=
  fun h _ hr => Option.some.inj hr ▸ bound h
theorem smgrad (q : Nat) (f : CoreFields) : Statement (.smgrad q f) :=
  fun h _ hr => Option.some.inj hr ▸ bound h
theorem vld (q : Nat) (f : CoreFields) : Statement (.vld q f) :=
  fun h _ hr => Option.some.inj hr ▸ bound h
theorem vst (q : Nat) (f : CoreFields) : Statement (.vst q f) :=
  fun h _ hr => Option.some.inj hr ▸ bound h
theorem vbcast (q : Nat) (f : CoreFields) : Statement (.vbcast q f) :=
  fun h _ hr => Option.some.inj hr ▸ bound h
theorem vadd (q : Nat) (f : CoreFields) : Statement (.vadd q f) :=
  fun h _ hr => Option.some.inj hr ▸ bound h
theorem vsub (q : Nat) (f : CoreFields) : Statement (.vsub q f) :=
  fun h _ hr => Option.some.inj hr ▸ bound h
theorem vmul (q : Nat) (f : CoreFields) : Statement (.vmul q f) :=
  fun h _ hr => Option.some.inj hr ▸ bound h
theorem vfma (q : Nat) (f : CoreFields) : Statement (.vfma q f) :=
  fun h _ hr => Option.some.inj hr ▸ bound h
theorem vmin (q : Nat) (f : CoreFields) : Statement (.vmin q f) :=
  fun h _ hr => Option.some.inj hr ▸ bound h
theorem vmax (q : Nat) (f : CoreFields) : Statement (.vmax q f) :=
  fun h _ hr => Option.some.inj hr ▸ bound h
theorem vabs (q : Nat) (f : CoreFields) : Statement (.vabs q f) :=
  fun h _ hr => Option.some.inj hr ▸ bound h
theorem vsel (q : Nat) (f : CoreFields) : Statement (.vsel q f) :=
  fun h _ hr => Option.some.inj hr ▸ bound h
theorem vcmp (q : Nat) (f : CoreFields) : Statement (.vcmp q f) :=
  fun h _ hr => Option.some.inj hr ▸ bound h
theorem vperm (q : Nat) (f : CoreFields) : Statement (.vperm q f) :=
  fun h _ hr => Option.some.inj hr ▸ bound h
theorem vshuf (q : Nat) (f : CoreFields) : Statement (.vshuf q f) :=
  fun h _ hr => Option.some.inj hr ▸ bound h
theorem vpack (q : Nat) (f : CoreFields) : Statement (.vpack q f) :=
  fun h _ hr => Option.some.inj hr ▸ bound h
theorem vunpack (q : Nat) (f : CoreFields) : Statement (.vunpack q f) :=
  fun h _ hr => Option.some.inj hr ▸ bound h
theorem vredt (q : Nat) (f : CoreFields) : Statement (.vredt q f) :=
  fun h _ hr => Option.some.inj hr ▸ bound h
theorem vsegred (q : Nat) (f : CoreFields) : Statement (.vsegred q f) :=
  fun h _ hr => Option.some.inj hr ▸ bound h
theorem vexp2 (q : Nat) (f : CoreFields) : Statement (.vexp2 q f) :=
  fun h _ hr => Option.some.inj hr ▸ bound h
theorem vlog2 (q : Nat) (f : CoreFields) : Statement (.vlog2 q f) :=
  fun h _ hr => Option.some.inj hr ▸ bound h
theorem vrcp (q : Nat) (f : CoreFields) : Statement (.vrcp q f) :=
  fun h _ hr => Option.some.inj hr ▸ bound h
theorem vrsq (q : Nat) (f : CoreFields) : Statement (.vrsq q f) :=
  fun h _ hr => Option.some.inj hr ▸ bound h
theorem vcvt (q : Nat) (f : CoreFields) : Statement (.vcvt q f) :=
  fun h _ hr => Option.some.inj hr ▸ bound h
theorem mtail (q : Nat) (f : CoreFields) : Statement (.mtail q f) :=
  fun h _ hr => Option.some.inj hr ▸ bound h
theorem mlogic (q : Nat) (f : CoreFields) : Statement (.mlogic q f) :=
  fun h _ hr => Option.some.inj hr ▸ bound h
theorem vfma64 (q : Nat) (f : CoreFields) : Statement (.vfma64 q f) :=
  fun h _ hr => Option.some.inj hr ▸ bound h
theorem vtget (q : Nat) (f : CoreFields) : Statement (.vtget q f) :=
  fun h _ hr => Option.some.inj hr ▸ bound h
theorem vtput (q : Nat) (f : CoreFields) : Statement (.vtput q f) :=
  fun h _ hr => Option.some.inj hr ▸ bound h
theorem rkey (q : Nat) (f : CoreFields) : Statement (.rkey q f) :=
  fun h _ hr => Option.some.inj hr ▸ bound h
theorem rbern (q : Nat) (f : CoreFields) : Statement (.rbern q f) :=
  fun h _ hr => Option.some.inj hr ▸ bound h
theorem rfree (q : Nat) (f : CoreFields) : Statement (.rfree q f) :=
  fun h _ hr => Option.some.inj hr ▸ bound h
theorem cvt (q : Nat) (f : CoreFields) : Statement (.cvt q f) :=
  fun h _ hr => Option.some.inj hr ▸ bound h
theorem camax (q : Nat) (f : CoreFields) : Statement (.camax q f) :=
  fun h _ hr => Option.some.inj hr ▸ bound h
theorem cred64 (q : Nat) (f : CoreFields) : Statement (.cred64 q f) :=
  fun h _ hr => Option.some.inj hr ▸ bound h
theorem phaseStart (slot cluster : Nat) : Statement (.phaseStart slot cluster) := fun _ _ hr => nomatch hr
theorem corePhaseEnd (q : Nat) : Statement (.corePhaseEnd q) :=
  fun h _ hr => Option.some.inj hr ▸ of_decide_eq_true h
theorem platDrawn (slot : Nat) (plat : Plat) : Statement (.platDrawn slot plat) := fun _ _ hr => nomatch hr
theorem batchStart (k : Nat) : Statement (.batchStart k) := fun _ _ hr => nomatch hr
theorem batchComplete (k id : Nat) : Statement (.batchComplete k id) := fun _ _ hr => nomatch hr
theorem prefetchHint (k : Nat) : Statement (.prefetchHint k) := fun _ _ hr => nomatch hr
theorem prefetchFetch (k evict : Nat) : Statement (.prefetchFetch k evict) := fun _ _ hr => nomatch hr
theorem lookupStart (k : Nat) : Statement (.lookupStart k) := fun _ _ hr => nomatch hr
theorem lookupComplete (k id : Nat) : Statement (.lookupComplete k id) := fun _ _ hr => nomatch hr
theorem scatterStart (k : Nat) (evict : List Nat) : Statement (.scatterStart k evict) := fun _ _ hr => nomatch hr
theorem scatterComplete (k id : Nat) : Statement (.scatterComplete k id) := fun _ _ hr => nomatch hr
theorem migrationSourceFree (slot table row : Nat) : Statement (.migrationSourceFree slot table row) := fun _ _ hr => nomatch hr
theorem segmentStart (k : Nat) : Statement (.segmentStart k) := fun _ _ hr => nomatch hr
theorem forwardedSegment (k : Nat) : Statement (.forwardedSegment k) := fun _ _ hr => nomatch hr
theorem segmentReport (k : Nat) : Statement (.segmentReport k) := fun _ _ hr => nomatch hr
theorem aggregateComplete (k id : Nat) : Statement (.aggregateComplete k id) := fun _ _ hr => nomatch hr
theorem finishComplete (k id : Nat) : Statement (.finishComplete k id) := fun _ _ hr => nomatch hr
theorem updNop (die lane : Nat) (f : UpdFields) : Statement (.updNop die lane f) := fun _ _ hr => nomatch hr
theorem updLd (die lane : Nat) (f : UpdFields) : Statement (.updLd die lane f) := fun _ _ hr => nomatch hr
theorem updSt (die lane : Nat) (f : UpdFields) : Statement (.updSt die lane f) := fun _ _ hr => nomatch hr
theorem updAdd (die lane : Nat) (f : UpdFields) : Statement (.updAdd die lane f) := fun _ _ hr => nomatch hr
theorem updSub (die lane : Nat) (f : UpdFields) : Statement (.updSub die lane f) := fun _ _ hr => nomatch hr
theorem updMul (die lane : Nat) (f : UpdFields) : Statement (.updMul die lane f) := fun _ _ hr => nomatch hr
theorem updFma (die lane : Nat) (f : UpdFields) : Statement (.updFma die lane f) := fun _ _ hr => nomatch hr
theorem updDiv (die lane : Nat) (f : UpdFields) : Statement (.updDiv die lane f) := fun _ _ hr => nomatch hr
theorem updSqrt (die lane : Nat) (f : UpdFields) : Statement (.updSqrt die lane f) := fun _ _ hr => nomatch hr
theorem updRsqrt (die lane : Nat) (f : UpdFields) : Statement (.updRsqrt die lane f) := fun _ _ hr => nomatch hr
theorem updMin (die lane : Nat) (f : UpdFields) : Statement (.updMin die lane f) := fun _ _ hr => nomatch hr
theorem updMax (die lane : Nat) (f : UpdFields) : Statement (.updMax die lane f) := fun _ _ hr => nomatch hr
theorem updAbs (die lane : Nat) (f : UpdFields) : Statement (.updAbs die lane f) := fun _ _ hr => nomatch hr
theorem updSign (die lane : Nat) (f : UpdFields) : Statement (.updSign die lane f) := fun _ _ hr => nomatch hr
theorem updSel (die lane : Nat) (f : UpdFields) : Statement (.updSel die lane f) := fun _ _ hr => nomatch hr
theorem updClip (die lane : Nat) (f : UpdFields) : Statement (.updClip die lane f) := fun _ _ hr => nomatch hr
theorem updLerp (die lane : Nat) (f : UpdFields) : Statement (.updLerp die lane f) := fun _ _ hr => nomatch hr
theorem updPow (die lane : Nat) (f : UpdFields) : Statement (.updPow die lane f) := fun _ _ hr => nomatch hr
theorem updAmax (die lane : Nat) (f : UpdFields) : Statement (.updAmax die lane f) := fun _ _ hr => nomatch hr
theorem updSrnd (die lane : Nat) (f : UpdFields) : Statement (.updSrnd die lane f) := fun _ _ hr => nomatch hr
theorem updatePhaseDone (slot : Nat) : Statement (.updatePhaseDone slot) := fun _ _ hr => nomatch hr
theorem undoLogFull (die slot : Nat) : Statement (.undoLogFull die slot) := fun _ _ hr => nomatch hr
theorem rootComputeStart (die : Nat) : Statement (.rootComputeStart die) := fun _ _ hr => nomatch hr
theorem rootComputeDone (die : Nat) : Statement (.rootComputeDone die) := fun _ _ hr => nomatch hr
theorem reduced (p : Packet) : Statement (.reduced p) := fun _ _ hr => nomatch hr
theorem closed (p : Packet) : Statement (.closed p) := fun _ _ hr => nomatch hr
theorem vote (p : Packet) : Statement (.vote p) := fun _ _ hr => nomatch hr
theorem stepCommit (p : Packet) : Statement (.stepCommit p) := fun _ _ hr => nomatch hr
theorem applyDone (slot : Nat) : Statement (.applyDone slot) := fun _ _ hr => nomatch hr
theorem stepAbort (p : Packet) : Statement (.stepAbort p) := fun _ _ hr => nomatch hr
theorem abortDone (slot : Nat) : Statement (.abortDone slot) := fun _ _ hr => nomatch hr
theorem stepDone (p : Packet) : Statement (.stepDone p) := fun _ _ hr => nomatch hr
theorem monumentWritten (slot : Nat) : Statement (.monumentWritten slot) := fun _ _ hr => nomatch hr
theorem stepStart (p : Packet) : Statement (.stepStart p) := fun _ _ hr => nomatch hr
theorem pnrRequest (p : Packet) : Statement (.pnrRequest p) := fun _ _ hr => nomatch hr
theorem pnrQuery (p : Packet) : Statement (.pnrQuery p) := fun _ _ hr => nomatch hr
theorem pnrAnswer (p : Packet) : Statement (.pnrAnswer p) := fun _ _ hr => nomatch hr
theorem pnrGrant (p : Packet) : Statement (.pnrGrant p) := fun _ _ hr => nomatch hr
theorem alive (p : Packet) : Statement (.alive p) := fun _ _ hr => nomatch hr
theorem aliveDue (slot dest : Nat) : Statement (.aliveDue slot dest) := fun _ _ hr => nomatch hr
theorem carry (p : Packet) : Statement (.carry p) := fun _ _ hr => nomatch hr
theorem peerSilent (slot : Nat) : Statement (.peerSilent slot) := fun _ _ hr => nomatch hr
theorem reduceLost (slot : Nat) : Statement (.reduceLost slot) := fun _ _ hr => nomatch hr
theorem peerLost (slot : Nat) : Statement (.peerLost slot) := fun _ _ hr => nomatch hr
theorem coordinatorLost (slot : Nat) : Statement (.coordinatorLost slot) := fun _ _ hr => nomatch hr
theorem closureWatchdog (slot : Nat) : Statement (.closureWatchdog slot) := fun _ _ hr => nomatch hr
theorem packetRoute (tract output : Nat) : Statement (.packetRoute tract output) := fun _ _ hr => nomatch hr
theorem readReq (p : Packet) : Statement (.readReq p) := fun _ _ hr => nomatch hr
theorem writeReq (p : Packet) : Statement (.writeReq p) := fun _ _ hr => nomatch hr
theorem addAcked (p : Packet) : Statement (.addAcked p) := fun _ _ hr => nomatch hr
theorem readData (p : Packet) : Statement (.readData p) := fun _ _ hr => nomatch hr
theorem writeAck (p : Packet) : Statement (.writeAck p) := fun _ _ hr => nomatch hr
theorem regAck (p : Packet) : Statement (.regAck p) := fun _ _ hr => nomatch hr
theorem regData (p : Packet) : Statement (.regData p) := fun _ _ hr => nomatch hr
theorem postedWrite (p : Packet) : Statement (.postedWrite p) := fun _ _ hr => nomatch hr
theorem red64Add (p : Packet) : Statement (.red64Add p) := fun _ _ hr => nomatch hr
theorem count (p : Packet) : Statement (.count p) := fun _ _ hr => nomatch hr
theorem linkLoss (p : Packet) : Statement (.linkLoss p) := fun _ _ hr => nomatch hr
theorem frameReceived (port : Nat) (fr : Frame) : Statement (.frameReceived port fr) := fun _ _ hr => nomatch hr
theorem frameAckTimeout (port : Nat) : Statement (.frameAckTimeout port) := fun _ _ hr => nomatch hr
theorem retryExhausted (port : Nat) : Statement (.retryExhausted port) := fun _ _ hr => nomatch hr
theorem portTrainingDone (port : Nat) (r : Training) : Statement (.portTrainingDone port r) := fun _ _ hr => nomatch hr
theorem drainMarker (tract input vc : Nat) : Statement (.drainMarker tract input vc) := fun _ _ hr => nomatch hr
theorem timePpsEdge : Statement (.timePpsEdge) := fun _ _ hr => nomatch hr
theorem ppsMissing : Statement (.ppsMissing) := fun _ _ hr => nomatch hr
theorem ctrlCommit (who : Requester) (type inst : Nat) : Statement (.ctrlCommit who type inst) := fun _ _ hr => nomatch hr
theorem quiesce (who : Requester) (type inst : Nat) (on : Bool) : Statement (.quiesce who type inst on) := fun _ _ hr => nomatch hr
theorem enable (who : Requester) (type inst : Nat) (on : Bool) : Statement (.enable who type inst on) := fun _ _ hr => nomatch hr
theorem blockQuiesced (type inst : Nat) : Statement (.blockQuiesced type inst) := fun _ _ hr => nomatch hr
theorem eventClear (who : Requester) (type inst : Nat) (bits during : BitVec 8) : Statement (.eventClear who type inst bits during) := fun _ _ hr => nomatch hr
theorem registerWrite (who : Requester) (addr size : Nat) (value : BitVec 64) : Statement (.registerWrite who addr size value) := fun _ _ hr => nomatch hr
theorem retrain (who : Requester) (port : Nat) : Statement (.retrain who port) := fun _ _ hr => nomatch hr
theorem arm0 (who : Requester) (tract : Nat) : Statement (.arm0 who tract) := fun _ _ hr => nomatch hr
theorem arm1 (who : Requester) (tract : Nat) : Statement (.arm1 who tract) := fun _ _ hr => nomatch hr
theorem flip (who : Requester) (tract : Nat) : Statement (.flip who tract) := fun _ _ hr => nomatch hr
theorem rteRankWrite (who : Requester) (tract version : Nat) (rank : BitVec 24) : Statement (.rteRankWrite who tract version rank) := fun _ _ hr => nomatch hr
theorem rteMtData (who : Requester) (tract : Nat) (entry : BitVec 32) : Statement (.rteMtData who tract entry) := fun _ _ hr => nomatch hr
theorem rteLtData (who : Requester) (tract : Nat) (entry : BitVec 32) : Statement (.rteLtData who tract entry) := fun _ _ hr => nomatch hr
theorem rteMcData (who : Requester) (tract : Nat) (entry : BitVec 64) : Statement (.rteMcData who tract entry) := fun _ _ hr => nomatch hr
theorem rteTimeSet (who : Requester) (ns : BitVec 64) : Statement (.rteTimeSet who ns) := fun _ _ hr => nomatch hr
theorem updProgCount (who : Requester) (die : Nat) (count : BitVec 32) : Statement (.updProgCount who die count) := fun _ _ hr => nomatch hr
theorem ctxActivate (who : Requester) (c : Nat) : Statement (.ctxActivate who c) := fun _ _ hr => nomatch hr
theorem ctxDeactivate (who : Requester) (c : Nat) : Statement (.ctxDeactivate who c) := fun _ _ hr => nomatch hr
theorem ctxReset (who : Requester) (c : Nat) : Statement (.ctxReset who c) := fun _ _ hr => nomatch hr
theorem ctxSqTail (who : Requester) (c : Nat) (tail : BitVec 32) : Statement (.ctxSqTail who c tail) := fun _ _ hr => nomatch hr
theorem ctxCqHead (who : Requester) (c : Nat) (head : BitVec 32) : Statement (.ctxCqHead who c head) := fun _ _ hr => nomatch hr
theorem commandTake (c : Nat) : Statement (.commandTake c) := fun _ _ hr => nomatch hr
theorem loadImage (c n place : Nat) : Statement (.loadImage c n place) := fun _ _ hr => nomatch hr
theorem run (c n : Nat) : Statement (.run c n) := fun _ _ hr => nomatch hr
theorem stop (c n : Nat) : Statement (.stop c n) := fun _ _ hr => nomatch hr
theorem tableSelect (c n : Nat) : Statement (.tableSelect c n) := fun _ _ hr => nomatch hr
theorem stake (c n : Nat) : Statement (.stake c n) := fun _ _ hr => nomatch hr
theorem monument (c n : Nat) : Statement (.monument c n) := fun _ _ hr => nomatch hr
theorem restore (c n place : Nat) : Statement (.restore c n place) := fun _ _ hr => nomatch hr
theorem restoreBegin (slot : Nat) : Statement (.restoreBegin slot) := fun _ _ hr => nomatch hr
theorem teardown (c n : Nat) : Statement (.teardown c n) := fun _ _ hr => nomatch hr
theorem easement (c n : Nat) : Statement (.easement c n) := fun _ _ hr => nomatch hr
theorem easementInForce (d : Nat) : Statement (.easementInForce d) := fun _ _ hr => nomatch hr
theorem freeze (c n : Nat) : Statement (.freeze c n) := fun _ _ hr => nomatch hr
theorem unfreeze (c n : Nat) : Statement (.unfreeze c n) := fun _ _ hr => nomatch hr
theorem saveContext (c n : Nat) : Statement (.saveContext c n) := fun _ _ hr => nomatch hr
theorem contextStopped (c : Nat) : Statement (.contextStopped c) := fun _ _ hr => nomatch hr
theorem resumeContext (c n : Nat) : Statement (.resumeContext c n) := fun _ _ hr => nomatch hr
theorem commandComplete (c n : Nat) : Statement (.commandComplete c n) := fun _ _ hr => nomatch hr
theorem coalesceTimeout (c : Nat) : Statement (.coalesceTimeout c) := fun _ _ hr => nomatch hr
theorem submit (port : Nat) (g : Datagram) : Statement (.submit port g) := fun _ _ hr => nomatch hr
theorem dgramWrite (port : Nat) (g : Datagram) : Statement (.dgramWrite port g) := fun _ _ hr => nomatch hr
theorem dgramRead (port : Nat) (g : Datagram) : Statement (.dgramRead port g) := fun _ _ hr => nomatch hr
theorem dgramAck (port : Nat) (g : Datagram) : Statement (.dgramAck port g) := fun _ _ hr => nomatch hr
theorem datagramResend (d seq : Nat) : Statement (.datagramResend d seq) := fun _ _ hr => nomatch hr
theorem domReset (who : Requester) (d : Nat) : Statement (.domReset who d) := fun _ _ hr => nomatch hr
theorem rstDomainHold (who : Requester) (hold : BitVec 32) : Statement (.rstDomainHold who hold) := fun _ _ hr => nomatch hr
theorem domainResetDone (d : Nat) : Statement (.domainResetDone d) := fun _ _ hr => nomatch hr
theorem apcAssign (who : Requester) (off size : Nat) (value : BitVec 64) : Statement (.apcAssign who off size value) := fun _ _ hr => nomatch hr
theorem thdSelWrite (who : Requester) (k n : Nat) (value : BitVec 32) : Statement (.thdSelWrite who k n value) := fun _ _ hr => nomatch hr
theorem thdGselWrite (who : Requester) (n : Nat) (value : BitVec 32) : Statement (.thdGselWrite who n value) := fun _ _ hr => nomatch hr
theorem thdTraceCtrl (who : Requester) (value : BitVec 32) : Statement (.thdTraceCtrl who value) := fun _ _ hr => nomatch hr
theorem traceBufferPlaced (d : Nat) (place : Option (Nat × Nat)) : Statement (.traceBufferPlaced d place) := fun _ _ hr => nomatch hr
theorem fwActivate (who : Requester) : Statement (.fwActivate who) := fun _ _ hr => nomatch hr
theorem fwCommit (who : Requester) : Statement (.fwCommit who) := fun _ _ hr => nomatch hr
theorem pwrCommit (who : Requester) : Statement (.pwrCommit who) := fun _ _ hr => nomatch hr
theorem powerTransitionDone : Statement (.powerTransitionDone) := fun _ _ hr => nomatch hr
theorem aclkSwitch (tract : Nat) : Statement (.aclkSwitch tract) := fun _ _ hr => nomatch hr
theorem pwrBrakeAssert : Statement (.pwrBrakeAssert) := fun _ _ hr => nomatch hr
theorem pwrBrakeRelease : Statement (.pwrBrakeRelease) := fun _ _ hr => nomatch hr
theorem droop (tract : Nat) : Statement (.droop tract) := fun _ _ hr => nomatch hr
theorem sensorSample (temps : List Int) : Statement (.sensorSample temps) := fun _ _ hr => nomatch hr
theorem railTelemetry (mv : List (Option Nat)) (mw : List Nat) : Statement (.railTelemetry mv mw) := fun _ _ hr => nomatch hr
theorem logFlush : Statement (.logFlush) := fun _ _ hr => nomatch hr
theorem managementWatchdog : Statement (.managementWatchdog) := fun _ _ hr => nomatch hr
theorem tlsConnect (h : TlsHello) : Statement (.tlsConnect h) := fun _ _ hr => nomatch hr
theorem firmwareUpdate (image : FwImage) : Statement (.firmwareUpdate image) := fun _ _ hr => nomatch hr
theorem attestation (nonce : BitVec 512) : Statement (.attestation nonce) := fun _ _ hr => nomatch hr
theorem configureDomain (d : Nat) (ch : DomChange) : Statement (.configureDomain d ch) := fun _ _ hr => nomatch hr
theorem clearFaultHistory (kind unit : Nat) : Statement (.clearFaultHistory kind unit) := fun _ _ hr => nomatch hr
theorem powerOn : Statement (.powerOn) := fun _ _ hr => nomatch hr
theorem coldReset (ns : Nat) : Statement (.coldReset ns) := fun _ _ hr => nomatch hr
theorem warmReset (ns : Nat) : Statement (.warmReset ns) := fun _ _ hr => nomatch hr
theorem resetFrame (bytes : List Byte) : Statement (.resetFrame bytes) := fun _ _ hr => nomatch hr
theorem resetRelease : Statement (.resetRelease) := fun _ _ hr => nomatch hr
theorem supplyCheck (sup : Supplies) : Statement (.supplyCheck sup) := fun _ _ hr => nomatch hr
theorem fuseLoad (crcGood : Bool) : Statement (.fuseLoad crcGood) := fun _ _ hr => nomatch hr
theorem optionLoading : Statement (.optionLoading) := fun _ _ hr => nomatch hr
theorem firmwareVerification : Statement (.firmwareVerification) := fun _ _ hr => nomatch hr
theorem lpddr5xTraining (failed : List Nat) : Statement (.lpddr5xTraining failed) := fun _ _ hr => nomatch hr
theorem nearTierSelfTest (banks gens : List Nat) : Statement (.nearTierSelfTest banks gens) := fun _ _ hr => nomatch hr
theorem linkTraining (rs : List Training) (svc : List Bool) : Statement (.linkTraining rs svc) := fun _ _ hr => nomatch hr
theorem ready : Statement (.ready) := fun _ _ hr => nomatch hr
theorem regRead (who : Requester) (addr size : Nat) : Statement (.regRead who addr size) := fun _ _ hr => nomatch hr
theorem dgramRegRead (port : Nat) (g : Datagram) : Statement (.dgramRegRead port g) := fun _ _ hr => nomatch hr
theorem control (p : Packet) : Statement (.control p) := fun _ _ hr => nomatch hr
theorem guestFault (d addr : Nat) : Statement (.guestFault d addr) := fun _ _ hr => nomatch hr
theorem svcLinkDown (port : Nat) : Statement (.svcLinkDown port) := fun _ _ hr => nomatch hr
theorem svcPortUp (port : Nat) : Statement (.svcPortUp port) := fun _ _ hr => nomatch hr

end Laws.CoreBound
end Sys2Proof
end

