-- ==== Sys2Proof/Laws/Tiles.lean ====
section
/-!
SUPPORT. Tile registers: what a write of one does, what a meaning that writes one changes, and how a tile reads from a local store (R197, R198).
-/
namespace Sys2Proof.Machine

/-- A tile register after a write of one (R197). -/
theorem CoreSt.setTile_tile (c : CoreSt) (r i : Nat) (t : Tile) : (c.setTile r t).tile i = if i = r then t else c.tile i := by
  unfold CoreSt.setTile CoreSt.tile; rw [Tab.get_put]
  by_cases h : r = i
  · subst h; simp
  · simp [h, Ne.symm h]

/-- An element slot of a tile made from its header and slots. -/
theorem Tile.slot_mk (h : Nat) (xs : List Nat) (e : Nat) : Tab.get 0 (Tile.mk' h xs).slots e = BitVec.ofNat 32 (xs.getD e 0) := by
  unfold Tile.mk'
  rw [Tab.get_ofList, List.getD_eq_getElem?_getD, List.getElem?_map, List.getD_eq_getElem?_getD]
  cases xs[e]? <;> rfl

/-- Going on to the next instruction leaves the tile registers alone. -/
theorem CoreSt.tile_goOn (c : CoreSt) (n r : Nat) : (c.goOn n).tile r = c.tile r := by simp [CoreSt.tile]
/-- And their slots. -/
theorem CoreSt.slot_goOn (c : CoreSt) (n r e : Nat) : (c.goOn n).slot r e = c.slot r e := by simp [CoreSt.slot, CoreSt.tile_goOn]

/-- A meaning that counts its tallies and puts a tile writes that tile and nothing else. -/
theorem writesTile_of (s : State) (q r : Nat) (t : Tal) (w : Nat) (f : Fmt) (el : Array Nat) (hf : f ≠ .f64)
   (o : Host.Outcome State Fault Refusal)
   (ho : o = .next (s.onMach fun m => (m.tally tyCor q t).simple q fun c => c.putTile r w f el)) :
   WritesTile o s q r (BitVec.ofNat 64 w) (fun e => BitVec.ofNat 32 (el.getD e 0)) t := by
  subst ho
  refine ⟨_, rfl, rfl, ?_⟩
  obtain ⟨h1, h2⟩ := Mach.tally_simple_spec s.mach q t fun c => c.putTile r w f el
  show _ ∧ _ ∧ _ ∧ _ ∧ _
  have hp : (s.mach.getCore q).putTile r w f el = (s.mach.getCore q).setTile r (Tile.mk' w ((List.range 1024).map fun e => el.getD e 0)) := by
    unfold CoreSt.putTile; cases f <;> first | rfl | exact absurd rfl hf
  refine ⟨?_, ?_, ?_, ?_, h2⟩
  · show (((s.onMach _).mach.getCore q).tile r).hdr = _
    simp only [State.onMach]
    rw [h1, CoreSt.tile_goOn, hp, CoreSt.setTile_tile, if_pos rfl]; rfl
  · intro e he
    simp only [State.onMach]
    rw [h1, CoreSt.slot_goOn, hp, CoreSt.slot, CoreSt.setTile_tile, if_pos rfl, Tile.slot_mk]
    simp [List.getD_eq_getElem?_getD, he]
  · intro r' hr
    simp only [State.onMach]
    rw [h1, CoreSt.tile_goOn, hp, CoreSt.setTile_tile, if_neg hr]
  · simp only [State.onMach]
    rw [h1, hp]
    have := CoreSt.goesOn_goOn ((s.mach.getCore q).setTile r (Tile.mk' w ((List.range 1024).map fun e => el.getD e 0))) s.mach.now
    unfold GoesOn at this ⊢
    rw [this]; rfl

/-- A reader of a core's local store, in sound memory, reads its bytes, wrapping in it (R198). -/
theorem Mach.lsReader_eq (m : Mach) (q off o n : Nat) (hn : n ≤ 2^15) (sound : m.granErr = []) : m.lsReader q off o n = (List.range n).map fun i => m.storeByte q (off + o + i) := by
  unfold Mach.lsReader; rw [Mach.lsRead_sound _ _ _ _ sound, Mach.lsBytes_eq _ _ _ _ hn]

/-- Little-endian numbers of w bytes cut from consecutive bytes. -/
theorem splitLe_range (w : Nat) (g : Nat → Byte) : ∀ (n k : Nat),
   splitLe w n ((List.range (n * w)).map fun i => g (k + i)) = (List.range n).map fun e => leNat ((List.range w).map fun i => g (k + e * w + i))
  | 0, k => rfl
  | n+1, k => by
    have ht : ((List.range ((n+1) * w)).map fun i => g (k + i)).take w = (List.range w).map fun i => g (k + i) := by
      apply List.ext_getElem
      · simp; rw [Nat.add_one_mul]; omega
      · intro i h1 h2; simp
    have hd : ((List.range ((n+1) * w)).map fun i => g (k + i)).drop w = (List.range (n * w)).map fun i => g (k + w + i) := by
      apply List.ext_getElem
      · simp; rw [Nat.add_one_mul]; omega
      · intro i h1 h2; simp; congr 1; omega
    rw [splitLe, ht, hd, splitLe_range w g n (k+w), List.range_succ_eq_map, List.map_cons, List.map_map]
    congr 1
    · simp
    · apply List.map_congr_left
      intro e _
      simp only [Function.comp]
      congr 2
      funext i; congr 1; rw [Nat.succ_eq_add_one, Nat.add_one_mul]; omega

end Sys2Proof.Machine
end

