-- ==== Sys2Proof/Tests/Slice0.lean ====
section
/-!
SUPPORT. The model's own tests: terms that are no commands, small steps with results worked out from the spec, and for every
statement a state and operands that meet its hypotheses, clause by clause (a theorem `witness_<statement>…`).
-/
namespace Sys2Proof.Tests
open Sys2Proof Sys2Proof.Machine

-- One theorem at a time: evaluations in the kernel that wait for one another would each hold a thread.
set_option Elab.async false

/-! ## Well-formedness: an ill-formed term for each check -/

/-- Each field of a core instruction, of an update instruction and of a packet and datagram header just beyond its place. -/
theorem test_fields_beyond_their_places_are_ill_formed :
    (∀ f ∈ ([{ pred := 8 }, { a := 32 }, { b := 32 }, { c := 32 }, { flags := 8 }, { imm := 2 ^ 32 }] : List CoreFields),
      (Instr.add 0 f).wf = false) ∧
    (∀ u ∈ ([{ d := 32 }, { a := 64 }, { b := 64 }, { c := 64 }, { f := 8 }, { imm := 2 ^ 32 }] : List UpdFields),
      (Instr.updAdd 0 0 u).wf = false) ∧
    (∀ p ∈ (let p : Packet := { dst := 0, src := 0, tc := 0, op := 0 }
            [{ p with dst := 2 ^ 24 }, { p with src := 2 ^ 24 }, { p with tc := 4 }, { p with domain := 16 }, { p with op := 256 },
             { p with job := 2 ^ 16 }, { p with addr := 2 ^ 48 }, { p with ctr := 256 }, { p with inject := 2 ^ 24 },
             { p with len := 513 }, { p with arg := 2 ^ 32 }, { p with data := List.replicate 513 0 }] : List Packet),
      (Instr.count p).wf = false) ∧
    (∀ g ∈ (let g : Datagram := { type := 0, domain := 0 }
            [{ g with version := 256 }, { g with type := 256 }, { g with domain := 256 }, { g with zero := 256 },
             { g with context := 2 ^ 16 }, { g with length := 2 ^ 16 }, { g with addr := 2 ^ 64 }] : List Datagram),
      (Instr.submit 0 g).wf = false) := by
  decide +kernel

/-- Each unit number just beyond the units the module has, and requesters that are none. -/
theorem test_units_beyond_the_module_are_ill_formed :
    ∀ i ∈ ([.add 10240 {}, .updAdd 2 0 {}, .updAdd 0 512 {}, .routedTmmaStart 640, .phaseStart 64 0, .phaseStart 0 640,
            .migrationSourceFree 0 4096 0, .undoLogFull 2 0, .aliveDue 0 2048, .packetRoute 4 0, .packetRoute 0 18,
            .frameAckTimeout 48, .drainMarker 0 14 0, .drainMarker 0 0 8, .ctrlCommit .mgmt 256 0, .ctrlCommit .mgmt 0 16384,
            .ctrlCommit (.host 16) 0 0, .ctrlCommit (.remote 2 { type := 0, domain := 0 }) 0 0,
            .ctrlCommit (.packet { dst := 0, src := 0, tc := 4, op := 0x40 }) 0 0, .registerWrite .mgmt 0 9 0, .retrain .mgmt 48,
            .arm0 .mgmt 4, .rteRankWrite .mgmt 0 2 0, .updProgCount .mgmt 2 0, .ctxActivate .mgmt 16384, .commandTake 16384,
            .easementInForce 16, .submit 2 { type := 0, domain := 0 }, .datagramResend 0 (2 ^ 32), .thdSelWrite .mgmt 640 0 0,
            .aclkSwitch 4, .clearFaultHistory 16 0, .svcPortUp 2,
            .frameReceived 0 { content := .inl { dst := 0, src := 0, tc := 4, op := 0x40 } }] : List Instr),
      i.wf = false := by
  decide +kernel

/-- Commands at the ends of those ranges are commands. -/
theorem test_commands_at_the_ends_of_their_ranges :
    ∀ i ∈ ([.add 10239 { pred := 7, a := 31, b := 31, c := 31, flags := 7, imm := 2 ^ 32 - 1 }, .updAdd 1 511 { d := 31, a := 63 },
            .phaseStart 63 639, .packetRoute 3 17, .drainMarker 3 13 1, .registerWrite (.host 15) 0 8 0,
            .frameReceived 47 { content := .inr {} }, .powerOn] : List Instr),
      i.wf = true := by
  decide +kernel

/-! ## Core programs -/

/-- A module of which only core q is used: it runs and stands at the word of CLASS cls and OP op with the fields f, behind the
instructions that `c` holds; the program ends there. -/
def coreAt (q : Nat) (f : CoreFields) (cls op : Nat) (c : CoreSt := {}) : Mach :=
  { cores := [(q, { c with run := .running, ibuf := c.ibuf ++ [f.word cls op], pc := BitVec.ofNat 11 c.ibuf.length })] }

/-- Every core instruction of the table issues somewhere, on the first core and on the last, with all fields 0 and with every
field at its greatest value but PRED, where memory is canonical and free of code errors: what LocalStoreLoadAndStore, RandomDraws, VectorInt32,
VectorBinary32, MaskFormation and the other statements about core instructions ask for, beside what the theorems below show. -/
theorem witness_core_instructions :
    ∀ q ∈ [0, 10239], ∀ f ∈ ([{}, { a := 31, b := 31, c := 31, flags := 7, imm := 2 ^ 32 - 1 }] : List CoreFields),
      ∀ x ∈ coreCommands q f [] [],
        let m := coreAt q f x.2.1 x.2.2
        Issues m q f x.2.1 x.2.2 ∧ m.memWf ∧ m.granErr = [] ∧ (m.getCore q).bind.check = 0 := by
  unfold Issues; decide +kernel

/-- CtlResults: the greatest FLAGS of CMP, CMPI and PSET, and LIDX with and without the level. -/
theorem witness_CtlResults :
    Issues (coreAt 0 { flags := 5 } 0 0x12) 0 { flags := 5 } 0 0x12 ∧ Issues (coreAt 0 { flags := 5 } 0 0x13) 0 { flags := 5 } 0 0x13 ∧
    Issues (coreAt 0 { flags := 3 } 0 0x16) 0 { flags := 3 } 0 0x16 ∧ Issues (coreAt 0 {} 0 0x17) 0 {} 0 0x17 := by
  unfold Issues; decide +kernel

/-- ControlFlow: each case of NOP, BR, LOOP and HALT. -/
theorem witness_ControlFlow :
    let nop : Word := ({} : CoreFields).word 0 0
    let lv : LoopLvl := { start := 0, len := 1, count := 2, idx := 0 }
    -- a program that goes on behind the instruction it stands at
    let early (f : CoreFields) (op : Nat) (ls : List LoopLvl) : Mach :=
      { cores := [(0, { run := .running, ibuf := [f.word 0 op, nop], loops := ls })] }
    (Issues (early {} 0 []) 0 {} 0 0 ∧ ((early {} 0 []).getCore 0).pc.toNat + 1 < ((early {} 0 []).getCore 0).ibuf.length) ∧
    (let m := coreAt 0 {} 0 0
     Issues m 0 {} 0 0 ∧ (m.getCore 0).loops = [] ∧ (m.getCore 0).ibuf.length ≤ (m.getCore 0).pc.toNat + 1) ∧
    (let m := early {} 0 [lv]
     Issues m 0 {} 0 0 ∧ (m.getCore 0).loops = [lv] ∧ (m.getCore 0).pc.toNat + 1 = lv.start + lv.len ∧ lv.idx + 1 < lv.count ∧
       lv.start < (m.getCore 0).ibuf.length) ∧
    (let lv := { lv with idx := 1 }
     let m := early {} 0 [lv]
     Issues m 0 {} 0 0 ∧ (m.getCore 0).loops = [lv] ∧ (m.getCore 0).pc.toNat + 1 = lv.start + lv.len ∧ ¬ lv.idx + 1 < lv.count ∧
       (m.getCore 0).pc.toNat + 1 < (m.getCore 0).ibuf.length) ∧
    (let f : CoreFields := { imm := 2 ^ 32 - 1 }
     let m : Mach := { cores := [(0, { run := .running, ibuf := [nop, f.word 0 2], pc := 1 })] }
     Issues m 0 f 0 2 ∧ ((m.getCore 0).pc.toNat : Int) + ((BitVec.ofNat 32 f.imm).signExtend 64).toInt = (0 : Nat) ∧
       0 < (m.getCore 0).ibuf.length) ∧
    (let f : CoreFields := { imm := 0 }
     let m := early f 3 []
     Issues m 0 f 0 3 ∧ BitVec.ofNat 64 (f.imm / 65536) = 0#64 ∧
       (m.getCore 0).pc.toNat + 1 + f.imm % 4096 < (m.getCore 0).ibuf.length) ∧
    (let f : CoreFields := { imm := 65537 }
     let m := early f 3 []
     Issues m 0 f 0 3 ∧ BitVec.ofNat 64 (f.imm / 65536) ≠ 0#64 ∧ 0 < f.imm % 4096 ∧
       (m.getCore 0).pc.toNat + 1 < (m.getCore 0).ibuf.length) ∧
    Issues (coreAt 0 {} 0 1) 0 {} 0 1 := by
  unfold Issues; decide +kernel

/-- ClosureInstructions: SIGNAL to its own cluster, WAIT met and not met, DRAIN with and without a transfer. -/
theorem witness_ClosureInstructions :
    (let c : CoreSt := { s := [(1, 0xFFFFFF)] }
     let m := coreAt 0 { b := 1, imm := 1 } 2 0 c
     Issues m 0 { b := 1, imm := 1 } 2 0 ∧ ((m.getCore 0).sreg 1).toNat % 2 ^ 24 = 0xFFFFFF) ∧
    (let f : CoreFields := { b := 1 }
     let cnt (m : Mach) : BitVec 32 := Tab.get 0 (m.getClu 0).counters 0
     let t (m : Mach) : BitVec 32 := ((m.getCore 0).sreg 1).setWidth 32
     (let m := coreAt 0 f 2 1 { s := [(1, 0x80000001)] }
      Issues m 0 f 2 1 ∧ (cnt m - t m).toNat < 2 ^ 31) ∧
     (let m := coreAt 0 f 2 1 { s := [(1, 0x80000000)] }
      Issues m 0 f 2 1 ∧ ¬ (cnt m - t m).toNat < 2 ^ 31)) ∧
    (let m := coreAt 0 {} 1 4
     Issues m 0 {} 1 4 ∧ (m.getCore 0).xfers = []) ∧
    (let d : XferDesc := { src := 0, dst := 0, srcAt := 0, dstAt := 0, srcGlobal := false, dstGlobal := false, rowBytes := 0,
                           rows := 0, srcStride := 0, dstStride := 0, counter := 0, increment := 0, op := 0, bad := false }
     let m := coreAt 0 {} 1 4 { xfers := [{ tag := 0, ord := 0, desc := d, reads := [], writes := [1] }] }
     Issues m 0 {} 1 4 ∧ (m.getCore 0).xfers ≠ []) := by
  unfold Issues; decide +kernel

/-- SkippedInstructions: PRED p1, not set, and PNEG on p0. -/
theorem witness_SkippedInstructions :
    ∀ f ∈ ([{ pred := 1 }, { pneg := true }, { pred := 7 }] : List CoreFields), ∀ x ∈ coreCommands 0 f [] [],
      let m := coreAt 0 f x.2.1 x.2.2
      m.standsAt 0 (f.word x.2.1 x.2.2) = true ∧ (m.getCore 0).pred f.pred = f.pneg ∧ (coreAt 0 f 0 127).standsAt 0 (f.word x.2.1 x.2.2) = false := by
  decide +kernel

/-! ## Tiles and conversions -/

/-- A tile whose header has the fields of `h` and whose slots are zero but for those listed. -/
def tileOf (h : TileHdr) (slots : List (Nat × BitVec 32) := []) : Tile := { hdr := BitVec.ofNat 64 h.toWord, slots := slots }

/-- A dense header of a format with NNZ n. -/
def dense (fmt : Nat) (n : Nat := 0) : TileHdr :=
  { format := fmt, dense := true, ovf := false, scale := 0, nnz := n, whint := 0x80, amax := 0 }

/-- A module of which core 0 is used, which stands at an instruction and holds these bytes at the start of its local store. -/
def storeAt (f : CoreFields) (cls op : Nat) (mem : List (Nat × Byte)) (c : CoreSt := {}) : Mach :=
  { coreAt 0 f cls op c with mem := mem.map fun x => (storeBase 0 + x.1, x.2) }

/-- TileRegisterInstructions: TLD of each format and of an invalid header, TST, TZERO and TTRANS. -/
theorem witness_TileRegisterInstructions :
    (∀ fmt ∈ [0, 1, 2, 3, 4],
      let m := storeAt {} 3 0 [(7, BitVec.ofNat 8 (16 * fmt + 8))]
      let h := TileHdr.ofWord (m.storeNat 0 0 8)
      Issues m 0 {} 3 0 ∧ m.memWf ∧ h.invalid = false ∧ h.dense = true ∧ h.format = fmt) ∧
    (let m := storeAt {} 3 0 [(7, 0x20)]
     let h := TileHdr.ofWord (m.storeNat 0 0 8)
     Issues m 0 {} 3 0 ∧ m.memWf ∧ h.invalid = true ∧ h.format ≠ 5) ∧
    (∀ fmt ∈ [0, 1, 3, 4],
      let m := coreAt 0 {} 3 1 { t := [(0, tileOf (dense fmt))] }
      let h := TileHdr.ofWord ((m.getCore 0).tile 0).hdr.toNat
      Issues m 0 {} 3 1 ∧ h.invalid = false ∧ h.dense = true ∧ h.format = fmt) ∧
    (let m := coreAt 0 {} 3 2 {}
     Issues m 0 {} 3 2 ∧ (m.getCore 0).a0.mode ≠ .f64 ∧ (m.getCore 0).a1.mode ≠ .f64) ∧
    (let m := coreAt 0 {} 3 2 { a0 := { mode := .f64 }, a1 := { mode := .f64 } }
     Issues m 0 {} 3 2 ∧ (m.getCore 0).a0.mode = .f64 ∧ (m.getCore 0).a1.mode = .f64) ∧
    (let m := coreAt 0 {} 3 7 { t := [(0, tileOf (dense 4))] }
     let h := TileHdr.ofWord ((m.getCore 0).tile 0).hdr.toNat
     Issues m 0 {} 3 7 ∧ h.invalid = false ∧ h.dense = true ∧ h.format = 4) := by
  unfold Issues; decide +kernel

/-- Multiplies: TMMA on the array (NNZ at the threshold) and routed (NNZ below it), and TMMA32 on an F32 accumulator. -/
theorem witness_Multiplies :
    (let m := coreAt 0 {} 3 3 { t := [(0, tileOf (dense 0 256))] }
     Issues m 0 {} 3 3 ∧ (m.getCore 0).bind.check = 0 ∧ ¬ ((m.getCore 0).tileHdr 0).nnz < (m.getSpr 0).threshold.toNat) ∧
    (let m := coreAt 0 {} 3 3 { t := [(0, tileOf (dense 1 255))] }
     let h := m.getHdr (hdrKey tySpr 0)
     Issues m 0 {} 3 3 ∧ (m.getCore 0).bind.check = 0 ∧ (m.getSpr 0).threshold.toNat ≠ 0 ∧ ((m.getCore 0).tileHdr 0).format ≤ 1 ∧
       ((m.getCore 0).tileHdr 0).nnz < (m.getSpr 0).threshold.toNat ∧ h.enable = true ∧ h.quiesce = false) ∧
    (let m := coreAt 0 {} 3 4 { t := [(0, tileOf (dense 3))], a0 := { mode := .f32 } }
     Issues m 0 {} 3 4 ∧ (m.getCore 0).bind.check = 0 ∧ (m.getCore 0).a0.mode = .f32 ∧ ((m.getCore 0).view 0).bad = false ∧
       ((m.getCore 0).view 0).fmt ≠ .f64) := by
  unfold Issues; decide +kernel

/-- RoutedMultiplies: a routed TMMA not started and started, and an instruction at its accumulator. -/
theorem witness_RoutedMultiplies :
    let r : Routed := { core := 0, pc := 0, accIx := 0, tb := 0, tc := 0, s29 := 0, s30 := 0, s31 := 0, check := false, tiles := [],
                        started := false, flt1 := [], flt2 := [] }
    (∀ b ∈ [false, true],
      let m : Mach := { spr := [(639, { routed := [{ r with started := b }] })] }
      m.aclkOn = true ∧ (m.getSpr 639).routed = [{ r with started := b }] ∧ ({ r with started := b } : Routed).check = false) ∧
    ∀ op ∈ [2, 3, 4, 6, 8, 9],
      let m : Mach := { coreAt 0 {} 3 op with spr := [(0, { routed := [r] })] }
      m.standsAt 0 (({} : CoreFields).word 3 op) = true ∧ (m.getCore 0).pred 0 ≠ false ∧ r ∈ (m.getSpr 0).routed ∧ r.accIx = 0 := by
  decide +kernel

/-- Conversions: CVT of a binary16 tile and TOUT into L8 with scale −128, and into binary32; CAMAX. -/
theorem witness_Conversions :
    (∀ x ∈ [(0x80000000, Fmt.l8), (0x7F000003, Fmt.f16)],
      let f : CoreFields := { imm := x.1 }
      let m := coreAt 0 f 7 0 { t := [(0, tileOf (dense 3))] }
      Fmt.ofCode (f.imm % 16) = some x.2 ∧ x.2 ≠ .f64 ∧ f.imm / 2 ^ 4 % 2 = 0 ∧ f.imm / 2 ^ 8 % 4 = 0 ∧ Issues m 0 f 7 0 ∧
        ((m.getCore 0).view 0).bad = false ∧ Issues (coreAt 0 f 3 6) 0 f 3 6) ∧
    Issues (coreAt 0 {} 7 1) 0 {} 7 1 := by
  unfold Issues; decide +kernel

/-- Every element of a list of equal elements is that element. -/
theorem getD_replicate {α : Type} (a : α) (n e : Nat) : (List.replicate n a).getD e a = a := by
  rw [List.getD_eq_getElem?_getD, List.getElem?_replicate]
  split <;> rfl

/-- A tile of zeros as an operand. -/
theorem view_of_zeros :
    let t := ((coreAt 0 {} 7 2 { t := [(0, tileOf (dense 0))] }).getCore 0).view 0
    t.bad = false ∧ t.fmt = .l8 ∧ t.hdr = dense 0 ∧ t.elems.toList = List.replicate 1024 0 := by
  decide +kernel

/-- The image of an accumulator in mode LOG whose elements are zero. -/
theorem image_of_zeros :
    ((storeAt {} 3 9 [(0, 1)] { a0 := { mode := .log } }).getCore 0).accImage 0 = 1 :: List.replicate 8207 0 := by
  have h : ((((storeAt {} 3 9 [(0, 1)] { a0 := { mode := .log } }).getCore 0).accSrc 0).nats) = List.replicate 1024 0 := by
    decide +kernel
  unfold CoreSt.accImage
  dsimp only
  rw [h, List.flatMap_replicate, show leBytes 8 0 = List.replicate 8 0 from rfl, List.flatten_replicate_replicate]
  rfl

/-- StoringInstructions, CRED64: values that no contribution clamps. -/
theorem witness_StoringInstructions_cred64 :
    let m := coreAt 0 {} 7 2 { t := [(0, tileOf (dense 0))] }
    let t := (m.getCore 0).view 0
    Issues m 0 {} 7 2 ∧ ∀ v ∈ t.vals.toList, (red64Contribution v (sgn 16 (((m.getCore 0).sreg 0).toNat % 2 ^ 16))).2 = false := by
  intro m t
  refine ⟨by unfold Issues; decide +kernel, fun v h => ?_⟩
  obtain ⟨hb, hf, hh, he⟩ := view_of_zeros
  have bits (e : Nat) : t.bits e = 0 := by
    unfold TView.bits
    rw [Array.getD_eq_getD_getElem?, ← Array.getElem?_toList, he, ← List.getD_eq_getElem?_getD, getD_replicate]
  have : v = {} := by
    simp only [TView.vals, TView.read, List.map_toArray, List.mem_map, bits] at h
    obtain ⟨e, -, rfl⟩ := h
    rw [hb, hf, hh]; decide
  rw [this]; decide

/-- StoringInstructions, TACC_LD: the image of an accumulator in mode LOG in the local store. -/
theorem witness_StoringInstructions_taccLd :
    let m := storeAt {} 3 9 [(0, 1)] { a0 := { mode := .log } }
    let c := m.getCore 0
    let a := c.accSrc 0
    (Issues m 0 {} 3 9 ∧ m.memWf ∧ a.mode = .log ∧ a.ovf = (c.acc 0).ovf ∧ -2 ^ 15 ≤ a.wa ∧ a.wa < 2 ^ 15 ∧
      (∀ e, e < 1024 → -(2 ^ 47 - 1) ≤ (Tab.get 0 a.vals e).toInt ∧ (Tab.get 0 a.vals e).toInt ≤ 2 ^ 47 - 1) ∧ c.a1.mode ≠ .f64) ∧
    ∀ i, i < 8208 → m.storeByte 0 i = (c.accImage 0).getD i 0 := by
  intro m c a
  refine ⟨by unfold Issues; decide +kernel, fun i hi => ?_⟩
  rw [show c.accImage 0 = _ from image_of_zeros]
  cases i with
  | zero => decide
  | succ i =>
    have : m.storeByte 0 (i + 1) = 0 := by
      simp only [Mach.storeByte, Mach.byteAt, m, storeAt, List.map]
      simp [Tab.get, storeBase]
      omega
    rw [this, List.getD_cons_succ, getD_replicate]

/-- StoringInstructions, SENC: the greatest NNZ at which the sparse layout is the smaller. -/
theorem witness_StoringInstructions_senc :
    ∀ x ∈ [(0, Fmt.l8, 895), (1, Fmt.l16, 959)],
      let m := coreAt 0 {} 4 1 { t := [(0, tileOf (dense x.1) ((List.range x.2.2).map fun i => (i, 1)))] }
      let t := (m.getCore 0).view 0
      Issues m 0 {} 4 1 ∧ t.bad = false ∧ t.fmt = x.2.1 ∧ t.elems.toList.countP t.fmt.nonzero = x.2.2 := by
  unfold Issues; decide +kernel

/-- SparseLayoutReadsBack: all hypotheses at the greatest NNZ of each format. -/
theorem witness_SparseLayoutReadsBack :
    ∀ x ∈ [(0, Fmt.l8, 895), (1, Fmt.l16, 959)],
      let h := dense x.1
      let xs := List.replicate x.2.2 1 ++ List.replicate (1024 - x.2.2) 0
      h.format = x.2.1.toCode ∧ xs.length = 1024 ∧ (∀ e ∈ xs, e < 2 ^ x.2.1.bits) ∧ xs.countP x.2.1.nonzero = x.2.2 := by
  decide +kernel

/-- SparseMaskInstructions: SDEC, SMCHK of a row with 4 and with 5 non-zero elements, SMGRAD of a mask that is none. -/
theorem witness_SparseMaskInstructions :
    (let m := storeAt {} 4 2 [(7, 0x08)]
     Issues m 0 {} 4 2 ∧ m.memWf ∧
       (loadTile true fun o n => (List.range n).map fun i => m.storeByte 0 (o + i)).fmt ≠ .f64) ∧
    (∀ n ∈ [4, 5],
      let m := coreAt 0 {} 4 3 { t := [(0, tileOf (dense 0) ((List.range n).map fun i => (i, 1)))] }
      let t := (m.getCore 0).view 0
      Issues m 0 {} 4 3 ∧ t.bad = false ∧ (List.range 8).countP (fun j => t.fmt.nonzero (t.bits j)) = n) ∧
    (let m := storeAt {} 4 4 ((7, 0x08) :: (List.range 5).map fun i => (8 + i, 1))
     let r := loadTile false fun o n => (List.range n).map fun i => m.storeByte 0 (o + i)
     Issues m 0 {} 4 4 ∧ m.memWf ∧ (m.getHdr (hdrKey tySpr 0)).quiesce = false ∧ (m.getHdr (hdrKey tySpr 0)).enable = true ∧
       transposable (fun i j => r.fmt.nonzero (r.elems.getD (32 * i + j) 0)) = false) := by
  unfold Issues; decide +kernel

/-- SparseMaskInstructions: SMGRAD of a mask; a tile whose header is invalid reads as 1,024 zeros, which are one. -/
theorem witness_SparseMaskInstructions_mask :
    let m := storeAt {} 4 4 [(7, 0x68)]
    let r := loadTile false fun o n => (List.range n).map fun i => m.storeByte 0 (o + i)
    Issues m 0 {} 4 4 ∧ transposable (fun i j => r.fmt.nonzero (r.elems.getD (32 * i + j) 0)) = true := by
  intro m r
  refine ⟨by unfold Issues; decide +kernel, ?_⟩
  have h : r.fmt = .l8 ∧ r.elems = List.replicate 1024 0 := by decide +kernel
  rw [h.1, h.2]
  simp only [getD_replicate]
  decide +kernel

/-! ## Vectors -/

/-- The vector statements: every clause's instruction issues with the fields its hypotheses ask for, at the ends of their ranges. -/
theorem witness_vector_statements :
    -- VectorInt32, and VCMP's greatest condition
    (∀ f ∈ ([{ imm := 2 ^ 31 }, { imm := 2 ^ 31 + 5 }] : List CoreFields), f.imm / 2 ^ 31 % 2 = 1 ∧ f.imm % 8 ≤ 5 ∧
      ∀ op ∈ [0x03, 0x04, 0x05, 0x07, 0x08, 0x09, 0x0B], Issues (coreAt 0 f 5 op) 0 f 5 op) ∧
    -- VectorBinary32
    (∀ f ∈ ([{ imm := 2 }, { imm := 2 ^ 31 - 6 }] : List CoreFields), f.imm / 2 ^ 31 % 2 = 0 ∧ f.imm % 8 = 2 ∧
      ∀ op ∈ [0x03, 0x04, 0x05, 0x06, 0x07, 0x08, 0x09, 0x0B, 0x19], Issues (coreAt 0 f 5 op) 0 f 5 op) ∧
    -- VectorMoves
    (∀ f ∈ ([{}, { imm := 0x3F04 }] : List CoreFields), f.imm % 8 ≤ 4 ∧ Issues (coreAt 0 f 5 0x0D) 0 f 5 0x0D) ∧
    (∀ f ∈ ([{}, { imm := 0x32 }] : List CoreFields), f.imm % 4 ≠ 3 ∧ f.imm / 2 ^ 7 % 2 = 0 ∧ f.flags % 8 = 0 ∧
      Issues (coreAt 0 f 5 0x0E) 0 f 5 0x0E ∧ Issues (coreAt 0 f 5 0x0F) 0 f 5 0x0F) ∧
    (let f : CoreFields := { imm := 0x20 }
     f.imm / 2 ^ 5 % 2 = 1 ∧ Issues (coreAt 0 f 5 0x1A) 0 f 5 0x1A) ∧
    -- VectorReductionsAndConversion
    (∀ f ∈ ([{}, { imm := 9 }] : List CoreFields), f.imm / 2 % 4 = 0 ∧ Issues (coreAt 0 f 5 0x10) 0 f 5 0x10) ∧
    (let f : CoreFields := { imm := 2 ^ 31 }
     Issues (coreAt 0 f 5 0x11) 0 f 5 0x11 ∧ ∃ j, 63 ≤ j ∧ j < 64 ∧ ((coreAt 0 f 5 0x11).getCore 0).isActive f j = true) ∧
    (let f : CoreFields := { imm := 0x804 }
     Issues (coreAt 0 f 5 0x16) 0 f 5 0x16) := by
  unfold Issues
  refine ⟨?_, ?_, ?_, ?_, ?_, ?_, ⟨?_, 63, ?_⟩, ?_⟩ <;> decide +kernel

/-- VectorFunctions: an input of each clause, at its boundary: 128, below −160, zero, a negative value, 1, and 0x3FF00000. -/
theorem witness_VectorFunctions :
    (∀ b ∈ [0x43000000, 0xC3200001, 0, 0x80000000, 0x80800000, 0x3F800000, 0x3FF00000],
      b < 2 ^ 32 ∧ (Ieee.b32.read b).nan = false ∧ (Ieee.b32.read b).inf = false) ∧
    (Ieee.b32.read 0x43000000).val.lt ⟨false, 128, 0⟩ = false ∧ (Ieee.b32.read 0xC3200001).val.lt ⟨true, 160, 0⟩ = true ∧
    (Ieee.b32.read 0xC3200000).val.lt ⟨true, 160, 0⟩ = false ∧ (Ieee.b32.read 0x80000000).val.mag = 0 ∧
    (Ieee.b32.read 0x80800000).val.mag ≠ 0 ∧ (Ieee.b32.read 0x80800000).val.neg = true := by
  decide +kernel

/-! ## Transfers and the engines of a cluster -/

/-- A job of context 0 and domain 0, in slot 0, whose image copy is empty. -/
def job0 : Job := { id := 1, ctx := 0, domain := 0, imageAt := 2 ^ 24, imageLen := 0, digest := [] }

/-- A module with that job, whose context reaches the first 2^24 bytes of slow memory at the same addresses. -/
def world (mem : List (Nat × Byte)) : Mach :=
  { cmt := { jobs := [(0, some job0)] }, mem := mem,
    ctx := [(0, { job := some 0, regions := [{ base := 0, size := 2 ^ 24, target := 0, station := 0x800, read := true, write := true, add := true }] })] }

/-- Core 0 of a module stands at an instruction. -/
def standing (m : Mach) (f : CoreFields) (cls op : Nat) (c : CoreSt := {}) : Mach := { m with cores := (coreAt 0 f cls op c).cores }

/-- Bytes as memory cells from an offset on, zero bytes left out. -/
def cells (a : Nat) (bs : List Byte) : List (Nat × Byte) :=
  ((List.range bs.length).map fun i => (a + i, bs.getD i 0)).filter fun x => x.2 != 0

/-- No domain traces where no trace register has been written. -/
theorem untraced_of_reset {m : Mach} (h : m.thdDom = []) : m.untraced := fun d => by
  unfold Mach.getThdDom
  rw [h]
  rfl

/-- A descriptor of who submitted nothing in particular. -/
def org0 : Origin := { core := 0, ctx := 0, slot := 0, tag := 0 }

/-- A COPY of one row of n bytes from context address `src` to `dst`, adding 1 to counter 255 of its own cluster. -/
def copyBytes (src dst n : Nat) : List Byte :=
  leBytes 8 src ++ leBytes 8 dst ++ leBytes 8 0 ++ leBytes 4 n ++ leBytes 4 1 ++ leBytes 16 0 ++ leBytes 4 0xFFFFFFFF ++ leBytes 4 1 ++
    leBytes 8 0

/-- Transfers: a COPY that passes the checks, one of no byte, and one refused because its runs meet. -/
theorem witness_Transfers :
    ∀ x ∈ [(0, 16, 16, 0), (0, 0, 0, 0), (0, 15, 16, 3)],
      let m := standing (world (cells (storeBase 0) (copyBytes x.1 x.2.1 x.2.2.1))) {} 1 0
      let c := m.getCore 0
      let d := XferDesc.ofBytes (m.storeBytes 0 0 64)
      Issues m 0 {} 1 0 ∧ m.memWf ∧ m.granErr = [] ∧ m.untraced ∧ c.xfers = [] ∧ c.held = [] ∧
        d.counter.toNat % 2 ^ 24 = 0xFFFFFF ∧ m.xferRefused c.bind.ctx d = x.2.2.2 ∧ d.op = 0 ∧ d.rows = 1 ∧
        (m.xferSrc c.bind.ctx d 0).isSome ∧ (m.xferDst c.bind.ctx d 0).isSome := by
  intro x hx
  refine ⟨?_, ?_, ?_, untraced_of_reset rfl, ?_⟩ <;> revert x <;> (try unfold Issues) <;> decide +kernel

/-- DescriptorSubmissions: each queue with one place left, and full; the sparse engine quiescing. -/
theorem witness_DescriptorSubmissions :
    let b : BatchDesc := BatchDesc.ofBytes org0 []
    let g : GthDesc := GthDesc.ofBytes org0 false []
    let d : SegDesc := SegDesc.ofBytes 0 0 0 0 []
    let at' (cls op : Nat) (nt ns : Nat) : Mach :=
      { coreAt 0 {} cls op with
        trv := [(0, { queue := List.replicate nt b })], gth := [(0, { queue := List.replicate nt g })],
        spr := [(0, { queue := List.replicate ns d })] }
    (∀ op ∈ [1, 2, 3], ∀ n ∈ [63, 64], let m := at' 1 op n 0
      Issues m 0 {} 1 op ∧ m.granErr = [] ∧ (m.getTrv 0).queue.length = n ∧ (m.getGth 0).queue.length = n) ∧
    (∀ n ∈ [15, 16], let m := at' 4 0 0 n
      Issues m 0 {} 4 0 ∧ m.granErr = [] ∧ (m.getSpr 0).queue.length = n ∧ (m.getHdr (hdrKey tySpr 0)).quiesce = false) ∧
    (let m : Mach := { at' 4 0 0 0 with hdrs := [(hdrKey tySpr 0, { quiesce := true })] }
     Issues m 0 {} 4 0 ∧ (m.getHdr (hdrKey tySpr 0)).quiesce = true) := by
  unfold Issues; decide +kernel

/-- A graph of one node in one parcel, at context address 0. -/
def graphBytes : List Byte := leBytes 4 0 ++ leBytes 4 16 ++ leBytes 8 1 ++ leBytes 8 0 ++ leBytes 8 0x1000 ++ leBytes 8 (0x800 + 2 ^ 32)

/-- A batch of one hop of fanout 1 from one seed, for a step. -/
def batchOf (step : BitVec 64) : BatchDesc :=
  { org := org0, graph := 0, batch := 0, step := step, seeds := 0x2000, block := 0x3000, pages := 1, queryTime := 0, window := 0, stream := 0,
    closure := 255, hops := 1, seedCount := 1,
    specs := [{ fanout := 1, mode := 0, edgeData := 0, restartP := 0, walkLen := 0, returnW := 0, inoutW := 0, topk := 0, reserved := 0 }],
    bad := false }

/-- TraverseEngine: a descriptor beyond the lookahead, one within it whose checks pass, 32 batches being sampled, and a batch whose block is written. -/
theorem witness_TraverseEngine :
    let m (d : BatchDesc) : Mach := { world (cells 0 graphBytes) with trv := [(639, { queue := [d] })] }
    (let m := m (batchOf 3)
     m.takesWork tyTrv 639 = true ∧ m.job? 0 = some job0 ∧ job0.step.toNat + (m.getTrv 639).lookahead.toNat + 1 < (batchOf 3).step.toNat) ∧
    (let d := batchOf 2
     let m := m d
     m.takesWork tyTrv 639 = true ∧ d.step.toNat ≤ job0.step.toNat + (m.getTrv 639).lookahead.toNat + 1 ∧ job0.attempt = 0 ∧
       ((m.getTrv 639).work.countP fun w => !w.written) < 32 ∧ (m.xlate 0 .read d.graph 64).isSome ∧
       (m.runRd (.trvStart 639) (some (m.causeTag 0 0).domain) (m.causeTag 0 0) d.check).1 = some (0, false)) ∧
    (let m : Mach := { world [] with trv := [(639, { work := (List.range 32).map fun i => { id := i, desc := batchOf 0 } })] }
     m.takesWork tyTrv 639 = true ∧ m.job? 0 = some job0 ∧ ((m.getTrv 639).work.countP fun w => !w.written) = 32) ∧
    (let w : TrvWork := { id := 0, desc := batchOf 0, written := true }
     let m : Mach := { world [] with trv := [(639, { work := [w] })] }
     (m.takesWork tyTrv 639 = true ∧ m.job? 0 = some job0 ∧ (m.getTrv 639).work = [w] ∧ w.written = true ∧ w.writes = [] ∧ w.status = 0) ∧
       m.untraced) := by
  refine ⟨?_, ?_, ?_, ?_, untraced_of_reset rfl⟩ <;> decide +kernel

/-- A table of one row of one element, frozen or not, with its descriptor in slot 0 of table 0 and its shard map at 0x1000. -/
def tableBytes (frozen : Nat) : List Byte :=
  leBytes 4 0 ++ leBytes 2 1 ++ leBytes 1 12 ++ leBytes 1 frozen ++ leBytes 8 1 ++ leBytes 8 0x1000 ++ leBytes 4 0x800 ++ leBytes 4 1 ++
    leBytes 8 0x8000 ++ leBytes 4 (0x800 + 10 * 2 ^ 24) ++ leBytes 4 0 ++ leBytes 4 0 ++ leBytes 4 0 ++ leBytes 4 0 ++ leBytes 1 0 ++
    leBytes 1 8 ++ leBytes 2 0

/-- A lookup or a scatter of n bags into table 0, SUM, in L16; a scatter's source is bags. -/
def bagsOf (scatter : Bool) (n : Nat) : GthDesc :=
  { org := org0, scatter := scatter, tableId := 0, pool := 1, byte3 := 1, kind := 0, shape := n, step := 0, indices := 0x2000,
    bagOffsets := 0x3000, weights := 0, data := 0x4000, argmax := 0, closure := 255, outScale := 0, reserved := 0 }

/-- What the check of a descriptor answers: its reason, whether a read failed, whether it passes. -/
def planOf (m : Mach) (d : GthDesc) : Option (Nat × Bool × Bool × Bool) :=
  (m.runRd (.gthStart 0) (some (m.causeTag 0 0).domain) (m.causeTag 0 0)
    (d.begin' job0 (m.tableSlots job0) fun _ _ => (pure () : Rd Unit))).1.map fun r =>
      (r.1.reason, r.1.failed, r.1.table.failed, r.2.isSome)

/-- Does forming the contributions of a scatter give none, with no drop, no tally and no failed read? -/
def scatterOfNothing (m : Mach) (d : GthDesc) : Bool :=
  match (m.runRd (.gthStart 0) (some (m.causeTag 0 0).domain) (m.causeTag 0 0)
    (d.begin' job0 (m.tableSlots job0) fun p t => d.scatterAll 0 job0 t p)).1 with
  | some (p, some (_, (o, e))) =>
    !p.failed && o.cs.isEmpty && o.drops == 0 && o.lastDrop == 0 && o.tal == {} && !o.failed && !e.working && !e.committed &&
      e.readErrors == 0
  | _ => false

/-- What the prefetch of the first hint answers: its place, the hint, the table's id, how many bytes of the row are kept; nothing
where a read of it failed. -/
def prefetchOf (m : Mach) : Option (Option (Nat × Hint × Nat × Option Nat)) :=
  (m.runRd (.prefetch 0) (some 0) (m.causeOf 0) (prefetchLook job0 0 (m.tableSlots job0) (m.getGth 0).hints)).1.map fun r =>
    r.bind fun x =>
      if x.2.2.2.2.working || x.2.2.2.2.committed || x.2.2.2.2.readErrors != 0 then none
      else some (x.1, x.2.1, x.2.2.1.id, x.2.2.2.1.map fun b => b.bytes.length)

/-- GatherEngine: a lookup whose check passes, and one of no bag, which is refused without a failed read; a lookup whose output is
written; a scatter of an empty bag; a scatter whose buffer holds one entry. -/
theorem witness_GatherEngine :
    let m (d : GthDesc) : Mach := { world (cells 0 (tableBytes 0)) with gth := [(0, { queue := [d] })] }
    (let m := m (bagsOf false 1)
     m.takesWork tyGth 0 = true ∧ m.aclkOn = true ∧ m.job? 0 = some job0 ∧ planOf m (bagsOf false 1) = some (0, false, false, true)) ∧
    (let d := bagsOf false 0
     let m := m d
     (m.takesWork tyGth 0 = true ∧ planOf m d = some (3, false, false, false) ∧ d.bagsOk = false) ∧ m.untraced) ∧
    (let x : GthWork := { id := 0, desc := bagsOf false 1, done := true }
     let m : Mach := { world [] with gth := [(0, { work := [x] })] }
     (m.takesWork tyGth 0 = true ∧ (m.getGth 0).work = [x] ∧ x.desc.scatter = false ∧ x.writes = []) ∧ m.untraced) ∧
    (let d := bagsOf true 1
     let m := m d
     m.takesWork tyGth 0 = true ∧ scatterOfNothing m d = true) ∧
    (let x : GthWork := { id := 0, desc := bagsOf true 1, done := true }
     let c : Coal := { slot := 0, tag := 0, table := 0, row := 0, seg := 0, module := 0, addr := 0x8000, sums := List.replicate 64 1, count := 1 }
     let m : Mach := { world [] with gth := [(639, { work := [x], coal := [c] })] }
     (m.takesWork tyGth 639 = true ∧ (m.getGth 639).work = [x] ∧ x.desc.scatter = true ∧ (m.getGth 639).coal = [c] ∧ c.slot = x.desc.org.slot ∧
       Tab.get [] m.posted 639 = [] ∧ m.postedHeld 639 < 512) ∧
       m.untraced) := by
  refine ⟨?_, ⟨?_, untraced_of_reset rfl⟩, ⟨?_, untraced_of_reset rfl⟩, ?_, ?_, untraced_of_reset rfl⟩ <;> decide +kernel

/-- PrefetchAndMigration: a posted hint with 4,095 and with 4,096 queued, a hint whose row is kept, a migration with no phase begun. -/
theorem witness_PrefetchAndMigration :
    let h : Hint := { cluster := 0, slot := 0, step := 0, tables := [0], row := 0 }
    (∀ n ∈ [4095, 4096],
      let m : Mach := { world [] with gth := [(0, { inHints := [h], hints := List.replicate n h })] }
      m.aclkOn = true ∧ (m.getGth 0).inHints = [h] ∧ (m.getGth 0).hints.length = n) ∧
    (let m : Mach := { world (cells 0 (tableBytes 1)) with gth := [(0, { hints := [h] })], clu := [(0, { assigned := true, job := 1, prefetchKib := 1 })] }
     m.aclkOn = true ∧ m.slotOfCluster 0 = some 0 ∧ (m.getGth 0).hints = [h] ∧ (m.getGth 0).area = [] ∧
       h.tables = [0] ∧ prefetchOf m = some (some (0, h, 0, some 4)) ∧ 4 ≤ (m.getClu 0).prefetchKib.toNat * 1024) ∧
    (let m := world []
     m.job? 0 = some job0 ∧ m.lookupClosed job0 = true) := by
  refine ⟨?_, ?_, ?_⟩ <;> decide +kernel

/-- An AGGREGATE or a FINISH of one row of one column, in binary32, into reduction 0. -/
def segOf (kind width : Nat) : SegDesc :=
  { core := 0, ctx := 0, slot := 0, tag := 0, kind := kind, flags := 0, width := width, closure := 255, format := 4, outScale := 0,
    rowFirst := 0, rows := 1, reduce := 0, offsets := 0x1000, columns := 0x2000, edgeValues := 0, data := 0x4000, sums := 0x8000, bad := false }

/-- SparseEngine: a descriptor of WIDTH 0, a FINISH that passes, a forwarded segment of one edge, its report, and work that ends. -/
theorem witness_SparseEngine :
    let mem : List (Nat × Byte) := [(0x1004, 1), (0x4007, 0x48), (2 ^ 24 + 0x68, 1)]
    (∀ x ∈ [(0, 2), (1, 0)],
      let d := segOf 1 x.1
      let m : Mach := { world mem with spr := [(0, { queue := [d] })] }
      (m.takesWork tySpr 0 = true ∧ m.aclkOn = true ∧ m.job? 0 = some job0 ∧ (m.getSpr 0).work = [] ∧
        (m.runRd (.sprStart 0) (some (m.causeTag 0 0).domain) (m.causeTag 0 0) (d.check (m.jobHdr job0).reduces)).1 = some (x.2, false)) ∧
      m.untraced) ∧
    (let d := segOf 0 1
     let x : FwdSeg := { origin := 1, id := 0, desc := d, row := 0, seg := 0 }
     let m : Mach := { world mem with spr := [(0, { fwd := [x] })] }
     let r := m.runRd (.sprFwd 0) (some (m.causeTag 0 0).domain) (m.causeTag 0 0) (segment d (m.segExp d) 0 0 fun _ _ => true)
     m.takesWork tySpr 0 = true ∧ (m.getSpr 0).fwd = [x] ∧ x.origin ≠ 0 ∧
       r.1.map (fun o => (o.parts, o.clamps, o.invalid, o.errors, o.tal)) = some ([0], 0, 0, 0, {}) ∧
       r.2.xlate 0 .add (d.sums + 0 * d.pitch) d.pitch = some (0, 0x8000) ∧ 0x8000 % 512 + 8 * (1 + 1) ≤ 512 ∧
       Tab.get [] r.2.posted 0 = [] ∧ r.2.postedHeld 0 < 512) ∧
    (let m : Mach := { world mem with spr := [(0, { reports := [(1, 0)] })] }
     m.takesWork tySpr 0 = true ∧ (m.getSpr 0).reports = [(1, 0)]) ∧
    (∀ kind ∈ [0, 1],
      let x : SegWork := { id := 0, desc := segOf kind 1, nextRow := 1, computed := true, since := 0 }
      let m : Mach := { world mem with spr := [(0, { work := [x] })] }
      (m.takesWork tySpr 0 = true ∧ (m.getSpr 0).work = [x] ∧ x.fwdOut = 0 ∧ x.writes = [] ∧ x.far = [] ∧ x.desc.kind = kind) ∧ m.untraced) := by
  refine ⟨fun x hx => ⟨?_, untraced_of_reset rfl⟩, ?_, ?_, fun x hx => ⟨?_, untraced_of_reset rfl⟩⟩ <;> (try revert x) <;> decide +kernel

/-! ## Update dies -/

/-- The job in its update phase. -/
def job1 : Job := { job0 with state := .updating, part := { closed := true, updating := true } }

/-- A lane of which nothing is set but what the arguments say, at the first instruction of group 0's program. -/
def lane0 : LaneSt := { slot := 0, group := 0, row := 0, col := 0 }

/-- Lane 511 of die 1 works on an element, and stands at an instruction of a two-instruction program. -/
def laneAt (f : UpdFields) (op : Nat) (l : LaneSt := lane0) : Mach :=
  { cmt := { jobs := [(0, some job1)] }, upd := [(1, { programs := [[f.word op, ({} : UpdFields).word 0]], lanes := [(511, some l)] })] }

/-- UpdateArithmetic: every instruction of the statement, with LD of the gradient and of a state, and SEL of each condition. -/
theorem witness_UpdateArithmetic :
    (∀ op ∈ [0, 1, 2, 3, 4, 5, 6, 0x0A, 0x0B, 0x0C, 0x0D, 0x0F, 0x10], LaneIssues (laneAt {} op) 1 511 {} op lane0 job1) ∧
    LaneIssues (laneAt { f := 1 } 1) 1 511 { f := 1 } 1 lane0 job1 ∧
    (∀ c ∈ [0, 3], LaneIssues (laneAt { f := c } 0x0E) 1 511 { f := c } 0x0E lane0 job1) ∧
    (Ieee.b32.read 0).nan = false ∧ (Ieee.b32.read 0).inf = false := by
  unfold LaneIssues; decide +kernel

/-- UpdateFunctions: a divisor of zero below a dividend that is and is not zero, a divisor of 1, a negative, a zero and a positive
argument of the roots and of POW, AMAX, and SRND of 2,047 × 2^5. -/
theorem witness_UpdateFunctions :
    let with' (a b : Nat) : LaneSt := { lane0 with regs := [(1, BitVec.ofNat 32 a), (2, BitVec.ofNat 32 b)] }
    let f : UpdFields := { d := 3, a := 1, b := 2 }
    (∀ a ∈ [0, 0x3F800000, 0xBF800000], ∀ b ∈ [0, 0x80000000, 0x3F800000],
      ∀ op ∈ [7, 8, 9, 0x12], let l := with' a b
        LaneIssues (laneAt f op l) 1 511 f op l job1 ∧ (Tab.get 0 l.regs f.a).toNat = a ∧ (Tab.get 0 l.regs f.b).toNat = b) ∧
    (∀ a ∈ [0, 0x3F800000, 0xBF800000], ∀ b ∈ [0x1B, 0x1C], let l := with' a 0; let f := { f with b := b }
      LaneIssues (laneAt f 0x11 l) 1 511 f 0x11 l job1) ∧
    (∀ x ∈ [(0xBF800000, true, false), (0x80000000, true, true), (0x3F800000, false, false)],
      (Ieee.b32.read x.1).nan = false ∧ (Ieee.b32.read x.1).inf = false ∧ (Ieee.b32.read x.1).val.neg = x.2.1 ∧
        ((Ieee.b32.read x.1).val.mag = 0 ↔ x.2.2 = true)) ∧
    (let l := with' 0x477FE000 0; let f := { f with f := 3 }
     LaneIssues (laneAt f 0x13 l) 1 511 f 0x13 l job1 ∧ (Tab.get 0 l.regs f.a).toNat = (Ieee.b32.round (Val.exact ⟨false, 2047, 5⟩)).bits) := by
  refine ⟨?_, ?_, ?_, ?_⟩ <;> (try unfold LaneIssues) <;> decide +kernel

/-- UpdateElementEnds: a new value with room for one undo record, with none, and with its granule logged. -/
theorem witness_UpdateElementEnds :
    let l : LaneSt := { lane0 with addrs := [0x803C], stored := [some 1] }
    let place : Placed := { kind := 4, id := 0, addrs := [0], first := 0, count := 0 }
    let j (x : Job) : Job := { x with placed := [place], logPlaced := 1, logLive := 1 }
    let m (j : Job) : Mach := { cmt := { jobs := [(0, some j)] }, upd := [(0, { programs := [[({} : UpdFields).word 0]], lanes := [(0, some l)] })] }
    let prog (m : Mach) (j : Job) : List (BitVec 64) := (m.getUpd 0).programs.getD (m.groupDesc j 0).program []
    let ends (j : Job) : Prop :=
      Tab.get none ((m j).getUpd 0).lanes 0 = some l ∧ (m j).job? l.slot = some j ∧ j.updates = true ∧
        (prog (m j) j)[l.pc]? = some (({} : UpdFields).word 0) ∧ l.pc + 1 = (prog (m j) j).length ∧ (m j).granErr = [] ∧ (m j).memWf ∧
        j.part.granted = false
    (∀ x ∈ ([(0, 0), (1, 209715)] : List (BitVec 13 × Nat)),
      let j := { j job1 with logLive := x.1 }
      ends j ∧ j.undo0 = [] ∧ min j.logLive.toNat j.logPlaced.toNat * 2 ^ 24 / 80 = x.2 ∧ j.logAt 0 + 80 ≤ 0x803C / 64 * 64) ∧
    (let j := j { job1 with undo0 := [{ addr := 0x8000, step := 0 }] }
     ends j ∧ j.logAt 0 + 80 * 1 + 80 ≤ 0x803C / 64 * 64) := by
  dsimp only; decide +kernel

/-- UpdatePhaseAndRoots: a phase that is done, a die held by its full log, two queued roots, and a running one. -/
theorem witness_UpdatePhaseAndRoots :
    (let m : Mach := { cmt := { jobs := [(63, some job1)] } }
     m.job? 63 = some job1 ∧ job1.updates = true ∧ m.dieDone 63 job1 0 = true ∧ m.dieDone 63 job1 1 = true ∧ job1.carriedNow = []) ∧
    (∀ b ∈ [false, true],
      let j := { job1 with part := { job1.part with pnrAsked := b } }
      let m : Mach := { cmt := { jobs := [(0, some j)] }, upd := [(1, { lanes := [(0, some lane0)] })] }
      m.job? 0 = some j ∧ j.updates = true ∧ m.diePaused 1 0 = true ∧ j.part.granted = false ∧ j.part.pnrAsked = b) ∧
    (let r : RootJob := { slot := 0, precond := 1, step := 1 }
     let q : List RootJob := [{ slot := 0, precond := 2, step := 1 }, r, { slot := 0, precond := 0, step := 2 }]
     let m : Mach := { upd := [(1, { rootQueue := q })] }
     m.takesWork tyUpd 1 = true ∧ (m.getUpd 1).rootRunning = none ∧ r ∈ (m.getUpd 1).rootQueue ∧
       ∀ x ∈ (m.getUpd 1).rootQueue, x = r ∨ r.step.toNat < x.step.toNat ∨ (r.step = x.step ∧ r.precond < x.precond)) ∧
    (let r : RootJob := { slot := 0, precond := 0, step := 1 }
     let j : Job := { job0 with preconds := [(0, { snapshot := some (1, [0]) })] }
     let m : Mach := { cmt := { jobs := [(0, some j)] }, upd := [(1, { rootRunning := some r })] }
     (m.getUpd 1).rootRunning = some r ∧ m.job? 0 = some j ∧ (Tab.get {} j.preconds 0).snapshot = some (1, [0]) ∧ j.part.commit = none) := by
  decide +kernel

/-! ## Steps and commit -/

/-- A packet of module 0's commit unit with a commit message of job 1. -/
def saying (kind attempt ready reason carried step : Nat) (command : List Byte := []) : Packet :=
  { dst := cmtUnit, src := cmtUnit, tc := 3, op := 0x30, job := 1, data := commitMsg kind attempt 1 ready reason carried step 0 0 ++ command }

/-- A module that has the job j in slot 0 and the packet p delivered to its commit unit. -/
def hearing (p : Packet) (j : Job) : Mach := { cmt := { jobs := [(0, some j)] }, arrived := [{ target := cmtUnit, pkt := p }] }

/-- Does a packet's message of a kind stand delivered for job j in slot 0? -/
def heard (p : Packet) (kind : Nat) (j : Job) : Bool :=
  (hearing p j).arrived.contains { target := cmtUnit, pkt := p } && p.op == 0x30 && (CommitMsg.ofPacket p).kind == kind &&
    (hearing p j).slotOfJob (CommitMsg.ofPacket p).job == some 0 && (hearing p j).job? 0 == some j

/-- That is what the statements ask for. -/
theorem hears_of_heard {p : Packet} {kind : Nat} {j : Job} (h : heard p kind j = true) :
    (hearing p j).hears p kind 0 j (CommitMsg.ofPacket p) := by
  simp only [heard, Bool.and_eq_true, List.contains_iff_mem, beq_iff_eq] at h
  exact ⟨h.1.1.1.1, h.1.1.1.2, rfl, h.1.1.2, h.1.2, h.2⟩

/-- A job of this module and module 1, which this module coordinates. -/
def job2 : Job := { job0 with participants := [0, 1], coord := { peers := [{ module := 0 }, { module := 1 }] } }

/-- CoordinatorMessages: each message before the decision; REDUCED that closes the sums, the last ready VOTE, the last CARRY, the last ready
answer. -/
theorem witness_CoordinatorMessages :
    let peers (y : PeerSt) (x : CoordSt) : CoordSt := { x with peers := [{ y with module := 0 }, { y with module := 1 }] }
    let can (p : Packet) (kind : Nat) (j : Job) : Prop :=
      heard p kind j = true ∧ j.coordModule = (hearing p j).self ∧ j.coord.names (CommitMsg.ofPacket p) = true ∧ j.coord.commitSent = false ∧
        j.coord.abortSent = false
    let vote (carried : Nat) : PeerSt := { module := 0, vote := some (true, 0, carried) }
    can (saying 1 0 0 0 0 0) 1 job2 ∧
    can (saying 1 0 0 0 0 0) 1 { job2 with coord := peers { module := 0, reduced := some (0, 0) } {} } ∧
    can (saying 3 0 1 0 0 0) 3 job2 ∧ can (saying 3 0 1 0 0 0) 3 { job2 with coord := peers (vote 0) { closedSent := true } } ∧
    can (saying 13 0 0 0 0 0 [0]) 13 { job2 with coord := { peers := [{ vote 1 with module := 0 }, { vote 0 with module := 1 }], closedSent := true } } ∧
    (can (saying 3 0 0 3 0 0) 3 job2 ∧ (CommitMsg.ofPacket (saying 3 0 0 3 0 0)).ready = false) ∧
    can (saying 8 0 0 0 0 0) 8 job2 ∧ can (saying 8 0 0 0 0 0) 8 { job2 with coord := peers { module := 0 } { granted := true } } ∧
    can (saying 10 0 0 2 0 0) 10 job2 ∧
    (can (saying 10 0 1 0 0 0) 10 { job2 with coord := peers { module := 0, pnr := some true } {} } ∧
      (CommitMsg.ofPacket (saying 10 0 1 0 0 0)).ready = true) := by
  decide +kernel

/-- ParticipantMessages: each message, ALIVE of the coordinator's for this attempt and for another; a CARRY that leaves one still to come, and one before its COMMIT; a VOTE for another attempt. -/
theorem witness_ParticipantMessages :
    let j := job0
    (heard (saying 9 0 0 0 0 0) 9 j = true ∧ j.names (CommitMsg.ofPacket (saying 9 0 0 0 0 0)) = true ∧ j.part.aborting = false) ∧
    (heard (saying 11 0 0 0 0 0) 11 j = true ∧ j.names (CommitMsg.ofPacket (saying 11 0 0 0 0 0)) = true ∧ j.part.granted = false) ∧
    (∀ x ∈ [(3, 7, false), (0, 0, true)], let p := saying 12 x.1 0 0 0 x.2.1; let c := CommitMsg.ofPacket p
      heard p 12 j = true ∧ c.source = j.coordModule ∧ j.names c = x.2.2 ∧ j.state ≠ .halted) ∧
    (∀ n ∈ [none, some 2], let j := { job0 with part := { commit := n }, participants := [1] }; let p := saying 13 0 0 0 0 0 [0]
      heard p 13 j = true ∧ j.coordModule ≠ (hearing p j).self ∧ j.names (CommitMsg.ofPacket p) = true ∧ j.part.applied = false ∧
        j.part.aborting = false ∧ (j.part.commit.all fun n => decide (j.part.carriedIn.length + 1 < n)) = true) ∧
    (let p := saying 3 1 0 0 0 0
     heard p 3 job2 = true ∧ job2.coordModule = (hearing p job2).self ∧ (CommitMsg.ofPacket p).ready = false ∧
       job2.coord.names (CommitMsg.ofPacket p) = false) := by
  decide +kernel

/-- StepEnds: CLOSED with one dense group without curves, COMMIT with a carried command to come and with none, DONE to send and sent. -/
theorem witness_StepEnds :
    (let p := saying 2 0 0 0 0 0
     let m : Mach := { hearing p job0 with mem := [(job0.imageAt + 0x52, 1)] }
     heard p 2 job0 = true ∧ job0.names (CommitMsg.ofPacket p) = true ∧ job0.part.closed = false ∧ job0.part.aborting = false ∧
       job0.part.updating = false ∧ job0.part.voteSent = false ∧ (m.jobHdr job0).groups = 1 ∧ (m.groupDesc job0 0).curveMask = 0 ∧
       (m.groupDesc job0 0).kind = 0 ∧ m.granErr = [] ∧ ∀ x ∈ job0.placed, x.kind ≠ 2) ∧
    (∀ n ∈ [0, 1], let p := saying 4 0 0 0 n 0; let j := { job0 with participants := [0] }
      heard p 4 j = true ∧ j.names (CommitMsg.ofPacket p) = true ∧ j.part.commit = none ∧ j.part.aborting = false ∧ j.part.applied = false ∧
        (CommitMsg.ofPacket p).carried = n ∧ j.part.carriedIn = [] ∧ j.placed = [] ∧ j.deltas = [] ∧ j.raised = [] ∧ j.flipRows = [] ∧
        j.carried = [] ∧ j.participants.length = 1 ∧
        (hearing p j).sketchTables j ((hearing p j).tableSlots j) = []) ∧
    (∀ b ∈ [false, true], let j := { job0 with part := { applied := true, doneSent := b } }
      (hearing (saying 0 0 0 0 0 0) j).job? 0 = some j ∧ j.part.applied = true ∧ j.part.refresh = [] ∧ j.part.doneSent = b) := by
  decide +kernel

/-- DoneAndStart: a DONE that is not the last, the last after an abort and after a commit, and START. -/
theorem witness_DoneAndStart :
    let p := saying 6 0 0 0 0 0
    let c := CommitMsg.ofPacket p
    (heard p 6 job2 = true ∧ c.carried = 0 ∧ c.reason = 0 ∧ c.ready = false ∧ job2.coordModule = (hearing p job2).self ∧
      job2.coord.names c = true ∧ (job2.coord.peers.all fun y => y.module == c.source || y.done) = false) ∧
    (∀ aborted ∈ [false, true],
      let j : Job := { job0 with participants := [0], coord := { peers := [{ module := 0 }], abortSent := aborted, commitSent := !aborted } }
      heard p 6 j = true ∧ j.coordModule = (hearing p j).self ∧ j.coord.names c = true ∧
        (j.coord.peers.all fun y => y.module == c.source || y.done) = true ∧ j.coord.halt = 0 ∧ j.noFit = false ∧ j.stopAsked = false ∧
        j.state ≠ .halted ∧ j.coord.abortSent = aborted ∧ j.coord.attempt ≠ 2 ∧ j.coord.commitSent = (!aborted) ∧ j.monuments = [] ∧
        j.part.monumentDone = false ∧ j.stepsLeft ≠ some 0) ∧
    (let p := saying 7 0 0 0 0 5; let j := { job0 with run := some (0, 0) }
     heard p 7 j = true ∧ j.state ≠ .halted ∧ j.run ≠ none ∧ (CommitMsg.ofPacket p).source = j.coordModule ∧
       j.badBlocks.contains (CommitMsg.ofPacket p).step = false) := by
  decide +kernel

/-- AbortAndItsDone: ABORT, and its DONE with and without a halt. -/
theorem witness_AbortAndItsDone :
    (let p := saying 5 0 0 3 0 0
     heard p 5 job0 = true ∧ job0.names (CommitMsg.ofPacket p) = true ∧ job0.part.aborting = false ∧ job0.state ≠ .halted) ∧
    (∀ n ∈ [(0, 0), (2, 1)],
      let j := { job0 with attempt := BitVec.ofNat 2 n.1, state := .aborting, part := { aborting := true, rolledBack := true, abortReason := 3 } }
      (hearing (saying 0 0 0 0 0 0) j).job? 0 = some j ∧ j.part.aborting = true ∧ j.part.rolledBack = true ∧ j.part.doneSent = false ∧
        j.part.abortReason ≠ 2 ∧ (if n.2 = 0 then j.haltAfter = 0 else j.haltAfter ≠ 0)) := by
  decide +kernel

/-- RollbackRestoresLoggedGranules: two records whose granules stand below and behind the log. -/
theorem witness_RollbackRestoresLoggedGranules :
    let place : Placed := { kind := 4, id := 0, addrs := [0x1000], first := 0, count := 0 }
    let j : Job := { job0 with placed := [place] }
    let m : Mach := { mem := [(0x1000, 0x40), (0x1010, 1), (0x1051, 0x20)] }
    let addr (i : Nat) : Nat := if i = 0 then 0x40 else 0x2000
    m.granErr = [] ∧ m.memWf ∧
    (∀ i, i < 2 → m.peekNat (j.logAt 0 + 80 * i) 6 = addr i ∧ (addr i + 64 ≤ j.logAt 0 ∨ j.logAt 0 + 80 * 2 ≤ addr i)) ∧
    (∀ k, k < 2 → ∀ i, i < k → addr i + 64 ≤ addr k ∨ addr k + 64 ≤ addr i) := by
  decide +kernel

/-- TimeoutsAndMonumentParts: each timeout at the moment it is due, a watched wait, and a part that just has and just lacks room. -/
theorem witness_TimeoutsAndMonumentParts :
    let at' (ms : Nat) (j : Job) : Mach := { cmt := { jobs := [(0, some j)] }, time := { ns := BitVec.ofNat 64 (ms * 1000000) } }
    (let j := { job0 with part := { live := true } }
     let m : Mach := { at' 0 j with time := { ns := 12500000 } }
     m.live j = true ∧ j.part.told + m.timeoutNs / 4 = m.now) ∧
    (let j := { job2 with coord := { job2.coord with live := true } }
     let m := at' 50 j
     j.coordModule = m.self ∧ j.coord.live = true ∧ j.coord.commitSent = false ∧ j.coord.abortSent = false ∧
       ∃ y ∈ j.coord.peers, y.heard + m.timeoutNs = m.now) ∧
    (let j := { job2 with coord := { peers := [{ module := 0, reduced := some (0, 0) }] } }
     let m := at' 50 j
     j.coordModule = m.self ∧ j.coord.closedSent = false ∧ (∀ y ∈ j.coord.peers, y.reduced ≠ none) ∧ j.coord.appliedAt + m.timeoutNs = m.now) ∧
    (let j := { job2 with coord := { job2.coord with live := true, commitSent := true } }
     let m := at' 100 j
     j.coordModule = m.self ∧ (∃ y ∈ j.coord.peers, y.heard + 2 * m.timeoutNs = m.now) ∧ j.state ≠ .halted) ∧
    (let j := { job0 with tag := some 0, part := { live := true } }
     let m := at' 100 j
     j.part.live = true ∧ j.state ≠ .halted ∧ j.tag ≠ none ∧ j.part.heard + 2 * m.timeoutNs = m.now) ∧
    (let j := { job0 with state := .running, phaseBegun := true, plat := some { clusters := [0] } }
     let m : Mach := { at' 2 j with cores := [(0, { run := .waiting })], clu := [(0, { assigned := true, job := 1 })] }
     (m.getCtx j.ctx).state ≠ .stopped ∧ j.watchdogNs ≤ m.now ∧ j.watchdogAt ≤ m.now - j.watchdogNs ∧
       m.watchedWait 0 j (m.now - j.watchdogNs) = true ∧ j.part.voteSent = false ∧ j.waitingSince = none) ∧
    (∀ n ∈ [0, 4096],
      let o : MonOrder := { step := 0, ctx := 0, n := 0, dest := 0, bytes := n }
      let j := { job0 with state := .capturing, step := 1, monuments := [o], part := { doneSent := true, captureGo := true } }
      let m := at' 0 j
      let part := partBytes j.id (j.participants.findIdx (· == m.self)) j.participants.length j.step.toNat j.digest
        [{ kind := 7, body := [] }, { kind := 8, id := tyCmt, count := 1, body := leBytes 4 j.logLive.toNat ++ leBytes 4 j.logStaged.toNat }]
      m.granErr = [] ∧ m.memWf ∧ o.step + 1 = j.step ∧ j.part.monumentDone = false ∧ j.replicas = [] ∧ j.placed = [] ∧
        (m.jobHdr j).groups = 0 ∧ j.reduceCount = 0 ∧
        (if n = 0 then o.bytes < part.length else part.length ≤ o.bytes)) := by
  refine ⟨?_, ⟨?_, ?_, ?_, ?_, ⟨{ module := 1 }, ?_⟩⟩, ?_, ⟨?_, ⟨{ module := 1 }, ?_⟩, ?_⟩, ?_, ?_, ?_⟩ <;> decide +kernel

/-! ## Planner -/

/-- An image of one phase whose one program has two indices that may run one after another (SEQUENTIAL). -/
def image0 : List (Nat × Byte) :=
  [(0x24, 1), (0x29, 1), (0x30, 1), (0x38, 0x40), (0x39, 1), (0x108, 1), (0x141, 2), (0x148, 2), (0x14C, 1), (0x206, 1)].map fun x =>
    (2 ^ 24 + x.1, x.2)

/-- A context descriptor of class S and SIZE 1, rings of 64 entries at 0 and 0x10000 of host memory. -/
def desc0 : CtxDesc :=
  { classL := false, size := 1, sqBase := 0, sqEntries := 64, cqEntries := 64, cqBase := 0x10000, dropTally := 0, notifyCore := 0, notifyId := 1,
    coalesceCount := 4, coalesceUs := 10 }

/-- Both indices run on core 0, one after another. -/
def plat0 : Plat :=
  { clusters := [0], binds := [{ program := 0, index := 0, cluster := 0, slot := 0, run := 0 }, { program := 0, index := 1, cluster := 0, slot := 0, run := 1 }],
    spread := [[0]], drawNs := 5 }

/-- A module with the image, context 0 in a state, domain 0 with one cluster, and job j in slot 0. -/
def planned (j : Job) (ctx : CtxState := .running) : Mach :=
  { cmt := { jobs := [(0, some j)] }, mem := image0, ctx := [(0, { state := ctx, desc := some desc0, job := some 0 })],
    dom := [(0, { ctxCount := 1, quotaClusters := 1 })] }

/-- What the statement calls ready. -/
def readyNow (m : Mach) (j : Job) : Bool :=
  m.job? 0 == some j && j.state == .running && j.tag != none && !j.part.aborting && !j.noFit && j.image == none && decide (j.phase < (m.jobHdr j).phases) &&
    ((m.getCtx j.ctx).state == .running || (m.getCtx j.ctx).state == .active || (m.getCtx j.ctx).state == .stopping) && !m.ctxHeld j.ctx

/-- PlatsAndPhases: a plat that the rules allow; a phase that has begun and one that begins; a boundary that waits for a draw; a newer plat,
forced and not; a core whose next index runs, and one that has no further run while another core has not ended. -/
theorem witness_PlatsAndPhases :
    let run : Job := { job0 with state := .running, tag := some 0 }
    (let m := planned run
     m.job? 0 = some run ∧ m.platOk run plat0 = true) ∧
    (∀ begun ∈ [false, true],
      let j := { run with plat := some plat0, phaseBegun := begun }
      let m := planned j (if begun then .stopping else .running)
      let b := plat0.binds.headD { program := 0, index := 0, cluster := 0, slot := 0, run := 0 }
      readyNow m j = true ∧ m.granErr = [] ∧ m.coresTake j 0 = true ∧ 0 ∈ plat0.clusters ∧ j.bound.contains 0 = false ∧ (m.phaseBinds j 0).filter (fun x => x.run == 0) = [b] ∧ b.slot < 16 ∧
        (imgProg (m.jobRd j) (m.jobHdr j) b.program).argBytes ≤ 2 ^ 15 ∧
        (j.phaseBegun = true ∨ (j.forcedNow = 0 ∧ (j.newest = none ∨ j.frozen = true) ∧ m.skipsPhase j j.phase = false))) ∧
    (let m := planned run
     readyNow m run = true ∧ run.phaseBegun = false ∧ run.forcedNow ≠ 0 ∧ run.newest = none ∧ run.waitingSince = none ∧ m.jobFits run = true) ∧
    (∀ x ∈ [(0, 0), (5, 5)],
      let p := { plat0 with reason := x.1 }
      let j := { run with plat := some plat0, newest := some p, forced := x.2 }
      readyNow (planned j) j = true ∧ j.phaseBegun = false ∧ p.moves = [] ∧ (if j.forcedNow = 0 then j.frozen = false else p.reason = j.forcedNow) ∧
        (planned j).platClustersOk j p = true ∧ (planned j).copiesFree 0 p = true) ∧
    (∀ r ∈ [0, 1],
      let p := { plat0 with binds := plat0.binds ++ [{ program := 0, index := 2, cluster := 0, slot := 1, run := 0 }] }
      let j := { run with plat := some p, phaseBegun := true, bound := [0] }
      let m : Mach := { planned j with cores := [(0, { run := .halted, bind := { run := r } })] }
      let c := m.getCore 0
      m.job? 0 = some j ∧ c.bind.slot = 0 ∧ c.run = .halted ∧ c.bind.ended = false ∧ c.xfers = [] ∧ c.held = [] ∧ m.submissionsDone 0 j.step = true ∧
        j.phaseBegun = true ∧ j.bound.contains 0 = true ∧ m.takesWork tyCor 0 = true ∧
        ((m.phaseBinds j 0).find? fun b => b.slot == 0 && b.run == c.bind.run + 1) = (if r = 0 then some { program := 0, index := 1, cluster := 0, slot := 0, run := 1 } else none) ∧
        { program := 0, index := 2, cluster := 0, slot := 1, run := 0 } ∈ m.phaseBinds j 0 ∧ (m.getCore 1).bind.ended = false) := by
  refine ⟨?_, ?_, ?_, ?_, ?_⟩ <;> decide +kernel

/-! ## Fabric -/

/-- A packet from module 1 to a local part of this module, for job 1. -/
def pk (op tc dst : Nat) (data : List Byte := []) (addr : Nat := 0x8000) : Packet :=
  { dst := dst, src := 8192, tc := tc, op := op, job := 1, addr := addr, len := data.length, arg := 1, data := data }

/-- Router 3 with version 0 injecting: its commit unit is behind output 15, module 1 over port `code`. -/
def router (code : Nat) (held : List Held) : Rte :=
  { v0 := { state := .injecting, rank := 1, lt := [(0x910, 0x80008000)], mt := [(1, BitVec.ofNat 32 (2 ^ 31 + 2 ^ code))] }, held := held }

/-- Routing: a packet delivered, one that takes a down hop on a port and on the ring, 20 and 21 packet frames after a control frame and
with a full replay buffer, one with no route. -/
theorem witness_Routing :
    (let x : Held := { pkt := pk 0x30 3 0x910, input := 0 }
     let m : Mach := { rte := [(3, router 0 [x])] }
     x ∈ (m.getRte 3).held ∧ m.decision 3 x.pkt = .deliver 15 ∧ x.pkt.tc < 4 ∧ x.pkt.domain < 16 ∧ m.posted = []) ∧
    (∀ o ∈ [0, 11, 12, 13], ∀ n ∈ [(20, 0), (21, 0), (0, 2048)],
      let x : Held := { pkt := pk 0x22 2 8192, input := 14 }
      let m : Mach := { rte := [(3, { router o [x] with v0 := { (router o []).v0 with rank := 0 } }), (ringTo 3 o, { v0 := { rank := 2 } })],
                        lnk := [(36 + o, { state := .up, rank0 := 2, sinceControl := n.1,
                                           replay := List.replicate n.2 { seq := 0, content := .inr {} } })] }
      x ∈ (m.getRte 3).held ∧ m.decision 3 x.pkt = .hop o ∧
        decide (((m.getRte 3).ver x.pkt.epoch).rank.toNat < (m.hopRank 3 o x.pkt.epoch).toNat) = true ∧
        (o < 12 → (m.getLnk (36 + o)).replay.length = n.2 ∧ (m.getLnk (36 + o)).sinceControl = n.1)) ∧
    (let x : Held := { pkt := pk 0x22 2 (2 * 8192), input := 14 }
     let m : Mach := { rte := [(3, router 0 [x])] }
     (m.getRte 3).held = [x] ∧ m.decision 3 x.pkt = .discard 3 ∧ ((m.getRte 3).ver false).state ≠ .draining ∧
       ((m.getRte 3).ver true).state ≠ .draining) := by
  decide +kernel

/-- DuplicateFilter: a SEQ at the floor, one just below 2^31 above it, one below it, and two within 4,096 of it. -/
theorem witness_DuplicateFilter :
    let f : DupFilter := { floor := 0xFFFFFFFF, seen := [1] }
    (∀ seq ∈ [0xFFFFFFFF, 0x7FFFFFFE], (f.take (BitVec.ofNat 32 seq)).2 = true) ∧
    (∀ seq ∈ [0x7FFFFFFF, 1], (f.take (BitVec.ofNat 32 seq)).2 = false) ∧
    ((f.take 0).2 = true ∧ (2 : BitVec 32) ∉ f.seen ∧ (2 : BitVec 32) ≠ 0 ∧ (2 - f.floor).toNat < 4096 ∧ (0 - f.floor).toNat < 4096) := by
  decide +kernel

/-- A module with job 1 in slot 0 at step tag 0, and a packet delivered to endpoint t. -/
def reached (p : Packet) (t : Nat) (j : Job := { job0 with tag := some 0, state := .running }) : Mach :=
  { cmt := { jobs := [(0, some j)] }, arrived := [{ target := t, pkt := p }] }

/-- PacketEffects: every operation, with what its clause asks for. -/
theorem witness_PacketEffects :
    let word : List Byte := leBytes 8 1
    let j : Job := { job0 with tag := some 0, state := .running }
    let sound (m : Mach) (p : Packet) (op t : Nat) : Prop := m.granErr = [] ∧ m.memWf ∧ m.takes p op t
    (∀ x ∈ [(0x01, 0), (0x02, 639), (0x03, 0x800), (0x20, 0x800), (0x21, 0x800), (0x22, 639), (0x11, 639), (0x12, 0x930), (0x13, 0x930)],
      let p := pk x.1 (if x.1 < 0x10 then 0 else 1) x.2 word
      let m := reached p x.2
      sound m p x.1 x.2 ∧ m.serves p = true ∧ (x.2 = 639 → m.clusterPresent x.2 = true) ∧ p.tc ≠ 3 ∧ p.ctr ≠ 1 ∧ p.src ≠ m.station x.2 ∧ m.slotOfJob p.job = some 0 ∧ m.job? 0 = some j ∧ j.placed = [] ∧
        j.siteOf p.addr = none) ∧
    (∀ op ∈ [0x01, 0x02, 0x03, 0x20, 0x21],
      let p := pk op 0 0x800 word (2 ^ 48 - 8)
      let m := reached p 0x800
      sound m p op 0x800 ∧ m.serves p = false) ∧
    (let p := pk 0x10 1 0 word
     let f : Fetch := { owner := .gth 0 0, handle := 1, module := 1, addr := 0x8000, len := 8 }
     let m : Mach := { reached p 0 with fetches := [f] }
     sound m p 0x10 0 ∧ p.tc ≠ 3 ∧ (m.fetches.find? fun x => x.handle == p.arg && x.data.isNone) = some f) ∧
    (∀ tag ∈ [0, 4],
      let p := pk 0x31 3 cmtUnit (leBytes 2 1 ++ leBytes 2 0)
      let j := { j with tag := some (BitVec.ofNat 16 tag) }
      let m := reached p cmtUnit j
      sound m p 0x31 cmtUnit ∧ p.tc = 3 ∧ lossPairs p.data = [(1, 0)] ∧ m.slotOfJob 1 = some 0 ∧ m.job? 0 = some j ∧ j.part.voteSent = false) ∧
    (let p := pk 0x30 3 plnUnit
     let m := reached p plnUnit
     (m.arrived.find? fun a => a.pkt == p && p.op == 0x30) = some { target := plnUnit, pkt := p } ∧ plnUnit ≠ cmtUnit) ∧
    (let p := { pk 0x22 2 0 with tag := 4 }
     let m := reached p 0
     (m.arrived.find? fun a => a.pkt == p && p.op == 0x22) = some { target := 0, pkt := p } ∧ p.tc ≠ 3 ∧ m.accepts p = false) := by
  unfold Mach.takes; decide +kernel

/-- PacketEffects: a RED64_ADD at the site of a table row that has one, and at a row that has none yet. -/
theorem witness_PacketEffects_site :
    let x : Placed := { kind := 3, id := 5 * 2 ^ 32, addrs := [0x8000, 0, 0, 0x100000, 1, 8], first := 0, count := 1 }
    let y : Site := { table := x.table, row := 0, shard := x.shard, index := 255 }
    let p := pk 0x21 2 0x800 (leBytes 8 1)
    ∀ sites ∈ [[y], []],
      let j : Job := { job0 with tag := some 0, state := .running, placed := [x], sites := sites }
      let m := reached p 0x800 j
      m.granErr = [] ∧ m.memWf ∧ m.takes p 0x21 0x800 ∧ p.tc ≠ 3 ∧ m.serves p = true ∧ m.slotOfJob p.job = some 0 ∧ m.job? 0 = some j ∧
        j.siteOf p.addr = some (x, 0, 0) ∧ (∀ w ∈ j.placed, w.kind ≠ 1) ∧
        (∀ z ∈ j.sites, (z.table = x.table ∧ z.row = 0 ∧ z.shard = x.shard) ↔ z = y) ∧
        x.siteAt y.index + 8 * 1 ≤ x.countAt y.index ∧
        (j.sites.filter fun z => z.table == x.table && z.shard == x.shard).length < 2 ^ x.siteShift ∧ 8 * 1 ≤ x.siteBytes ∧
        p.arg ≤ 65536 := by
  unfold Mach.takes; decide +kernel

/-- A frame that bears the CRC of its content and was corrected is good. -/
theorem good_of_own_crc (seq : BitVec 12) (c : Packet ⊕ CtlFrame) : frameGood { seq := seq, content := c, crc := frameCrc c } = true := by
  simp [frameGood]

/-- A frame that the decoder did not correct is bad. -/
theorem bad_of_decoder (seq : BitVec 12) (c : Packet ⊕ CtlFrame) : frameGood { seq := seq, decoded := false, content := c } = false := rfl

/-- LinkPorts, frames: one in sequence, the last that may run ahead on two lanes, a bad one at each end of the range, one behind a refused
frame, and an acknowledgement. The first is bad or good as the two theorems above say. -/
theorem witness_LinkPorts_frames :
    let p := pk 0x22 2 0
    let f : TxFrame := { seq := 4095, content := .inl p, resends := 7 }
    let l : Lnk := { state := .up, rxSeq := 4095, width := 2, replay := [f] }
    let ahead (n : Nat) : Nat := (BitVec.ofNat 12 n - l.rxSeq).toNat
    (∀ b ∈ [true, false],
      let r : Option (BitVec 12) := if b then some 4095 else none
      let m : Mach := { lnk := [(47, { l with refused := r })] }
      (m.getLnk 47).state = .up ∧ (m.getLnk 47).rxSeq = 4095 ∧ (m.getLnk 47).refused = r ∧ (m.getLnk 47).early = [] ∧
        (m.getLnk 47).replay = [f] ∧ (m.getLnk 47).queue = [] ∧ (m.getLnk 47).episode = none) ∧
    (0 < ahead 0 ∧ ahead 0 < l.width.toNat) ∧ (ahead 4095 < 2048 ∧ ahead 2046 < 2048) ∧
    (let m : Mach := { lnk := [(47, { l with refused := some 0 })] }
     (m.getLnk 47).refused = some 0 ∧ ahead 0 < ahead 1 ∧ ahead 1 < 2048) := by
  decide +kernel

/-- LinkPorts: a timeout behind a younger frame, of a frame resent seven and eight times, an episode at its limits, and trainings. -/
theorem witness_LinkPorts :
    let p := pk 0x22 2 0
    let f : TxFrame := { seq := 4095, content := .inl p, resends := 7 }
    let y : TxFrame := { seq := 0, content := .inl p, sentAt := 1 }
    (∀ n ∈ [7, 8], let f := { f with resends := n }
     let m : Mach := { lnk := [(47, { state := .up, replay := [y, f] })], time := { ns := 2000 } }
     (m.getLnk 47).state = .up ∧ (m.getLnk 47).replay = [y] ++ f :: [] ∧ m.now < y.sentAt + 2000 ∧ y.seq ≠ f.seq ∧ f.sentAt + 2000 = m.now ∧
       (8 ≤ f.resends ↔ n = 8)) ∧
    (∀ x ∈ [(true, 0), (false, 40000)],
     let m : Mach := { lnk := [(47, { state := .up, replay := [f], queue := [p], episode := some (0, 0), ninth := x.1 })],
                       time := { ns := BitVec.ofNat 64 x.2 } }
     (m.getLnk 47).state = .up ∧ (m.getLnk 47).episode = some (0, 0) ∧ ((m.getLnk 47).ninth = true ∨ 0 + 40000 = m.now) ∧ p.tc ≠ 3) ∧
    (let r : Training := { passing := 0b01111110, farFenced := 0b00000100 }
     let m : Mach := { lnk := [(47, { state := .training })] }
     let ok (j : Nat) : Prop := r.passing.getLsbD j = true ∧ r.farFenced.getLsbD j = false ∧ m.laneFenced (8 * 47 + j) = false
     -- lanes 1, 3, 4, 5, 6 are good: the widest aligned groups are 4, 5; the lowest lane alone is narrower
     (m.getLnk 47).state = .training ∧ 6 ≤ r.steps ∧ ok 4 ∧ ok 5 ∧ ¬ ok 2 ∧ ¬ ok 7 ∧ ¬ ok 0) ∧
    (∀ n ∈ [3, 4, 5], let r : Training := { steps := n }
     r.steps < 6 ∧ ∀ j, j < 8 → ¬ r.passing.getLsbD j = true) := by
  decide +kernel

/-- EpochsAndTime: a marker for an empty and for a draining version, a PPS edge, and one that is missing. -/
theorem witness_EpochsAndTime :
    (let m : Mach := { rte := [(3, { inbox := [(13, 7)] })] }
     (13, 7) ∈ (m.getRte 3).inbox ∧ ((m.getRte 3).ver (7 % 2 == 1)).state = .empty) ∧
    (let m : Mach := { rte := [(3, { inbox := [(13, 7)], v1 := { state := .draining } })] }
     (13, 7) ∈ (m.getRte 3).inbox ∧ ((m.getRte 3).ver (7 % 2 == 1)).state = .draining ∧ ((m.getRte 3).ver (7 % 2 != 1)).state ≠ .draining) ∧
    (let m : Mach := { rte := [(3, { inbox := [(13, 7)], v1 := { state := .draining }, vcMarkers := 7 * 2 ^ 52 })] }
     ∀ c, c < 4 → c = 7 / 2 ∨ (m.getRte 3).vcMarkers.getLsbD (4 * 13 + c) = true) ∧
    (let m : Mach := { time := { pps := true, ns := 1500000000 } }
     m.time.root = true ∧ m.time.pps = true ∧ m.now + 500000000 < 2 ^ 64 ∧ m.time.lastPps + 1500000000 = m.now) := by
  decide +kernel

/-! ## Registers -/

/-- RegisterReads, HeaderWrites: a page that exists and is not fenced, those of a core and a channel that are fenced, one that does not exist; a host that does not reach
one; the writes of a header. -/
theorem witness_RegisterReads_and_HeaderWrites :
    let m : Mach := { fence := { clusters := [0], channels := [63] }, dom := [(15, { host := .localHost })], hdrs := [(hdrKey tyGth 639, { quiesce := true })] }
    m.rst.inReset = false ∧ pageExists tyCor 10239 0 = true ∧ m.instFenced tyCor 10239 = false ∧ pageExists tyCor 15 0 = true ∧
      m.instFenced tyCor 15 = true ∧ pageExists tyMem 63 0 = true ∧ m.instFenced tyMem 63 = true ∧ pageExists tyCor 10240 0 = false ∧ pageExists 255 0 3 = false ∧ (m.getDom 15).host = .localHost ∧
      (m.reaches 15 tyCor 10239 0).1 = false ∧ canQuiesce tyGth = true ∧ pageExists tyGth 639 0 = true ∧ (m.getHdr (hdrKey tyGth 639)).quiesce = true ∧
      m.blockActive tyGth 639 = false ∧ tyGth ≠ tyPwr := by
  decide +kernel

/-- FabricRegisters: versions in each state, selectors of either version, a port that is down and one that is up,
a slot without a job. -/
theorem witness_FabricRegisters :
    let m : Mach := { lnk := [(47, { state := .up })], rte := [(1, { v0 := { state := .armed }, v1 := { state := .injecting } }),
                      (2, { mtSel := 0x1000, ltSel := 0x2000, mcSel := 0x1000 }), (3, { v0 := { state := .injecting }, v1 := { state := .armed } })] }
    m.rst.inReset = false ∧
    ((m.getRte 0).v0.state = .empty ∧ (m.getRte 0).v1.state = .empty ∧ (m.getRte 0).mtSel.getLsbD 12 = false ∧ (m.getRte 0).ltSel.getLsbD 13 = false ∧
      (m.getRte 0).mcSel.getLsbD 12 = false) ∧
    ((m.getRte 1).v0.state = .armed ∧ (m.getRte 1).v1.state = .injecting) ∧
    ((m.getRte 2).mtSel.getLsbD 12 = true ∧ (m.getRte 2).ltSel.getLsbD 13 = true ∧ (m.getRte 2).mcSel.getLsbD 12 = true) ∧
    ((m.getRte 3).v0.state = .injecting ∧ (m.getRte 3).v1.state = .armed) ∧ m.instFenced tyLnk 47 = false ∧ (m.getLnk 47).state = .up ∧
    (m.getLnk 0).state = .down ∧ m.instFenced tyUpd 1 = false ∧ m.job? m.cmt.jobSel.toNat = none := by
  decide +kernel

/-- RegisterWritesByRequester: a host that is none, pages a host reaches and does not reach, a packet's write; tract 3. -/
theorem witness_RegisterWritesByRequester :
    let m : Mach := { dom := [(15, { host := .localHost })] }
    let x : Packet := { pk 0x05 0 0x930 (leBytes 8 1) with src := 8192 + plnUnit, addr := pageAddr tyCor 0 10239 0x01C }
    m.rst.inReset = false ∧ (m.getDom 0).host ≠ .localHost ∧ (m.getDom 15).host = .localHost ∧ (m.reaches 15 tyCor 0 0).2 = false ∧
      pageExists tyDom 15 0 = true ∧ (m.reaches 15 tyDom 15 0).2 = true ∧ tyDom ≠ tyThd ∧ tyDom ≠ tyPln ∧
      (reached x 0x930).takes x 0x05 0x930 ∧ x.tc ≠ 3 ∧ stLocal x.src = plnUnit ∧ x.data.length = 8 ∧ (1 : BitVec 64).toNat = leNat x.data := by
  unfold Mach.takes; decide +kernel

/-! ## Contexts and host jobs -/

/-- A domain of one context and 1 GiB of host memory at local address 0. -/
def dom0 : Dom := { host := .localHost, ctxCount := 2, hostmemGib := 1, quotaClusters := 1, cores := 1 }

/-- A context descriptor of class S with rings of 16 entries at 4,096 and 8,192 (R421). -/
def ctxBytes (format ring core id : Nat) : List Byte :=
  leBytes 2 format ++ leBytes 1 0 ++ leBytes 1 1 ++ leBytes 4 0 ++ leBytes 8 ring ++ leBytes 4 16 ++ leBytes 4 16 ++ leBytes 8 8192 ++
    leBytes 8 0 ++ leBytes 4 (core * 2 ^ 27 + id) ++ leBytes 2 1 ++ leBytes 2 1 ++ List.replicate 208 0

/-- A module with domain 0, a context 0 of it, and bytes at local address 0. -/
def hosted (x : Ctx) (bs : List Byte) (a : Nat := 0) : Mach := { dom := [(0, dom0)], ctx := [(0, x)], mem := cells a bs }

/-- ContextCommands: descriptors of each outcome; a context that is active, with no job and with one; indices accepted and refused at the
ends of their ranges; a record held. -/
theorem witness_ContextCommands :
    let e := CtxDesc.ofBytes (ctxBytes 1 4096 0 1)
    (∀ x ∈ [(1, 4096, 0, 1, false, false, false), (1, 2 ^ 30 - 512, 0, 1, true, true, false), (2, 4096, 0, 1, false, true, false),
            (1, 4096, 1, 1, false, false, true)],
      let m := hosted {} (ctxBytes x.1 x.2.1 x.2.2.1 x.2.2.2.1)
      let bs := m.peek 0 256
      m.domOfCtx 0 = some 0 ∧ m.granErr = [] ∧ m.rst.inReset = false ∧ m.rst.domState.getLsbD 0 = false ∧ (m.getCtx 0).state = .inactive ∧
        (m.getCtx 0).job = none ∧ (m.getDom 0).inHost 0 256 = true ∧
        (CtxDesc.ofBytes bs).outside (m.getDom 0) = x.2.2.2.2.1 ∧ ctxFormatBad bs = x.2.2.2.2.2.1 ∧
        (CtxDesc.ofBytes bs).notifyBad (m.getDom 0) = x.2.2.2.2.2.2) ∧
    ((hosted { descAddr := 2 ^ 30 - 255 } []).getDom 0).hostmemGib.toNat * 2 ^ 30 < ((hosted { descAddr := 2 ^ 30 - 255 } []).getCtx 0).descAddr.toNat + 256 ∧
    (let m := hosted { state := .active, job := some 0, desc := some e, sqTail := 3, cqTail := 2, held := [{ tag := 0, status := 0, reason := 0, detail := 0, value := 0, flags := 0, opcode := 3, notify := false }] } []
     let x := m.getCtx 0
     m.domOfCtx 0 = some 0 ∧ x.state ≠ .inactive ∧ x.state ≠ .refused ∧ x.job.isSome ∧ x.desc = some e ∧ m.memWf ∧
      (∀ v ∈ [3, 16], (BitVec.ofNat 32 v - x.sqHead).toNat ≤ e.sqEntries ∧ (BitVec.ofNat 32 v - x.sqTail).toNat < 2 ^ 31) ∧
      e.sqEntries < ((17 : BitVec 32) - x.sqHead).toNat ∧ 2 ^ 31 ≤ ((2 : BitVec 32) - x.sqTail).toNat ∧
      (x.cqTail - (2 : BitVec 32)).toNat < e.cqEntries ∧ ((2 : BitVec 32) - x.cqHead).toNat < 2 ^ 31 ∧ x.held.length = 1 ∧
      e.cqEntries < (x.cqTail - (3 : BitVec 32)).toNat) ∧
    (let m := hosted { state := .active, desc := some e, cqTail := 16 } []
     let x := m.getCtx 0
     x.held = [] ∧ (x.cqTail - (0 : BitVec 32)).toNat ≤ e.cqEntries ∧ ((0 : BitVec 32) - x.cqHead).toNat < 2 ^ 31) := by
  decide +kernel

/-- The bytes of a command: opcode, flags, job 1, STEP, and its arguments from byte 16 on (R427). -/
def cmdBytes (op flags step : Nat) (args : List Byte) : List Byte :=
  leBytes 1 op ++ leBytes 1 flags ++ leBytes 2 7 ++ leBytes 2 1 ++ leBytes 2 0 ++ leBytes 8 step ++ args ++ List.replicate (48 - args.length) 0

/-- RingsAndRecords: commands of a right and a wrong form to take, one that stands behind another; a record to write, one to hold, some to
notify of. -/
theorem witness_RingsAndRecords :
    let e := CtxDesc.ofBytes (ctxBytes 1 4096 0 1)
    let r : Record := { tag := 0, status := 0, reason := 0, detail := 0, value := 0, flags := 0, opcode := 3, notify := true }
    (∀ x ∈ [(3, 1, true), (3, 4, false), (14, 0, false)],
      let m : Mach := hosted { state := .active, desc := some e, sqTail := 1 } (cmdBytes x.1 x.2.1 0 []) 4096
      let bs := m.peek 4096 64
      let c := m.getCtx 0
      c.desc = some e ∧ 0 < e.cqEntries ∧ m.domOfCtx 0 = some 0 ∧ m.granErr = [] ∧ c.state ≠ .inactive ∧ c.state ≠ .refused ∧
        (m.getHdr (hdrKey tyCtx 0)).quiesce = false ∧ (m.getHdr (hdrKey tyCtx 0)).enable = true ∧ c.sqHead ≠ c.sqTail ∧ c.taken = [] ∧
        c.finished = [] ∧ (c.sqHead - c.cqHead).toNat < e.cqEntries + 64 ∧ commandOk bs = x.2.2 ∧ e.sqBase = 4096 ∧ e.sqEntries = 16) ∧
    (let m := hosted { desc := some e, taken := [{ n := 0, tag := 0, opcode := 3, notify := false, bytes := [] }] } []
     (m.getCtx 0).sqHead = (m.getCtx 0).sqTail ∧ ∃ u ∈ (m.getCtx 0).taken, u.accepted = false) ∧
    (∀ t ∈ [15, 16], let m := hosted { desc := some e, finished := [(5, r)], cqTail := BitVec.ofNat 32 t } []
      let c := m.getCtx 0
      c.finished.find? (fun f => f.1 == 5) = some (5, r) ∧ m.memWf ∧ c.held = [] ∧ r.notify = true ∧
        (decide ((c.cqTail - c.cqHead).toNat = e.cqEntries) = decide (t = 16))) ∧
    (let m := { hosted { desc := some e, unnotified := 1 } [] with time := { ns := 1000 } }
     (m.getCtx 0).unnotified ≠ 0 ∧ (m.getCtx 0).oldestAt + 1000 * e.coalesceUs ≤ m.now ∧ e.notifyId ≠ 0 ∧ (m.getDom 0).host = .localHost) := by
  refine ⟨?_, ?_, ?_, ?_⟩
  · decide +kernel
  · exact ⟨by decide +kernel, _, List.mem_singleton.mpr rfl, rfl⟩
  · decide +kernel
  · decide +kernel

/-- Context 0 of a module has taken a command; a job stands in slot 0. -/
def ordered (op step : Nat) (args : List Byte) (j : Option Job := some job0) (x : Ctx := {}) : Mach :=
  { hosted { x with state := .active, desc := some (CtxDesc.ofBytes (ctxBytes 1 4096 0 1)),
                    taken := [{ n := 0, tag := 7, opcode := op, notify := false, bytes := cmdBytes op 0 step args }] } [] with
    cmt := { jobs := [(0, j)] } }

/-- The command that such a module has taken is one of its opcode. -/
theorem ordered_orders (op step : Nat) (args : List Byte) (j : Option Job) (x : Ctx) :
    (ordered op step args j x).orders 0 0 op 0 (cmdBytes op 0 step args) :=
  ⟨⟨_, rfl, rfl, rfl, rfl⟩, by rfl⟩

/-- HostJobCommands, commands that are refused or change a job at rest, and those of a running one: the command taken is
`ordered_orders`. -/
theorem witness_HostJobCommands_jobs :
    (∀ op ∈ [3, 4, 8, 10, 11], let m := ordered op 0 [] none
      m.domJob 0 (cmdN (cmdBytes op 0 0 []) 4 2) = none ∧ m.granErr = [] ∧ m.memWf) ∧
    (let m := ordered 8 0 []
     m.domJob 0 (cmdN (cmdBytes 8 0 0 []) 4 2) = some 0 ∧ m.job? 0 = some job0 ∧ job0.inconsistent = false ∧ job0.refuses = false ∧
       job0.run = none ∧ job0.restore = none ∧ job0.carried = [] ∧ job0.monuments = [] ∧ job0.stops = [] ∧ job0.plat = none ∧
       job0.participants = []) ∧
    (let j : Job := { job0 with state := .halted, halt := 2, inconsistent := true, run := some (0, 1), started := true }
     let m := ordered 10 0 [] (some j)
     m.domJob 0 (cmdN (cmdBytes 10 0 0 []) 4 2) = some 0 ∧ m.job? 0 = some j ∧ j.inconsistent = true ∧ j.refuses = true ∧ j.run.isSome ∧
       j.lateFor 0 = false) ∧
    (∀ x ∈ [(2, false, true), (1, true, false), (0, true, true)],
      let j : Job := { job0 with step := 1, run := some (0, 1), started := x.2.2, part := { readyEver := x.2.1 } }
      j.lateFor x.1 = decide (x.1 ≤ 1) ∧ j.refuses = false ∧ j.run.isSome ∧ (x.1 < j.step.toNat ↔ x.1 = 0)) := by
  decide +kernel

/-- HostJobCommands, commands with buffers in host memory: a list just within it and just outside; a list of participants that is good;
MONUMENT of a step whose apply has and has not begun. -/
theorem witness_HostJobCommands_buffers :
    (∀ x ∈ [(2 ^ 30 - 8, true), (2 ^ 30 - 7, false)],
      (dom0.inHost (cmdN (cmdBytes 5 0 1 (leBytes 4 0 ++ leBytes 4 1 ++ leBytes 8 x.1)) 24 8)
        (8 * cmdN (cmdBytes 5 0 1 (leBytes 4 0 ++ leBytes 4 1 ++ leBytes 8 x.1)) 20 4)) = x.2 ∧
      dom0.inHost (cmdN (cmdBytes 6 0 1 (leBytes 8 x.1 ++ leBytes 8 8)) 16 8) (cmdN (cmdBytes 6 0 1 (leBytes 8 x.1 ++ leBytes 8 8)) 24 8) =
        x.2) ∧
    (let bs := cmdBytes 2 0 0 (leBytes 8 64 ++ leBytes 2 1)
     let m := ordered 2 0 (leBytes 8 64 ++ leBytes 2 1)
     (m.getDom 0).inHost (cmdN bs 16 8) (2 * cmdN bs 24 2) = true ∧
       splitLe 2 (cmdN bs 24 2) (m.peek ((m.getDom 0).hostAt + cmdN bs 16 8) (2 * cmdN bs 24 2)) = [0] ∧ m.listOk [0] = true ∧ job0.run = none ∧ job0.restore = none ∧ job0.refuses = false ∧
       m.jobFits { job0 with participants := [0] } = true) ∧
    (let args := leBytes 4 0 ++ leBytes 4 1 ++ leBytes 8 64
     let m := ordered 5 1 args
     let bs := cmdBytes 5 0 1 args
     let m2 := (m.hostRead 0 64 8).2
     job0.lateFor (cmdN bs 8 8) = false ∧ job0.refuses = false ∧ job0.carried = [] ∧ job0.plat = none ∧
       (m2.runRd (.planner 64) (some 0) (m2.causeOf 0) (tableSizes job0 (m2.tableSlots job0)
         ((stakeSet (job0.replicas.map fun r => (r.table, r.row)) bs (m.stakeList 0 bs)).map (·.1)).eraseDups)).1.isSome = true) ∧
    ∀ b ∈ [true, false],
      let j : Job := { job0 with part := { commit := if b then some 0 else none } }
      j.applyBegun 0 = b ∧ j.refuses = false ∧
        dom0.inHost (cmdN (cmdBytes 6 0 0 (leBytes 8 64 ++ leBytes 8 8)) 16 8) (cmdN (cmdBytes 6 0 0 (leBytes 8 64 ++ leBytes 8 8)) 24 8) = true := by
  decide +kernel

/-- The least image, at address 4,096: one phase of each kind, each with a program of one HALT: the bytes that are not zero of its header
(R339), its phase records (R340), its program index (R341) and its programs (R185). -/
def leastImage : List (Nat × Byte) :=
  [(4096, 1), (4104, 160), (4105, 2), (4132, 4), (4137, 1), (4144, 4), (4152, 128), (4153, 1),
   (4360, 1), (4362, 255), (4363, 255),
   (4384, 1), (4386, 1), (4388, 1), (4392, 1), (4394, 255), (4395, 255),
   (4416, 2), (4418, 2), (4420, 2), (4424, 1), (4426, 255), (4427, 255),
   (4448, 3), (4450, 3), (4452, 3), (4456, 1), (4458, 255), (4459, 255),
   (4481, 2), (4488, 1),
   (4512, 40), (4513, 2), (4520, 1),
   (4544, 80), (4545, 2), (4552, 1),
   (4576, 120), (4577, 2), (4584, 1),
   (4614, 1), (4646, 4),
   (4648, 1), (4650, 1), (4654, 1), (4686, 4),
   (4688, 2), (4690, 2), (4694, 1), (4726, 4),
   (4728, 3), (4730, 3), (4734, 1), (4766, 4)]

/-- HostJobCommands, LOAD_IMAGE: an image that passes its checks with a place for its copy, an identity in use, a context that is bound. -/
theorem witness_HostJobCommands_image :
    let args := leBytes 8 4096 ++ leBytes 8 672
    let bs := cmdBytes 1 0 0 args
    (let m : Mach := { ordered 1 0 args none with mem := leastImage }
     m.memWf ∧ (m.checkImage 0 0 (cmdN bs 4 2) (cmdN bs 16 8) (cmdN bs 24 8)).1.isRight = true ∧ m.imagePlace (2 ^ 30) 672 = true ∧
       m.freeSlot = some 0 ∧ (m.getCtx 0).job = none ∧ m.slotOfJob 1 = none) ∧
    (let m := ordered 1 0 args
     cmdN bs 4 2 = 1 ∧ (m.getDom 0).inHost 4096 672 = true ∧ (m.getDom 0).inHost (2 ^ 30) 1 = false ∧ (m.slotOfJob 1).isSome ∧
       (m.getCtx 0).job = none) ∧
    ((ordered 1 0 args none { job := some 3 }).getCtx 0).job.isSome ∧
    (let m : Mach := { cmt := { jobs := (List.range 64).map fun i => (i, some { job0 with id := i + 2 }) } }
     m.slotOfJob 1 = none ∧ (∀ i, i < 64 → (m.job? i).isSome) ∧ (m.getCtx 0).job = none) := by
  decide +kernel

/-- HostJobCommands, EASEMENT: a release, with and without another context's easement pending, one above a quota, one that does not fit beside another, one that does; and one that is reclaimed. -/
theorem witness_HostJobCommands_easement :
    (∀ k ∈ [0, 1, 2], let m := ordered 9 0 (leBytes 2 k)
      let bs := cmdBytes 9 0 0 (leBytes 2 k)
      cmdN bs 16 2 = k ∧ cmdN bs 20 4 = 0 ∧ cmdN bs 24 2 = 0 ∧ (m.getPlnDom 0).pending = none ∧ (m.getDom 0).quotaClusters.toNat = 1) ∧
    (∀ x ∈ [(640, false), (639, true)], let m : Mach := { ordered 9 0 (leBytes 2 1) with plnDom := [(1, { eased := BitVec.ofNat 10 x.1 })] }
      let sum (f : PlnDom → Nat) : Nat := ((List.range 16).map fun i => if i = 0 then 0 else f (m.getPlnDom i)).sum
      decide (1 + sum (fun e => e.reserved.1) ≤ ((List.range 640).filter m.clusterPresent).length) = x.2 ∧
        0 + sum (fun e => e.reserved.2) ≤ m.nearMib) ∧
    (let m : Mach := { ordered 9 0 [] with plnDom := [(0, { pending := some (1, 0, 0, 1, 5), easeState := 1 })] }
     (m.getPlnDom 0).pending = some (1, 0, 0, 1, 5) ∧ (m.taken? 1 5).isNone) ∧
    (let m : Mach := { ordered 9 0 (leBytes 2 1) with plnDom := [(0, { pending := some (1, 0, 0, 0, 0), easeState := 1 })] }
     (m.getPlnDom 0).pending = some (1, 0, 0, 0, 0) ∧ m.reclaimed 0 = true ∧ (m.taken? 0 0).isSome) := by
  decide +kernel

/-! ## Restores, context images, datagrams, domains -/

/-- The SHA-512 of the least image, as an independent program computes it. -/
def leastDigest : List Byte :=
  [0x6D, 0x7B, 0x92, 0x5B, 0x65, 0xAA, 0x0E, 0xC8, 0xA6, 0x5D, 0xB6, 0x92, 0xEB, 0xDB, 0xD6, 0xAC, 0x5F, 0x51, 0x94, 0x41, 0x1B, 0xDF, 0x8A, 0x16,
   0x6D, 0xBB, 0x03, 0x09, 0x12, 0xD8, 0x01, 0x4D, 0x8C, 0xBD, 0xEC, 0x64, 0x3B, 0xF4, 0xFE, 0x5D, 0x71, 0x73, 0x13, 0x51, 0x53, 0x15, 0x55, 0xED,
   0x16, 0x58, 0x8A, 0x97, 0x76, 0xE4, 0x76, 0x00, 0x95, 0xEB, 0xC9, 0x3A, 0x4D, 0xB1, 0xFE, 0x35]

/-- A part of a monument with no section: its number, the number of parts, its step 9 and a digest (R331). -/
def emptyPart (number parts : Nat) (digest : List Byte) : List Byte :=
  leBytes 2 1 ++ leBytes 2 0 ++ leBytes 2 number ++ leBytes 2 parts ++ leBytes 8 9 ++ leBytes 8 128 ++ leBytes 8 0 ++ digest ++ List.replicate 32 0

/-- The arguments of a RESTORE of the least image from one part listed at 8,192, on the module itself. -/
def restoreArgs : List Byte := leBytes 8 4096 ++ leBytes 8 672 ++ leBytes 8 8192 ++ leBytes 2 1 ++ leBytes 6 0 ++ leBytes 8 8256 ++ leBytes 2 1

/-- A module where that RESTORE has been taken: the part at 16,384 of a module. -/
def restoring (module : Nat) (part : List Byte) : Mach :=
  { ordered 7 0 restoreArgs none with
    mem := leastImage ++ cells 8192 (leBytes 4 (8192 * module + 0x800) ++ leBytes 4 0 ++ leBytes 8 16384) ++ cells 16384 part }

/-- The checks of a RESTORE in a module all hold but for those of its part, which reads as `P` says. -/
def restoreReads (m : Mach) (P : List (Option (List Byte)) → Bool) : Bool :=
  let bs := cmdBytes 7 0 0 restoreArgs
  let ps := partList (m.peek 8192 16)
  match (m.restoreLists 0 bs).2.checkImage 0 0 1 4096 672 with
  | (.inl _, _) => false
  | (.inr img, m0) =>
    match m0.runRd (.planner 64) (some 0) { domain := 0 } (readParts ps) with
    | (none, _) => false
    | (some parts, m1) =>
      let slot := m1.freeSlot.getD 0
      let b := (m1.bindJob 0 0 1 (2 ^ 30) img).modJob slot fun j =>
        { j with participants := [0], state := .restoring, restore := some (0, 0), forced := 2,
                 step := BitVec.ofNat 64 (cmdN ((parts.headD none).getD []) 8 8) }
      m0.imagePlace (2 ^ 30) 672 && m.partsHeld 0 ps && (b.job? slot).map (fun j => b.jobFits j && b.homesFit j (parts.filterMap id)) == some true && P parts && decide (m.granErr = [])

/-- RestoresAndContextImages, RESTORE: a part of each status and a sound one; a list that is none. -/
theorem witness_Restore :
    (let m := restoring 0 []
     let bs := cmdBytes 7 0 0 restoreArgs
     (m.getDom 0).inHost (cmdN bs 32 8) (16 * cmdN bs 40 2) = true ∧ (m.getDom 0).inHost (cmdN bs 48 8) (2 * cmdN bs 56 2) = true ∧
       splitLe 2 (cmdN bs 56 2) (m.peek 8256 2) = [0] ∧ m.listOk [0] = true ∧ m.listOk [1] = false ∧ (m.getDom 0).inHost (2 ^ 30) 16 = false ∧
       m.memWf) ∧
    restoreReads (restoring 0 (emptyPart 0 1 (List.replicate 64 0))) (fun ps => ps.any fun p => p.any fun p => (p.drop 0x20).take 64 != leastDigest) = true ∧
    restoreReads (restoring 0 (emptyPart 1 1 leastDigest))
      (fun ps => ps.all fun p => p.any fun p => (p.drop 0x20).take 64 == leastDigest && cmdN p 4 2 == 1) = true ∧
    restoreReads { restoring 1 [] with fetches := [{ owner := .planner 64, handle := 0, module := 1, addr := 16384, len := 128, data := some [], failed := true }] }
      (fun ps => ps == [none]) = true ∧
    restoreReads (restoring 0 (emptyPart 0 1 leastDigest))
      (fun ps => ps == [some (emptyPart 0 1 leastDigest)] && cmdN (emptyPart 0 1 leastDigest) 0 2 == 1 && cmdN (emptyPart 0 1 leastDigest) 6 2 == 1 &&
        cmdN (emptyPart 0 1 leastDigest) 4 2 == 0) = true := by
  refine ⟨?_, ?_, ?_, ?_, ?_⟩ <;> decide +kernel

/-- SHA-512 of the least image. -/
theorem test_sha512 : sha512 (({ mem := leastImage } : Mach).peek 4096 672) = leastDigest := by decide +kernel

/-- RestoresAndContextImages, RESTORE_BEGIN: a job that waits for packets in flight and one whose context runs, one whose part is sound, one whose part cannot be read. -/
theorem witness_RestoreBegin :
    let p : Plat := { reason := 1 }
    let j : Job := { job0 with restore := some (0, 0), state := .restoring, plat := some p }
    let bs := cmdBytes 7 0 0 restoreArgs
    let at' (module : Nat) (fs : List Fetch) : Mach := { restoring module [] with cmt := { jobs := [(0, some j)] }, fetches := fs }
    (reached (pk 0x30 3 0x910) 0x910).inFlight 1 = true ∧
    (let m : Mach := { at' 0 [] with ctx := [(0, { state := .running })] }
     m.job? 0 = some j ∧ m.inFlight 1 = false ∧ m.ctxQuiet 0 j = false) ∧
    (∀ x ∈ [(0, []), (1, [({ owner := .planner 64, handle := 0, module := 1, addr := 16384, len := 128, data := some [], failed := true } : Fetch)])],
      let m := at' x.1 x.2
      m.job? 0 = some j ∧ m.inFlight 1 = false ∧ m.ctxQuiet 0 j = true ∧ j.plat.isSome ∧ j.run = none ∧ j.carried = [] ∧ j.monuments = [] ∧ j.stops = [] ∧ m.memWf ∧
        m.granErr = [] ∧ ((m.taken? 0 0).map (·.bytes)) = some bs ∧
        (match m.restoreLists 0 bs with
          | (some (ps, _), m0) => (m0.runRd (.planner 64) (some 0) { domain := 0 } (readParts ps)).1.map fun parts => decide (none ∈ parts)
          | _ => none) = some (decide (x.1 = 1))) := by
  decide +kernel

/-- RestoresAndContextImages, SAVE_CONTEXT and its end: a context with no job and one with a job, also halted; a phase that runs, and room for
the image or not. -/
theorem witness_SaveContext :
    let args := leBytes 8 0 ++ leBytes 8 4096
    let j : Job := { job0 with state := .halted, halt := 3 }
    (dom0.inHost (cmdN (cmdBytes 12 0 0 args) 16 8) (cmdN (cmdBytes 12 0 0 args) 24 8) = true) ∧ dom0.inHost (2 ^ 30) 1 = false ∧
    ((ordered 12 0 args).getCtx 0).job = none ∧
    (∀ x ∈ [job0, j], let m := ordered 12 0 args (some x) { job := some 0 }
      (m.getCtx 0).job.bind m.job? = some x ∧ x.refuses = decide (x = j) ∧ (m.getCtx 0).save = none) ∧
    (∀ room ∈ [0, 4096],
      let m0 := ordered 12 0 args
      let m : Mach := { m0 with ctx := [(0, { m0.getCtx 0 with job := some 0, state := .stopping, save := some (0, 0, room) })] }
      (m.getCtx 0).state = .stopping ∧ m.ctxHeld 0 = true ∧ m.startedDone 0 job0 = true ∧ m.domOfCtx 0 = some 0 ∧ m.job? 0 = some job0 ∧
        (m.taken? 0 0).isSome ∧ decide ((m.contextImage 0 job0 0).length ≤ room) = decide (room = 4096)) := by
  decide +kernel

/-- RestoresAndContextImages, RESUME_CONTEXT: a context with no job, one that runs, images that are none, of another job, of the other class,
and one that is restored. -/
theorem witness_ResumeContext :
    let img (digest cls : Nat) : List Byte := leBytes 2 1 ++ leBytes 1 0 ++ leBytes 1 cls ++ leBytes 1 64 ++ leBytes 3 0 ++ leBytes 8 0 ++
      leBytes 8 128 ++ leBytes 8 0 ++ List.replicate 64 (BitVec.ofNat 8 digest) ++ List.replicate 32 0
    let args := leBytes 8 4096 ++ leBytes 8 128
    let j : Job := { job0 with digest := List.replicate 64 1, plat := some { reason := 1 } }
    dom0.inHost (cmdN (cmdBytes 13 0 0 args) 16 8) (cmdN (cmdBytes 13 0 0 args) 24 8) = true ∧
    ((ordered 13 0 args).getCtx 0).job = none ∧
    (∀ x ∈ [(1, 0, true), (2, 0, true), (1, 1, true), (1, 2, false)],
      let m0 := ordered 13 0 args (some j)
      let e := m0.getCtx 0
      let m : Mach := { m0 with ctx := [(0, { e with job := some 0 })], mem := cells 4096 (img x.1 x.2.1) }
      let y := CtxImg.ofBytes (m.peek 4096 128)
      (m.getCtx 0).job = some 0 ∧ m.job? 0 = some j ∧ (m.getCtx 0).state = .active ∧ j.refuses = false ∧ m.jobFits j = true ∧ j.newest = none ∧
        j.phaseBegun = false ∧ ((m.getCtx 0).desc.map (·.classL)).getD false = false ∧ y.isSome = x.2.2 ∧
        (y.map fun i => decide (i.digest = j.digest)) = (if x.2.2 then some (decide (x.1 = 1)) else none) ∧
        (y.map (·.cls)) = (if x.2.2 then some x.2.1 else none) ∧ (y.all fun i => i.current j) = true) := by
  decide +kernel

/-- A module whose domain 0 has a remote host, with a service port up and bytes of memory. -/
def served (bs : List (Nat × Byte)) (x : Ctx := {}) (y : Dom := { dom0 with host := .remote, remotePort := 9, remoteAddr := 5, key := [1, 2] }) : Mach :=
  { dom := [(0, y)], ctx := [(0, x)], svc := [(1, { state := 2 })], mem := bs }

/-- A datagram with the tag that its key gives it. -/
def signed (g : Datagram) : Datagram := { g with tag := gramMac g [1, 2] }

/-- A datagram of domain 0's host to port 1. -/
def gramOf (type : Nat) (addr : Nat) (data : List Byte) (length : Nat := data.length) : Datagram :=
  { fromAddr := 5, fromPort := 9, toPort := 0x4B04, type := type, domain := 0, seq := 1, length := length, addr := addr, data := data }

/-- A well-formed datagram that its host has signed is heard. -/
theorem hears_signed (g : Datagram) (bs : List (Nat × Byte)) (x : Ctx) (h : g.toPort = 0x4B04) (d : g.domain = 0)
    (w : (served bs x).gramGood (signed g) = true) : (served bs x).hearsGram 1 g.type (signed g) :=
  ⟨by decide, rfl, h, rfl, w, by
    show gramMac (signed g) ((served bs x).getDom (signed g).domain).key = gramMac g [1, 2]
    rw [show (signed g).domain = 0 from d]
    rfl⟩

/-- Datagrams: the datagrams of `hears_signed` are fresh; indices of a SUBMIT accepted and refused, a WRITE within host memory and beyond it, a READ of
both, pages that a REG_READ reaches and does not reach, acknowledgements. -/
theorem witness_Datagrams_heard :
    let e := CtxDesc.ofBytes (ctxBytes 1 4096 0 1)
    (∀ k ∈ [1, 16], let g := gramOf 1 0 (List.replicate (64 * k) 0)
      let m := served [] { desc := some e, sqTail := BitVec.ofNat 32 (if k = 16 then 1 else 0) }
      let x := m.getCtx 0
      let t := x.sqTail + BitVec.ofNat 32 (g.length / 64)
      m.gramGood (signed g) = true ∧ (m.getDom 0).duplicate g.seq = false ∧ m.domOfCtx g.context = some 0 ∧ x.desc = some e ∧
        (decide ((t - x.sqHead).toNat ≤ e.sqEntries) = decide (k = 1)) ∧ (t - x.sqTail).toNat < 2 ^ 31 ∧ g.length / 64 ≤ e.sqEntries) ∧
    (∀ a ∈ [2 ^ 30 - 2, 2 ^ 30 - 1], let g := gramOf 2 a [1, 2]
      (served []).gramGood (signed g) = true ∧ (decide (g.addr + g.length ≤ ((served []).getDom 0).hostmemGib.toNat * 2 ^ 30) = decide (a = 2 ^ 30 - 2)) ∧
        ((served []).getDom 0).out = []) ∧
    ((served []).gramGood (signed (gramOf 3 (2 ^ 48 * 2) [])) = true ∧
      (served []).gramGood (signed (gramOf 6 (pageAddr tyDom 0 0 0) [])) = true ∧ (served []).gramGood (signed (gramOf 10 0 [])) = true) ∧
    (((served []).mayReach (some 0) tyDom 0 0).1 = true ∧ pageExists tyDom 0 0 = true ∧ ((served []).mayReach (some 0) tyDom 1 0).1 = false ∧
      tyDom < 256) ∧
    (let y : Dom := { txSeq := 3 }
     (y.txSeq - 3).toNat < 2 ^ 31 ∧ 2 ^ 31 ≤ (y.txSeq - 4).toNat) ∧
    (let y : Dom := { rxHigh := some 1, rxSeen := [1] }
     y.duplicate 1 = true ∧ y.duplicate 2 = false) := by
  decide +kernel

/-- Datagrams: one that is not authentic, one that is malformed; one to send again and one not yet; a port that is lost and one that is found;
guest accesses at the ends of the mappings. -/
theorem witness_Datagrams_others :
    (let g := gramOf 1 0 (List.replicate 64 0)
     (served []).gramGood g = true ∧ gramMac g ((served []).getDom 0).key ≠ g.tag ∧ g.type = 1) ∧
    (gramOf 2 0 [] 3).length ≠ (gramOf 2 0 [] 3).data.length ∧ ((served []).getSvc 1).state = 2 ∧
    (∀ t ∈ [0, 1], let o : OutGram := { gram := gramOf 8 0 [], sentAt := t }
      let m : Mach := { served [] {} { host := .remote, lastPort := 1, out := [o] } with time := { ns := 200000 } }
      (m.getDom 0).host = .remote ∧ (m.getSvc (m.getDom 0).lastPort).state = 2 ∧ (m.getDom 0).out = [o] ∧ o.sent = true ∧
        decide (o.sentAt + 1000 * (m.getSvc 1).resendUs.toNat ≤ m.now) = decide (t = 0)) ∧
    ((({ svc := [(0, { state := 1 })] } : Mach).getSvc 0).state = 1) ∧
    (∀ x ∈ [(0x7FFFFFFF, false), (0x80000000, true), (0x80000000 + 2 ^ 30 - 1, true), (0x80000000 + 2 ^ 30, false), (0x0F0000000000 - 1, false),
            (0x0F0000000000, true), (0x0F0000000000 + 2 ^ 36 - 1, true), (0x0F0000000000 + 2 ^ 36, false)],
      dom0.host = .localHost ∧
      decide ((0x80000000 ≤ x.1 ∧ x.1 < 0x80000000 + dom0.hostmemGib.toNat * 2 ^ 30) ∨ (0x0F0000000000 ≤ x.1 ∧ x.1 < 0x0F0000000000 + 2 ^ 36)) = x.2) := by
  decide +kernel

/-- DomainsAndObservation: domains in and out of reset, held and not; cores of a held and a free domain; selectors free, claimed, and of
another owner; events of the list and not; a trace control that changes something and one that does not; a trace buffer. -/
theorem witness_DomainsAndObservation :
    (∀ h ∈ [0, 1], let m : Mach := { rst := { domState := 1, hold := BitVec.ofNat 16 h }, dom := [(0, dom0)] }
      m.rst.inReset = false ∧ m.rst.domState.getLsbD 0 = true ∧ m.rst.domState.getLsbD 1 = false ∧ m.rst.hold.getLsbD 0 = decide (h = 1) ∧
        (m.getCtx 0).state = .inactive ∧ (m.getCtx 1).state = .inactive ∧ m.ctx = [] ∧
        m.coreDomain 0 = some 0 ∧ m.coreDomain 1 = none) ∧
    (let sel (s : ThdSel) : Mach := { dom := [(3, { dom0 with ctxCount := 0 })], clu := [(0, { assigned := true, domain := 3 })], thdClu := [(0, { sel := [(63, s)] })] }
     let new : ThdSel := { claimed := true, mgt := true, owner := 0, cores := 5, event := 0x28 }
     0x28 ∈ thdEvents ∧ 0x29 ∉ thdEvents ∧ new ≠ { ({} : ThdSel) with ctr := 0 } ∧ new = { new with ctr := 0 } ∧ (sel {}).clusterPresent 0 = true ∧
       ((sel {}).getDom 3).host = .localHost ∧ (sel {}).domOfCluster 0 = some 3 ∧ Tab.get {} ((sel {}).getThdClu 0).sel 63 = {} ∧
       (Tab.get {} ((sel new).getThdClu 0).sel 63).claimed = true ∧ (Tab.get {} ((sel new).getThdClu 0).sel 63).mgt = true ∧
       (Tab.get {} ((sel { new with mgt := false, owner := 2 }).getThdClu 0).sel 63).owner.toNat ≠ 3) ∧
    (let m : Mach := { thdSel := 3, thdDom := [(3, { gsel := [(15, 7)], mode := 1, sizeMib := 2, asked := true })],
                       dom := [(3, { dom0 with shares := [(0x010000000000, 2 ^ 30)] })] }
     let t := m.getThdDom 3
     m.thdSel.toNat = 3 ∧ Tab.get 0 t.gsel 15 = (7 : BitVec 8) ∧ t.mode = (1 : BitVec 32).setWidth 2 ∧
       t.sizeMib = (0x20001 : BitVec 32).extractLsb' 16 9 ∧ (0x20001 : BitVec 32).setWidth 2 = t.mode ∧ t.mode ≠ (2 : BitVec 32).setWidth 2 ∧
       (3 : BitVec 32).setWidth 2 = (3 : BitVec 2) ∧ (m.getDom 3).host = .localHost ∧ t.asked = true ∧ (m.getThdDom 0).asked = false ∧
       ∃ a, m.tracePlace 3 a 4096 = true) := by
  refine ⟨?_, ?_, ?_⟩
  · decide +kernel
  · decide +kernel
  · refine ⟨?_, ?_, ?_, ?_, ?_, ?_, ?_, ?_, ?_, ?_, 0x010000000000, ?_⟩ <;> decide +kernel

/-! ## Management, power, resets -/

/-- A number of 4,096 bits from its eight parts of 512 bits, the highest first. -/
def ofLimbs (l : List Nat) : Nat := l.foldl (fun x y => x * 2 ^ 512 + y) 0

/-- The modulus of an RSA-4096 key, made for these tests with an independent program; its exponent is 65,537. -/
def testModulus : Nat := ofLimbs
  [0x9E4994E55F8B4F4B00B3379A4FE4BB04EE522CDA8727DE8FFD47AD3C2667BF8C5AF48DD624C56950301D46236CB9DD26A5947E4F3B4EA233623F8438E14BD23E,
   0xDB06E1318A213ADC74228B998444C7B2A174359905F94067FC4765EE407F972A627E622A54DC4E105E5A5FC4109A06E551285B4A676F20A4AB798DE5474F9FE5,
   0x15F7F3F8E616D889D8690B39B463E601A3E35044D68EEF8ABC8C6D6D2A8A56E818152F1945EE11B05C0FEEA960C9017599116567B3B62ABB39CBF773B063B471,
   0x9CCFDA677F39E0297EADD4FDD0F2E834D7551462F5C7669025B983E08DF38D90C8DA74B477B7F786DF6FD0E1355C35BC3EA638ABB1F72479DEEF5CC57225DFA1,
   0x6DFEFFBB8650614AC52CBB3CA0CA231EC1335B24CFA95AC63FC10CDAB47AB555B2194C35D0C15FBDC2F20CACBDC944295F38CB300A0E5A0720285F680002094C,
   0x5C0CEC15FB4745E0C451AB294AEEEA1D670299A68CE3F3901914AE9ACC03760BE702C46A20CD903720C88946BE42EB416B66118242E187A5AFE409EAF24A00A6,
   0x3A18D653ED480F77368B8BA157E54DD4BF17AF05783FD8A1A27376A8256347D8CC113248DC76FFABC2815F037A3BFE8502C19994D59D173E26B5D7C0CAB00A14,
   0x7177C660515AA478A73957C3EC68B3142BA08DC23994CF47FA51E69B76F7961DDAC2F1A71BB753DE2333720C7938369102E17D66123AFF9CEE411F70FA7DFED7]

/-- That program's signature under the key of the image `testImage`. -/
def testImageSignature : Nat := ofLimbs
  [0x0B62FEC437B32F7EE34F8FAE1D3BC0C37EE48766C15D2CE32597E1070DFADDA8F67725038807B1E3E4936D30D391C3299AF1465FFB21396B6014714501D07419,
   0x5E024A1451CB27D569D4709DA2E26F85D018C86468FFB484ED18615BB74A32498D4F6348BB5FA5267A262C078769707DD5870CD090B2ABBA5A9B31DF93991F5B,
   0x0120953F6291032C9DFA15EB487F065C87A990AB31C1390E930F69B2D79F232E751170A16D17E2E313F518DC02801C6497193AF1BD3C43BEABAACE5C84072FAC,
   0x136D575B3D87DD1F0E8896B09A1CE8D5E441A645A9C97A27001325FC1B25A0C115AD72F0B1023CAA623AC0BE42E170CDFBDA65811316936EE70862D999E666DD,
   0x99F12C258A3D0E7AE56A7F3327575EAF8027D257C5F7B349346D7C8D6E68081A11FD8539D1E614A0F3DAF011C0294448CF8C8110E587B9B158043025A0286146,
   0xC5D2142B6A10B7EA250CB3B6FCE95FC8977B30B9B3D60B46D719BF8CBA2E8AA5D124A6D32F85655009D3239C27A90C0D8873E04A3239CDB4A8E2E11F1AFB5F56,
   0xF62E0F2626E15B468A561D2371B6F757617899642412551F1A7B21511DA2A8C69A9D76815376B1BC3F6609C6AD21674A54A9759F5084674F3B05C6146AF8C1F7,
   0x6E8988F8549D1BD38BC4C4B7FF89F5AC0F45BDAF255E715F921B9F3E7D54306B6567C3C3FDD98396025EE420F3FAAE592470F30B4131E9432902101E5B183147]

/-- And of the one byte 0x2A. -/
def testOptionSignature : Nat := ofLimbs
  [0x29FA0F0DCE29218A9825AC831335269FC7190A8CF97F5EBEBB88479834AAE6695AECB28D299332733D9607566AB0FFF5F03A555BFB383DDC7EBEBA9B1A62B31F,
   0x3616FE00425ABFFB651532D4E446EACE9C588EA210F8C370DB56CB55D019B2F4989DAFD0B78CBFB99361A1453A28EACEB522DB52185075E99EC6301F1DEBA30C,
   0x83A79FD63FE3907989F7F9E450B0932103D6080BB0B374032F38113EAAF79446ECC42D19FE69F6E8C9AF368A538F6FCAB49A25A4139F01E129DDD3010ACCDD6C,
   0x426C9EB2E1D17B978208C71F08A1CB652ECEBF6D94ACCEF91465E164FFEB82268CFBE7CFEBB41EE55E4BB6B2A8DB6C20D63F9E2F2FEBDA25E5E8C27EE967A1F7,
   0x09D9D719B3B27C9897F82DF4509E5607B65DD0059E209614DD9AAE62571DC1F411830C4268725D6AF2DC4FD4F3B30096565E3968F22022C6C985F2E1B71C3A1E,
   0x2941F03EFC57F3DCB2F9D58CF92195269FA1EE91B30F8E8359E691350EC0835CF8662958444027EC39D0F4CB28E673E6F7C328573DB9AE6BC5DF5C68E050513E,
   0x41C4BC942DB4E9DD6A7D7FE73FCA4CFD7B4806BD7F14157BF674821428090F056594C02952EA343BEAC5AB06BEB0220530D3A459B813C098F2A59CCDCB8A64B0,
   0x9C935DEEB91A5ABC813D316A38294CDD931F0EB7E8B69A77219591CEEBFBC1ED2F29B7BE99B8E43E47E8AA6765B467E3D2A1085CAD068E5F4760465E06E5BC27]

/-- The digest of that key as the program computes it, byte 0 lowest. -/
def testKeyDigest : BitVec 512 := 0x5D721DF1D419BC2C926E378A270E19234FF44A43DC41E33874BFADA838F79D93141E5A05B54E3A411096E0F49F483B3DB470C4EAF07A15E0559DF9805012EFF5

/-- A firmware image of one byte. -/
def testImage : FwImage :=
  { rollback := 1, version := 7, length := 1, modulus := testModulus, exponent := 65537, signature := testImageSignature, body := [0x2A] }

/-- A management processor whose first OTP key is that one. -/
def testMgt : Mgt := { keyDigests := [testKeyDigest], portsUp := true }

/-- Management, BringUp: the image verifies (R470), in either slot. -/
theorem test_verify : testMgt.verify testImage = 1 ∧ ({ testMgt with imageA := some testImage } : Mgt).verifySlot 0 = 1 ∧
    ({ testMgt with imageB := some testImage } : Mgt).verifySlot 1 = 1 := by decide +kernel

/-- An option record that the key has signed. -/
def testOption : OptionRec :=
  { modulus := testModulus, exponent := 65537, signature := testOptionSignature, bytes := [0x2A], module := 9,
    domains := [{ host := 1, ctxCount := 2 }] }

/-- BringUp: the option record verifies and is picked (R498). -/
theorem test_pickOption : ({ testMgt with option0 := some testOption } : Mgt).pickOption = some testOption := by decide +kernel

/-- Management: slots on trial and not, counts below and above; Redfish up and down; hellos accepted and refused; an image that verifies and one
that cannot; a domain's changes of each kind. -/
theorem witness_Management :
    (∀ x ∈ [(false, true, 0), (true, true, 0), (true, false, 1), (false, false, 0)],
      let g : Mgt := { trial := x.1, otherVerified := x.2.1, runRollback := x.2.2 }
      g.trial = x.1 ∧ g.otherVerified = x.2.1 ∧ g.rollback = 0 ∧ g.runRollback = x.2.2) ∧
    (let m : Mach := { mgt := testMgt, rst := { phase := 5 } }
     m.redfish = true ∧ ({} : Mach).redfish = false ∧ m.rst.inReset = false ∧ m.mgt.slot = 0 ∧ ({ m.mgt with slot := 1 } : Mgt).slot ≠ 0) ∧
    (let h : TlsHello := { chain := some 0 }
     h.version = 13 ∧ h.suite = true ∧ h.chain = some ({} : Mgt).ca ∧ ({ h with version := 12 } : TlsHello).version ≠ 13) ∧
    ({ format := 2 } : FwImage).format ≠ 1 ∧
    (let m : Mach := { mgt := testMgt, rst := { phase := 5, hold := 0xFFFF, domState := 0xFFFF },
                       dom := [(0, dom0), (1, { ctxBase := 2, ctxCount := 2 })], lastHeld := [(2 ^ 34, 2 ^ 30, 1)] }
     (m.getDom 0).host ≠ hostKindOf 2 ∧ (m.getDom 0).host ≠ hostKindOf 0 ∧ (m.getDom 1).host ≠ hostKindOf 1 ∧
       m.ctxRangeOk 0 0 1 = true ∧ m.ctxRangeOk 1 2 (16384 - 2) = true ∧
       ((m.getDom 1).ctxBase.toNat < 0 + 3 ∧ 0 < (m.getDom 1).ctxBase.toNat + (m.getDom 1).ctxCount.toNat ∧ (m.getDom 1).ctxCount.toNat ≠ 0) ∧
       (∀ e, e < 16 → m.domHeld e = true) ∧ m.memWf ∧ m.rangesFree 0 [(2 ^ 34, 2 ^ 30)] = true ∧ slowRange (2 ^ 34) (2 ^ 30) = true ∧
       (m.lastHeld.find? fun r => decide (r.1 ≤ 2 ^ 34) && decide (2 ^ 34 < r.1 + r.2.1)).map (·.2.2) = some 1) := by
  decide +kernel

/-- Power: a commit that is busy, one in FAULT, one with work, one with a gate that is in use, one that is accepted. -/
theorem witness_Power_commits :
    (∀ b ∈ [true, false], let p : Pwr := { moving := if b then some 1 else none, ops := if b then [] else [{ tract := 0, op := 1, commit := true }] }
      p.moving.isSome ∨ ∃ o ∈ p.ops, o.commit = true) ∧
    (∀ x ∈ [(true, false), (false, true)], let p : Pwr := { off := x.1, fault := x.2 }
      ¬ (p.moving.isSome ∨ ∃ o ∈ p.ops, o.commit = true) ∧ (p.off = true ∨ p.fault = true)) ∧
    (let m : Mach := { pwr := { stateStaged := 1 }, cmt := { jobs := [(0, some job0)] } }
     m.pwr.off = false ∧ m.pwr.fault = false ∧ m.pwr.stateStaged ≠ 0 ∧ ∃ e ∈ m.cmt.jobs, e.2.isSome) ∧
    (let m : Mach := { pwr := { gateStaged := 1 }, clu := [(0, { assigned := true })] }
     ∃ e ∈ m.clu, e.2.assigned = true ∧ m.pwr.gateStaged.getLsbD e.1 = true) ∧
    (let m : Mach := { pwr := { opStaged := 0x54 } }
     m.pwr.off = false ∧ m.pwr.fault = false ∧ m.pwr.stateStaged = 0 ∧ m.pwr.state = 0 ∧ m.rst.inReset = false ∧
       (m.getHdr (hdrKey tyPwr 0)).quiesce = false ∧ (m.getHdr (hdrKey tyPwr 0)).quiesced = false ∧ m.pwr.brake = false ∧
       opAt m.pwr.actual 0 ≠ opAt m.pwr.opStaged 0 ∧ (¬ ∃ e ∈ m.cmt.jobs, e.2.isSome) ∧
       ¬ ∃ e ∈ m.clu, e.2.assigned = true ∧ m.pwr.gateStaged.getLsbD e.1 = true) := by
  decide +kernel

/-- Power: each transition; a tract that switches; the brake asserted and released with ACLK running and not; a supply voltage that droops;
readings that fail, raise the alert, trip, and end the alert. -/
theorem witness_Power_moves :
    (∀ x ∈ [(1, 0), (2, 0), (2, 1), (3, 2), (0, 1)], let m : Mach := { pwr := { moving := some x.1, state := BitVec.ofNat 2 x.2 } }
      m.pwr.moving = some x.1 ∧ m.pwr.state = BitVec.ofNat 2 x.2 ∧ m.pwr.off = false ∧ m.memWf) ∧
    (let o : OpMove := { tract := 3, op := 0 }
     let m : Mach := { pwr := { ops := [{ tract := 3, op := 2, switched := true }, o] } }
     o.op < 4 ∧ m.aclkOn = true ∧ m.pwr.ops.find? (fun o => o.tract == 3 && !o.switched) = some o ∧ opAt m.pwr.actual 3 ≠ o.op) ∧
    (let m : Mach := { pwr := { actual := 0xFF } }
     m.pins.brakeN = true ∧ m.aclkOn = true ∧ ({ m with pwr := { state := 1 } } : Mach).aclkOn = false ∧
       ({ m.pins with brakeN := false } : Pins).brakeN = false ∧ opAt m.pwr.actual 2 ≠ opAt m.pwr.opCmd 2) ∧
    (∀ x ∈ [(104, false, false), (105, true, false), (114, true, false), (115, true, true)],
      let m : Mach := { rst := { phase := 2 }, pwr := { sensors := [(671, { temp := BitVec.ofNat 16 (16 * x.1) })] } }
      m.rst.inReset = false ∧ 2 ≤ m.rst.phase.toNat ∧ m.pwr.fault = false ∧
        (m.readings.any fun r => decide (16 * 105 ≤ r.2)) = x.2.1 ∧ (m.readings.any fun r => decide (16 * 115 ≤ r.2)) = x.2.2) := by
  decide +kernel

/-- A reset frame of a kind for serial number 5, with a SEQ and the tag of key 3. -/
def frameOf (kind seq : Nat) : List Byte :=
  let head : List Byte := leBytes 1 1 ++ leBytes 1 kind ++ leBytes 6 0 ++ leBytes 8 5 ++ leBytes 8 seq ++ leBytes 8 0
  head ++ (hmac512 [3] head).take 32

/-- Resets: pulses too short and long enough; a module that is not in reset, in phases 3 and others; one held by each source; a management
watchdog that has run out and one that has not; a reset frame of each kind, one too old and one too short. -/
theorem witness_Resets :
    (99 < 100 ∧ 1000 ≤ 1000) ∧
    (∀ p ∈ [1, 3, 8], let r : Rst := { phase := BitVec.ofNat 4 p, source := 2 }
      r.inReset = false ∧ decide (r.phase ≠ 3 ∨ r.stopped = true) = decide (p ≠ 3) ∧ (p = 3 → r.phase = 3 ∧ r.stopped = false)) ∧
    (∀ x ∈ [1, 2], let r : Rst := { inReset := true, source := BitVec.ofNat 4 x }
      r.inReset = true ∧ r.source = BitVec.ofNat 4 x) ∧
    (∀ x ∈ [999999999, 1000000000], let m : Mach := { rst := { phase := 5 }, time := { ns := BitVec.ofNat 64 x } }
      m.rst.inReset = false ∧ 5 ≤ m.rst.phase.toNat ∧ decide (m.mgt.wdogAt + m.mgt.wdogMs.toNat * 1000000 ≤ m.now) = decide (x = 1000000000)) ∧
    (∀ x ∈ [(1, 8, true), (2, 8, true), (1, 7, false)], let bs := frameOf x.1 x.2.1
      let m : Mach := { serial := 5, rst := { lastSeq := 7, key := [3] }, mgt := { portsUp := true } }
      m.mgt.portsUp = true ∧ 64 ≤ bs.length ∧ cmdN bs 0 1 = 1 ∧ cmdN bs 1 1 = x.1 ∧ cmdN bs 2 6 = 0 ∧ cmdN bs 8 8 = m.serial.toNat ∧
        decide (m.rst.lastSeq.toNat < cmdN bs 16 8) = x.2.2 ∧ cmdN bs 24 8 = 0 ∧ (bs.drop 32).take 32 = (hmac512 m.rst.key (bs.take 32)).take 32) ∧
    ¬ 64 ≤ ([] : List Byte).length := by
  decide +kernel

/-- BringUp: a module in each phase; supplies of each kind; option records none and one; firmware in the preferred slot, in the other one,
and in none; units that fail with restarts left and with none. -/
theorem witness_BringUp :
    (∀ p ∈ [1, 2, 3, 4, 5, 6, 7, 8], let m : Mach := { rst := { phase := BitVec.ofNat 4 p } }
      m.rst.inReset = false ∧ m.rst.stopped = false ∧ m.rst.phase.toNat = p ∧ m.pwr.fault = false ∧ m.pins.pwrGood = true ∧ m.pins.coldN = true ∧ m.memWf ∧
        m.mgt.trialFailed = false ∧ m.mgt.wdogExpired = false ∧ m.mgt.preferred ≤ 1 ∧ m.rst.ready = false ∧ m.pwr.brake = false) ∧
    (∀ x ∈ [(728, true, 1839, false), (727, true, 0, false), (772, false, 0, false), (750, true, 1840, false), (750, true, 0, true)],
      let y : Supplies := { rails := (({} : Supplies).rails).set 4 (some x.1), clocks := x.2.1, hottest := x.2.2.1, outside := x.2.2.2 }
      y.outside = x.2.2.2 ∧ railsGood true y.rails = decide (x.1 ≠ 727) ∧ railsGood true (y.rails.set 15 none) = false ∧ y.clocks = x.2.1 ∧ y.hottest = x.2.2.1) ∧
    ({} : Mgt).pickOption = none ∧
    (∀ k, k < 640 → fencesCluster { clusters := List.range 639, cores := [10224] } k = true) ∧
    (∀ n, n < 64 → n ∈ ({ channels := List.range 64 } : FenceList).channels) ∧ ({ service := true } : FenceList).service = true ∧
    (∃ k, k < 640 ∧ fencesCluster {} k = false ∧ ({} : Mach).fencePending 1 k = false) ∧
    (∃ k, k < 64 ∧ k ∉ ({} : FenceList).channels ∧ ({} : Mach).fencePending 5 k = false) ∧
    (testMgt.verifySlot 0 ≠ 1 ∧ testMgt.verifySlot 1 ≠ 1 ∧ ({ testMgt with imageB := some {} } : Mgt).verifySlot 0 ≠ 1) ∧
    (({} : Mach).channelPresent 63 = true ∧ ({} : Mach).channelPresent 64 = false ∧ ({} : Mach).bankPresent 511 = true ∧
      ({} : Mach).bankPresent 512 = false ∧ ({} : Rst).unit.toNat < 4 ∧ 4 ≤ ({ unit := 4 } : Rst).unit.toNat) ∧
    (∀ x ∈ [({}, none), ({ ease := some (1, 2, 3) }, some (1, 2, 3))], ({} : Mgt).easeOf 0 x.1 = x.2) := by
  refine ⟨by decide +kernel, by decide +kernel, by decide +kernel, by decide +kernel, by decide +kernel, rfl, ⟨0, ?_⟩, ⟨0, ?_⟩, ?_, ?_, ?_⟩
  · exact ⟨by omega, by decide +kernel, by decide +kernel⟩
  · exact ⟨by omega, List.not_mem_nil, by decide +kernel⟩
  · exact ⟨by decide +kernel, by decide +kernel, by decide +kernel⟩
  · decide +kernel
  · decide +kernel

/-! ## The machine as a whole, and worked examples of the spec -/

/-- RegisterWritesByRequester: a remote host's datagram of a write to its domain's MASK is heard and fresh. -/
theorem witness_RegisterWritesByRequester_remote :
    let g := gramOf 5 (pageAddr tyDom 0 0 0x01C) (leBytes 4 3)
    (served []).gramGood (signed g) = true ∧ ((served []).getDom 0).duplicate g.seq = false ∧ g.length = 4 ∧
      (3 : BitVec 32).toNat = leNat g.data ∧ g.toPort = 0x4B04 ∧ g.domain = 0 := by
  decide +kernel

/-- StepTakesTheFrontCommand, StepKeepsMemoryAndQueueOrder: a queue with a command in it, and an empty one while a core waits. -/
theorem witness_Step :
    let s : State := { State.reset with pending := [.nop 0 {}, .logFlush] }
    let t : State := { mach := { rst := { phase := 8 }, cores := [(0, { run := .waiting })] } }
    s.pending = .nop 0 {} :: [.logFlush] ∧ (step s = exec (.nop 0 {}) { s with pending := [.logFlush] }) ∧ s.mach.memWf ∧ t.pending = [] ∧
      t.mach.time.slew = 0 ∧ t.mach.aclkOn = true ∧ 4 ≤ t.mach.rst.phase.toNat ∧ (t.mach.getCore 0).run = .waiting := by
  refine ⟨rfl, rfl, ?_⟩
  decide +kernel

/-- Chapter 2: the page of the traverse engine of cluster 305, and chapter 20: the THD page of cluster 212. -/
theorem test_pageAddr : pageAddr tyTrv 0 305 0 = 0x0F0040131000 ∧ pageAddr tyThd 0 213 0x054 = 0x0F01300D5054 := by decide

/-- Chapters 8 and 11: the words of a TOUT and of update instructions 1, 4, 5, 11 and 14 of the program there. -/
theorem test_words :
    (({ a := 4, imm := 0x04000000 } : CoreFields).word 3 6).toNat = 0x6018800004000000 ∧
    (({ d := 1, f := 1 } : UpdFields).word 1).toNat = 0x0420000100000000 ∧
    (({ d := 2, a := 1, b := 2, c := 0x11 } : UpdFields).word 0x10).toNat = 0x4040848800000000 ∧
    (({ d := 4, a := 1, b := 1 } : UpdFields).word 5).toNat = 0x1480820000000000 ∧
    (({ d := 0, a := 0x10, b := 5 } : UpdFields).word 6).toNat = 0x18080A0000000000 ∧
    (({ a := 3, f := 3 } : UpdFields).word 2).toNat = 0x0801800300000000 := by
  decide

/-- Chapter 3: 3.0 and −0.75 in L8, both ways; what stochastic bits do with 3.0; the amax code of 2,056; the scale for amax 0x4A00; a header. -/
theorem test_log_numbers :
    (LogFmt.l8.encode (Ieee.b32.read 0x40400000).val 0 .nearest).bits = 0x4D ∧
    (LogFmt.l8.encode ⟨true, 3, -2⟩ 0 .nearest).bits = 0xBD ∧
    (LogFmt.l8.encode ⟨false, 3, 0⟩ 0 (.stoch 4 7)).bits = 77 ∧ (LogFmt.l8.encode ⟨false, 3, 0⟩ 0 (.stoch 4 12)).bits = 76 ∧
    (LogFmt.l8.decode 0x4D 0).eq ⟨false, 50535, -14⟩ = true ∧
    amaxCode ⟨false, 2056, 0⟩ = 0x4B02 ∧ scaleFromAmax LogFmt.l8 0x4A00 0 = 3 ∧
    ({ format := 0, dense := true, ovf := false, scale := 4, nnz := 1, whint := 0x80, amax := 0x4B02 } : TileHdr).toWord = 0x0804000180004B02 := by
  decide +kernel

/-- Chapter 10: the reciprocal of 1.875. -/
theorem test_vrcp : (vrcp 0x3FF00000).1 = 0x3F088888 := by decide +kernel

/-- Chapter 14: where offset 0x12_3456 of U1's slow tier lies with channel 41 fenced. -/
theorem test_channelAt : ({ fence := { channels := [41] } } : Mach).channelAt 1 0x123456 = (45, 0x9456) := by decide +kernel

/-- WordsTellInstructionsApart: fields at the ends of their ranges. -/
theorem witness_WordsTellInstructionsApart :
    (∀ f ∈ ([{}, { pneg := true, pred := 7, a := 31, b := 31, c := 31, flags := 7, imm := 2 ^ 32 - 1 }] : List CoreFields),
      f.pred < 8 ∧ f.a < 32 ∧ f.b < 32 ∧ f.c < 32 ∧ f.flags < 8 ∧ f.imm < 2 ^ 32) ∧
    (∀ u ∈ ([{}, { d := 31, a := 63, b := 63, c := 63, f := 7, imm := 2 ^ 32 - 1 }] : List UpdFields),
      u.d < 32 ∧ u.a < 64 ∧ u.b < 64 ∧ u.c < 64 ∧ u.f < 8 ∧ u.imm < 2 ^ 32) := by
  decide

/-! ## The contacts (R520 to R526) -/

/-- The worked example of chapter 21: lane 131 and two contacts of the core. -/
theorem test_contacts_of_lane_131 :
    (List.range 5).map (fun k => contactAt (116 + k) 3) =
      [some (.lane .link 131 .txP), some (.lane .link 131 .txN), some .vss, some (.lane .link 131 .rxP), some (.lane .link 131 .rxN)] ∧
    contactAt 100 30 = some .vss ∧ contactAt 101 30 = some (.power (.vddT 1)) := by decide +kernel

end Sys2Proof.Tests
end

section
/-!
SUPPORT. The vector engine's shared operations, said once: lanes and masks of a register, lane maps, and what a vector instruction that
issues does to its core and its tallies (R250, R251, R254).
-/
namespace Sys2Proof.Machine

/-! ## Lanes of a vector register (R250) -/

/-- An entry of a list made from a range. -/
theorem getD_map_range {α : Type} (f : Nat → α) (n i : Nat) (d : α) :
    ((List.range n).map f).getD i d = if i < n then f i else d := by
  rw [List.getD_eq_getElem?_getD, List.getElem?_map]
  by_cases h : i < n <;> simp [h]

/-- The number that lanes make when they stand one above the other, lane 0 lowest. -/
theorem foldl_lanes_cons (x : Nat) (xs : List Nat) :
    (x :: xs).reverse.foldl (fun a x => a * 2 ^ 32 + x % 2 ^ 32) 0 =
      2 ^ 32 * xs.reverse.foldl (fun a x => a * 2 ^ 32 + x % 2 ^ 32) 0 + x % 2 ^ 32 := by
  rw [List.reverse_cons, List.foldl_append, List.foldl_cons, List.foldl_nil, Nat.mul_comm]

/-- Bit k of lane i of that number. -/
theorem testBit_foldl_lanes (xs : List Nat) (i k : Nat) (hk : k < 32) :
    (xs.reverse.foldl (fun a x => a * 2 ^ 32 + x % 2 ^ 32) 0).testBit (32 * i + k) = (xs.getD i 0).testBit k := by
  induction xs generalizing i with
  | nil => simp
  | cons x xs ih =>
    rw [foldl_lanes_cons, Nat.testBit_two_pow_mul_add _ (Nat.mod_lt _ (by decide))]
    cases i with
    | zero => rw [if_pos (by omega), Nat.testBit_mod_two_pow]; simp [hk]
    | succ i =>
      rw [if_neg (by omega), show 32 * (i + 1) + k - 32 = 32 * i + k by omega, ih]
      simp

/-- Bit k of lane i of a register made from its lanes. -/
theorem getLsbD_ofLanes (xs : List Nat) {i k : Nat} (hi : i < 64) (hk : k < 32) :
    (ofLanes xs).getLsbD (32 * i + k) = (xs.getD i 0).testBit k := by
  unfold ofLanes
  rw [BitVec.getLsbD_ofNat, testBit_foldl_lanes _ _ _ hk, decide_eq_true (by omega), Bool.true_and]

/-- Lane i of a register made from its lanes. -/
theorem extractLsb'_ofLanes (xs : List Nat) {i : Nat} (hi : i < 64) :
    (ofLanes xs).extractLsb' (32 * i) 32 = BitVec.ofNat 32 (xs.getD i 0) := by
  apply BitVec.eq_of_getLsbD_eq
  intro k hk
  rw [BitVec.getLsbD_extractLsb', getLsbD_ofLanes _ hi hk, BitVec.getLsbD_ofNat]

/-- The lane that the model reads as a number is the lane. -/
theorem CoreSt.lane_eq (c : CoreSt) (r i : Nat) : c.lane r i = (c.laneOf r i).toNat := by
  unfold CoreSt.lane CoreSt.vreg lanes CoreSt.laneOf fld
  rw [getD_map_range, BitVec.extractLsb'_toNat]
  split
  · rfl
  · have high : (Tab.get 0 c.v (r % 32)).toNat < 2 ^ (32 * i) :=
      BitVec.toNat_lt_twoPow_of_le (by omega)
    rw [Nat.shiftRight_eq_div_pow, Nat.div_eq_of_lt high, Nat.zero_mod]

/-- The lanes of a register as the model lists them. -/
theorem CoreSt.vreg_eq (c : CoreSt) (r : Nat) :
    c.vreg (r % 32) = (List.range 64).map fun i => (c.laneOf r i).toNat := by
  apply List.map_congr_left
  intro i hi
  rw [← CoreSt.lane_eq, CoreSt.lane, CoreSt.vreg, lanes, getD_map_range, if_pos (List.mem_range.mp hi)]

/-- A lane of the register written. -/
theorem CoreSt.laneOf_setV_self (c : CoreSt) (a : Nat) (xs : List Nat) {i : Nat} (hi : i < 64) :
    (c.setV (a % 32) xs).laneOf a i = BitVec.ofNat 32 (xs.getD i 0) := by
  rw [CoreSt.laneOf, CoreSt.setV, Tab.get_put_self, extractLsb'_ofLanes xs hi]

/-- A write of one register leaves the lanes of the others. -/
theorem CoreSt.laneOf_setV_of_ne (c : CoreSt) {a r : Nat} (xs : List Nat) (i : Nat) (h : r % 32 ≠ a % 32) :
    (c.setV (a % 32) xs).laneOf r i = c.laneOf r i := by
  rw [CoreSt.laneOf, CoreSt.setV, Tab.get_put_of_ne _ _ _ h.symm, CoreSt.laneOf]

/-- Going on leaves the lanes. -/
@[simp] theorem CoreSt.laneOf_goOn (c : CoreSt) (now r i : Nat) : (c.goOn now).laneOf r i = c.laneOf r i := by
  simp [CoreSt.laneOf]

/-- A core that has written a vector register goes on. -/
theorem CoreSt.goesOn_setV (c : CoreSt) (a now : Nat) (xs : List Nat) :
    GoesOn { c with v := ((c.setV a xs).goOn now).v } ((c.setV a xs).goOn now) := by
  rw [CoreSt.v_goOn]
  exact CoreSt.goesOn_goOn (c.setV a xs) now

/-! ## Masks (R250, R251) -/

/-- A mask register after a write: m0 stays all ones, the register written holds the mask, the others stand. -/
theorem CoreSt.mreg_setM (c : CoreSt) (a r : Nat) (x : BitVec 64) :
    (c.setM a x).mreg r = if r = a ∧ r ≠ 0 then x else c.mreg r := by
  unfold CoreSt.setM CoreSt.mreg
  by_cases hr : r = 0
  · simp [hr]
  · by_cases ha : a = 0
    · simp [ha, hr]
    · by_cases h : r = a
      · simp [ha, h]
      · simp [hr, ha, h, Tab.get_put_of_ne _ _ _ (Ne.symm h)]

/-- A write of a mask register changes the mask registers alone. -/
theorem CoreSt.setM_eq (c : CoreSt) (a : Nat) (x : BitVec 64) : c.setM a x = { c with m := (c.setM a x).m } := by
  unfold CoreSt.setM; split <;> rfl

/-- The model's active mask is the mask that FLAGS names. -/
theorem activeLane_active (c : CoreSt) (f : CoreFields) (i : Nat) : activeLane (c.active f) i = c.isActive f i := rfl

/-! ## Lane maps (R251) -/

@[simp] theorem Tal.none_plus (t : Tal) : Tal.plus {} t = t := by simp [Tal.plus]

/-- A lane map lane by lane, over a register's lanes. -/
theorem laneMap_map (mask : BitVec 64) (old : Nat → Nat) (g : Nat → Nat × Tal) :
    laneMap mask ((List.range 64).map old) g =
      ((List.range 64).map fun i => if activeLane mask i then (g i).1 else old i,
        ((List.range 64).filter (activeLane mask)).foldl (fun a i => a.plus (g i).2) {}) := by
  unfold laneMap
  rw [List.zipWith_map_right, List.zipWith_self]
  dsimp only
  rw [List.map_map, List.foldl_map, List.foldl_filter]
  congr 1
  · apply List.map_congr_left
    intro i _
    rw [Function.comp, apply_ite Prod.fst]
  · congr 1
    funext a i
    split <;> rfl

/-! ## Issue of a vector instruction -/

/-- A vector instruction that issues has its effect, behind the cluster's count of it (R176, R513). -/
theorem Mach.vec_of_issues {m : Mach} {q : Nat} {f : CoreFields} {op : Nat} (u : Uses) (eff : Mach → CoreSt → Mach)
    (h : Issues m q f 5 op) : m.vec q f op u eff = eff (m.thd (q / 16) (some (q % 16)) 0x0A 1) (m.getCore q) :=
  Mach.issue_of_issues u _ h

/-- What tallies after a Theodolite count tallies without it. -/
theorem CoreTallies.of_thd {m m' : Mach} {q k e n : Nat} {x : Option Nat} {t : Tal} (h : CoreTallies (m.thd k x e n) m' q t) :
    CoreTallies m m' q t := by
  rw [Mach.thd_eq] at h
  exact h

/-- What changes one core after a Theodolite count changes one core without it. -/
theorem CoreOnly.of_thd {m m' : Mach} {q k e n : Nat} {x : Option Nat} (h : CoreOnly (m.thd k x e n) m' q) : CoreOnly m m' q := by
  rw [Mach.thd_eq] at h
  exact h

/-- An instruction that changes its core alone adds no tally. -/
theorem CoreOnly.tallies {m m' : Mach} {q : Nat} (h : CoreOnly m m' q) : CoreTallies m m' q {} := by
  obtain ⟨others, rest⟩ := h
  refine ⟨others, ?_, ?_, ?_⟩
  · rw [rest]; rfl
  · intro k _; rw [rest]; rfl
  · rw [rest]; rfl

/-- An instruction that issues, tallies and changes its core: everything it does. -/
theorem Mach.thd_tally_simple_spec (m : Mach) (q k e n : Nat) (x : Option Nat) (t : Tal) (g : CoreSt → CoreSt) :
    (∃ now, (((m.thd k x e n).tally tyCor q t).simple q g).getCore q = (g (m.getCore q)).goOn now) ∧
      CoreTallies m (((m.thd k x e n).tally tyCor q t).simple q g) q t := by
  obtain ⟨core, rest⟩ := Mach.tally_simple_spec (m.thd k x e n) q t g
  exact ⟨⟨_, by rw [core, Mach.getCore_thd]⟩, rest.of_thd⟩

/-! ## Instructions that write lanes (R251) -/

/-- A vector instruction whose effect is a lane map writes the lanes it names. -/
theorem writesLanes_of_toLanes {s : State} {q : Nat} {f : CoreFields} {op : Nat} {u : Uses} {eff : Mach → CoreSt → Mach}
    {g : Nat → BitVec 32} {G : Nat → Nat × Tal} {t : Nat → Tal} (h : Issues s.mach q f 5 op)
    (effect : let m := s.mach.thd (q / 16) (some (q % 16)) 0x0A 1
      eff m (s.mach.getCore q) = m.toLanes q f (s.mach.getCore q) G)
    (lane : ∀ i, i < 64 → g i = BitVec.ofNat 32 (G i).1) (tal : ∀ i, t i = (G i).2) :
    WritesLanes (.next (s.onMach fun m => m.vec q f op u eff)) s q f g t := by
  refine ⟨_, rfl, rfl, ?_⟩
  dsimp only [State.onMach]
  rw [Mach.vec_of_issues u eff h, effect, Mach.toLanes, CoreSt.vreg_eq, laneMap_map]
  obtain ⟨⟨now, core⟩, rest⟩ := s.mach.thd_tally_simple_spec q _ _ _ _ _ _
  rw [core]
  refine ⟨?_, ?_, CoreSt.goesOn_setV _ _ _ _, ?_⟩
  · intro i hi
    rw [CoreSt.laneOf_goOn, CoreSt.laneOf_setV_self _ _ _ hi, getD_map_range, if_pos hi, activeLane_active]
    split
    · exact (lane i hi).symm
    · simp
  · intro r i hr
    rw [CoreSt.laneOf_goOn, CoreSt.laneOf_setV_of_ne _ _ _ hr]
  · rw [funext tal]
    exact rest

/-! ## Instructions that write a mask -/

/-- A vector instruction whose effect is the write of a mask register writes that mask. -/
theorem writesMask_of_setM {s : State} {q : Nat} {f : CoreFields} {op : Nat} {u : Uses} {eff : Mach → CoreSt → Mach}
    {b : Nat → Bool} (x : CoreSt → BitVec 64) (h : Issues s.mach q f 5 op)
    (effect : let m := s.mach.thd (q / 16) (some (q % 16)) 0x0A 1
      eff m (s.mach.getCore q) = m.simple q fun c => c.setM (f.a % 8) (x c))
    (bit : ∀ i, i < 64 → (x (s.mach.getCore q)).getLsbD i = b i) :
    WritesMask (.next (s.onMach fun m => m.vec q f op u eff)) s q f b {} := by
  refine ⟨_, rfl, rfl, ?_⟩
  dsimp only [State.onMach]
  rw [Mach.vec_of_issues u eff h, effect]
  obtain ⟨core, rest⟩ := Mach.simple_spec (s.mach.thd (q / 16) (some (q % 16)) 0x0A 1) q fun c => c.setM (f.a % 8) (x c)
  rw [Mach.getCore_thd] at core
  rw [core]
  refine ⟨?_, ?_, rest.of_thd.tallies⟩
  · intro r i _ hi
    rw [CoreSt.mreg, CoreSt.m_goOn, ← CoreSt.mreg, CoreSt.mreg_setM]
    split
    · exact bit i hi
    · rfl
  · rw [CoreSt.m_goOn, ← CoreSt.setM_eq]
    exact CoreSt.goesOn_goOn _ _

end Sys2Proof.Machine
end

section
/-!
SUPPORT. Masks that MTAIL and MLOGIC form (R252), and the obligation about them.
-/
namespace Sys2Proof.Machine

/-! ## Mask formation (R252) -/

/-- MTAIL sets the bits below its operand. -/
theorem getLsbD_mtail (n : BitVec 64) {i : Nat} (hi : i < 64) : (mtail n).getLsbD i = decide (i < n.toNat) := by
  unfold mtail
  split
  · rw [BitVec.getLsbD_allOnes, decide_eq_true hi, decide_eq_true (by omega)]
  · rw [BitVec.getLsbD_ofNat, Nat.testBit_two_pow_sub_one, decide_eq_true hi, Bool.true_and]

/-- MLOGIC combines two masks bit by bit, and inverts the result where asked. -/
theorem getLsbD_mlogic (op : Nat) (inv : Bool) (x y : BitVec 64) {i : Nat} (hi : i < 64) :
    (mlogic op inv x y).getLsbD i =
      ((match op with
        | 0 => x.getLsbD i && y.getLsbD i
        | 1 => x.getLsbD i || y.getLsbD i
        | 2 => x.getLsbD i != y.getLsbD i
        | _ => x.getLsbD i && !y.getLsbD i) != inv) := by
  unfold mlogic
  match op with
  | 0 => cases inv <;> simp [hi]
  | 1 => cases inv <;> simp [hi]
  | 2 => cases inv <;> simp [hi]
  | n + 3 => cases inv <;> simp [hi]

/-- The bit of a field that the model tests is the bit that the statements divide out. -/
theorem bitAt_eq_decide (x i : Nat) : bitAt x i = decide (x / 2 ^ i % 2 = 1) := by
  rw [bitAt, Nat.testBit_eq_decide_div_mod_eq]

/-- Settles O17: each instruction writes one mask register, whose bits are those of `mtail` and `mlogic`. -/
theorem maskFormation : Obligations.MaskFormation := by
  intro s q f c
  refine ⟨fun h => ?_, fun h => ?_⟩
  · exact writesMask_of_setM (fun c => mtail (c.sreg f.b)) h rfl fun i hi => getLsbD_mtail _ hi
  · refine writesMask_of_setM (fun _ => mlogic (f.imm % 4) (bitAt f.imm 2) (c.mreg (f.b % 8)) (c.mreg (f.c % 8))) h rfl
      fun i hi => ?_
    rw [← bitAt_eq_decide]
    exact getLsbD_mlogic _ _ _ _ hi

end Sys2Proof.Machine
end

section
/-!
SUPPORT. Fields, shuffles, runs of lanes in a local store and lines of tiles, and the obligation about the instructions that move lanes
(R254, R258, R262 to R265).
-/
namespace Sys2Proof.Machine

/-! ## Fields (R250, R265) -/

/-- A number with one field of it replaced, bit by bit. -/
theorem testBit_replace_field (o z b w k : Nat) (hz : z < 2 ^ w) :
    (o - fld o b w * 2 ^ b + z * 2 ^ b).testBit k =
      if b ≤ k ∧ k < b + w then z.testBit (k - b) else o.testBit k := by
  have parts : o = 2 ^ b * (2 ^ w * (o / 2 ^ b / 2 ^ w) + fld o b w) + o % 2 ^ b := by
    rw [fld, Nat.shiftRight_eq_div_pow, Nat.div_add_mod, Nat.div_add_mod]
  have low : o % 2 ^ b < 2 ^ b := Nat.mod_lt _ (Nat.two_pow_pos b)
  have mid : fld o b w < 2 ^ w := Nat.mod_lt _ (Nat.two_pow_pos w)
  generalize o / 2 ^ b / 2 ^ w = hi at parts
  generalize o % 2 ^ b = lo at parts low
  generalize fld o b w = x at parts mid
  have after : o - x * 2 ^ b + z * 2 ^ b = 2 ^ b * (2 ^ w * hi + z) + lo := by
    rw [parts, Nat.mul_add, Nat.mul_add, Nat.mul_comm x, Nat.mul_comm z]
    omega
  rw [after, parts, Nat.testBit_two_pow_mul_add _ low, Nat.testBit_two_pow_mul_add _ low,
    Nat.testBit_two_pow_mul_add _ hz, Nat.testBit_two_pow_mul_add _ mid]
  by_cases below : k < b
  · rw [if_pos below, if_pos below, if_neg (by omega)]
  · rw [if_neg below, if_neg below]
    by_cases inside : k - b < w
    · rw [if_pos inside, if_pos (by omega)]
    · rw [if_neg inside, if_neg inside, if_neg (by omega)]

/-- The low bits of a lane read as a signed number are the low bits of the lane. -/
theorem wrapN_sgn {w : Nat} (hw : w ≤ 32) (x : Nat) (hx : x < 2 ^ 32) : wrapN w (sgn 32 x) = x % 2 ^ w := by
  have dvd : ((2 ^ w : Nat) : Int) ∣ ((2 ^ 32 : Nat) : Int) := Int.natCast_dvd_natCast.mpr (Nat.pow_dvd_pow 2 hw)
  unfold wrapN sgn
  rw [Nat.mod_eq_of_lt hx]
  split
  · rw [← Int.natCast_emod, Int.toNat_natCast]
  · rw [Int.sub_emod, Int.emod_eq_zero_of_dvd dvd, Int.sub_zero, Int.emod_emod_of_dvd _ (Int.dvd_refl _), ← Int.natCast_emod,
      Int.toNat_natCast]

/-! ## VPACK (R265) -/

/-- A register is made from its lanes. -/
theorem ofLanes_lanes (v : BitVec 2048) : ofLanes (lanes v) = v := by
  apply BitVec.eq_of_getLsbD_eq
  intro i hi
  have place : 32 * (i / 32) + i % 32 = i := Nat.div_add_mod i 32
  have bit : i % 32 < 32 := Nat.mod_lt _ (by decide)
  have lane : i / 32 < 64 := by omega
  rw [← place, getLsbD_ofLanes _ lane bit, lanes, getD_map_range, if_pos lane, fld, Nat.testBit_mod_two_pow, decide_eq_true bit,
    Bool.true_and, Nat.testBit_shiftRight]
  rfl

/-- The lanes of a register with field j of a part replaced by the low bits of a number. -/
def packField (w part : Nat) (acc : List Nat) (j x : Nat) : List Nat :=
  let pos := (64 * part + j) * w
  let o := acc.getD (pos / 32) 0
  acc.set (pos / 32) (o - fld o (pos % 32) w * 2 ^ (pos % 32) + x % 2 ^ w * 2 ^ (pos % 32))

/-- The lanes of a register with the first n fields of a part replaced. -/
def packFields (w part : Nat) (old : List Nat) (x : Nat → Nat) (n : Nat) : List Nat :=
  (List.range n).foldl (fun acc j => packField w part acc j (x j)) old

theorem packFields_succ (w part : Nat) (old : List Nat) (x : Nat → Nat) (n : Nat) :
    packFields w part old x (n + 1) = packField w part (packFields w part old x n) n (x n) := by
  rw [packFields, List.range_succ, List.foldl_append]
  rfl

theorem length_packField (w part : Nat) (acc : List Nat) (j x : Nat) : (packField w part acc j x).length = acc.length :=
  List.length_set

theorem length_packFields (w part : Nat) (old : List Nat) (x : Nat → Nat) (n : Nat) :
    (packFields w part old x n).length = old.length := by
  induction n with
  | zero => rfl
  | succ n ih => rw [packFields_succ, length_packField, ih]

section
variable {w part : Nat} (width : w = 16 ∨ w = 8 ∨ w = 4) (inside : part < 32 / w)
include width

/-- A field of a part stands in one lane: which bits of which lane are its bits. -/
theorem field_place {n d b : Nat} (hb : b < 32) :
    d = (64 * part + n) * w / 32 ∧ (64 * part + n) * w % 32 ≤ b ∧ b < (64 * part + n) * w % 32 + w ↔
      (64 * part + n) * w ≤ 32 * d + b ∧ 32 * d + b < (64 * part + n) * w + w := by
  rcases width with rfl | rfl | rfl <;> omega

/-- A bit of a field names the field and its place in it. -/
theorem field_of_bit {n p : Nat} (low : (64 * part + n) * w ≤ p) (high : p < (64 * part + n) * w + w) :
    p / w - 64 * part = n ∧ p % w = p - (64 * part + n) * w := by
  rcases width with rfl | rfl | rfl <;> omega

include inside

/-- The lane of a field is a lane of the register. -/
theorem field_lane {n : Nat} (hn : n < 64) : (64 * part + n) * w / 32 < 64 := by
  rcases width with rfl | rfl | rfl <;> omega

/-- A bit of a lane after the replacement of one field. -/
theorem testBit_packField {acc : List Nat} (len : acc.length = 64) {n : Nat} (hn : n < 64) (x d b : Nat) (hb : b < 32) :
    ((packField w part acc n x).getD d 0).testBit b =
      if (64 * part + n) * w ≤ 32 * d + b ∧ 32 * d + b < (64 * part + n) * w + w then x.testBit ((32 * d + b) % w)
      else (acc.getD d 0).testBit b := by
  have lane := field_lane width inside hn
  have bits := field_place (part := part) width (n := n) (d := d) hb
  unfold packField
  dsimp only
  by_cases same : d = (64 * part + n) * w / 32
  · subst same
    rw [List.getD_eq_getElem?_getD, List.getElem?_set_self (by omega), Option.getD_some,
      testBit_replace_field _ _ _ _ _ (Nat.mod_lt _ (Nat.two_pow_pos w))]
    by_cases h : (64 * part + n) * w % 32 ≤ b ∧ b < (64 * part + n) * w % 32 + w
    · obtain ⟨low, high⟩ := bits.mp ⟨rfl, h⟩
      rw [if_pos h, if_pos ⟨low, high⟩, (field_of_bit width low high).2, Nat.testBit_mod_two_pow]
      rw [decide_eq_true (by omega), Bool.true_and]
      congr 1
      omega
    · rw [if_neg h, if_neg fun k => h (bits.mpr k).2]
  · rw [List.getD_eq_getElem?_getD, List.getElem?_set_ne (Ne.symm same), ← List.getD_eq_getElem?_getD,
      if_neg fun k => same (bits.mpr k).1]

/-- A bit of a lane after the replacement of the first n fields of a part. -/
theorem testBit_packFields {old : List Nat} (len : old.length = 64) (x : Nat → Nat) {n : Nat} (hn : n ≤ 64) (d b : Nat)
    (hb : b < 32) :
    ((packFields w part old x n).getD d 0).testBit b =
      if 64 * part * w ≤ 32 * d + b ∧ 32 * d + b < (64 * part + n) * w then
        (x ((32 * d + b) / w - 64 * part)).testBit ((32 * d + b) % w)
      else (old.getD d 0).testBit b := by
  induction n with
  | zero =>
    rw [Nat.add_zero, if_neg (by omega)]
    rfl
  | succ n ih =>
    have ih := ih (by omega)
    have next : (64 * part + (n + 1)) * w = (64 * part + n) * w + w := Nat.succ_mul (64 * part + n) w
    have first : 64 * part * w ≤ (64 * part + n) * w := Nat.mul_le_mul_right w (by omega)
    rw [packFields_succ, testBit_packField width inside ((length_packFields ..).trans len) (by omega) _ _ _ hb, ih, next]
    by_cases h : (64 * part + n) * w ≤ 32 * d + b ∧ 32 * d + b < (64 * part + n) * w + w
    · obtain ⟨low, high⟩ := h
      rw [if_pos ⟨low, high⟩, if_pos ⟨by omega, high⟩, (field_of_bit width low high).1]
    · rw [if_neg h]
      congr 1
      exact propext (by omega)

/-- Bits of a register with a part replaced: those of the fields within the part, those that stood there outside it. -/
theorem getLsbD_packFields (v : BitVec 2048) (x : Nat → Nat) {p : Nat} (hp : p < 2048) :
    (ofLanes (packFields w part (lanes v) x 64)).getLsbD p =
      if 64 * part * w ≤ p ∧ p < 64 * (part + 1) * w then (x (p / w - 64 * part)).testBit (p % w) else v.getLsbD p := by
  have place : 32 * (p / 32) + p % 32 = p := Nat.div_add_mod p 32
  have bit : p % 32 < 32 := Nat.mod_lt _ (by decide)
  have lane : p / 32 < 64 := by omega
  have len : (lanes v).length = 64 := by simp [lanes]
  have old := getLsbD_ofLanes (lanes v) lane bit
  rw [ofLanes_lanes, place] at old
  have new := testBit_packFields width inside len x (Nat.le_refl 64) (p / 32) (p % 32) bit
  rw [← getLsbD_ofLanes _ lane bit, place, ← old] at new
  exact new

/-- A field of a part that has been replaced holds the low bits of what was put there. -/
theorem field_packFields (v : BitVec 2048) (x : Nat → Nat) {j : Nat} (hj : j < 64) :
    (ofLanes (packFields w part (lanes v) x 64)).toNat / 2 ^ ((64 * part + j) * w) % 2 ^ w = x j % 2 ^ w := by
  have below : (64 * part + j) * w + w ≤ 64 * (part + 1) * w := by
    rw [← Nat.succ_mul]
    exact Nat.mul_le_mul_right w (by omega)
  have above : 64 * part * w ≤ (64 * part + j) * w := Nat.mul_le_mul_right w (by omega)
  have top : 64 * (part + 1) * w ≤ 2048 := by rcases width with rfl | rfl | rfl <;> omega
  apply Nat.eq_of_testBit_eq
  intro k
  rw [Nat.testBit_mod_two_pow, Nat.testBit_mod_two_pow, Nat.testBit_div_two_pow]
  by_cases hk : k < w
  · obtain ⟨field, offset⟩ := field_of_bit (part := part) (n := j) (p := k + (64 * part + j) * w) width (by omega) (by omega)
    have bit := getLsbD_packFields width inside v x (p := k + (64 * part + j) * w) (by omega)
    rw [if_pos ⟨by omega, by omega⟩, field, offset, Nat.add_sub_cancel] at bit
    exact congrArg (decide (k < w) && ·) bit
  · rw [decide_eq_false hk, Bool.false_and, Bool.false_and]

end

/-- A fold of a pair whose second component no step changes. -/
theorem foldl_fst {α β γ : Type} (g : β → α → β) (step : β × γ → α → β × γ) (xs : List α) (b : β) (c : γ)
    (h : ∀ b, ∀ x ∈ xs, step (b, c) x = (g b x, c)) : xs.foldl step (b, c) = (xs.foldl g b, c) := by
  induction xs generalizing b with
  | nil => rfl
  | cons x xs ih =>
    rw [List.foldl_cons, List.foldl_cons, h b x List.mem_cons_self]
    exact ih _ fun b y hy => h b y (List.mem_cons_of_mem x hy)

/-- VPACK of a whole register, unsigned, with every lane active replaces the fields of the part by the low bits of the lanes and
counts no tally. -/
theorem vpack_all_active {w : Nat} (width : w = 16 ∨ w = 8 ∨ w = 4) (p : Nat) {mask : BitVec 64}
    (active : ∀ i, i < 64 → activeLane mask i = true) (old : BitVec 2048) (x : Nat → Nat) (hx : ∀ j, x j < 2 ^ 32) :
    vpack w p false mask (lanes old) ((List.range 64).map x) = (packFields w (p % (32 / w)) (lanes old) x 64, {}) := by
  have parts : 2048 / (64 * w) = 32 / w := by rcases width with rfl | rfl | rfl <;> rfl
  have inside : p % (32 / w) < 32 / w := Nat.mod_lt _ (by rcases width with rfl | rfl | rfl <;> decide)
  have narrow : w ≤ 32 := by omega
  unfold vpack
  dsimp only
  rw [parts, List.zip_map_right, List.foldl_map, ofLanes_lanes, BitVec.ofNat_toNat, BitVec.setWidth_eq]
  rw [List.zip_eq_zipWith, List.zipWith_self, List.foldl_map]
  refine foldl_fst (fun acc j => packField w (p % (32 / w)) acc j (x j)) _ _ _ _ fun acc j hj => ?_
  have hj := List.mem_range.mp hj
  simp [active j hj, active _ (field_lane width inside hj), wrapN_sgn narrow _ (hx j), packField, b2n]

/-- The width of VPACK and VUNPACK is 16, 8 or 4 bits. -/
theorem packWidth_cases (code : Nat) : packWidth code = 16 ∨ packWidth code = 8 ∨ packWidth code = 4 := by
  unfold packWidth
  split
  · exact .inl rfl
  · split
    · exact .inr (.inl rfl)
    · exact .inr (.inr rfl)

/-- A field of IMM as the statements divide it out. -/
theorem fld_eq (x lo n : Nat) : fld x lo n = x / 2 ^ lo % 2 ^ n := by rw [fld, Nat.shiftRight_eq_div_pow]

/-- The unsigned field that VUNPACK gives a lane. -/
theorem vunpack_unsigned (code p : Nat) (v : BitVec 2048) (j : Nat) :
    vunpack (packWidth code) p false v j =
      v.toNat / 2 ^ ((64 * (p % (32 / packWidth code)) + j) * packWidth code) % 2 ^ packWidth code := by
  have parts : 2048 / (64 * packWidth code) = 32 / packWidth code := by
    rcases packWidth_cases code with h | h | h <;> rw [h]
  unfold vunpack
  dsimp only
  rw [parts, if_neg Bool.false_ne_true, fld_eq]

/-! ## Shuffles (R263, R264) -/

/-- The lane that VSHUF takes for lane i. -/
theorem lane_vshufSrc (c : CoreSt) (f : CoreFields) {i : Nat} (hi : i < 64) (kind : f.imm % 8 ≤ 4) :
    (let r := vshufSrc (f.imm % 8) (fld f.imm 8 6) i
     BitVec.ofNat 32 (c.lane (if r.1 then f.c else f.b) r.2)) =
      (let a := f.imm / 2 ^ 8 % 64
       match f.imm % 8 with
        | 0 => c.laneOf f.b (i ^^^ 2 ^ (if a ≤ 5 then a else 0))
        | 1 => c.laneOf (if i % 2 = 0 then f.b else f.c) (i / 2)
        | 2 => c.laneOf (if i % 2 = 0 then f.b else f.c) (i / 2 + 32)
        | 3 => c.laneOf (if i < 32 then f.b else f.c) (2 * (i % 32) + if a = 1 then 1 else 0)
        | _ => c.laneOf f.b ((i + a) % 64)) := by
  rw [fld_eq]
  dsimp only
  rw [CoreSt.lane_eq, BitVec.ofNat_toNat, BitVec.setWidth_eq]
  generalize f.imm / 2 ^ 8 % 2 ^ 6 = a
  generalize f.imm % 8 = k at kind
  have odd : (if decide (i % 2 = 1) = true then f.c else f.b) = if i % 2 = 0 then f.b else f.c := by
    by_cases h : i % 2 = 0
    · rw [if_pos h, if_neg (by simp [h])]
    · rw [if_neg h, if_pos (decide_eq_true (by omega))]
  match k with
  | 0 =>
    have amount : (if 5 < a then 0 else a) = if a ≤ 5 then a else 0 := by split <;> split <;> omega
    simp only [vshufSrc, amount]
    rfl
  | 1 => simp only [vshufSrc, odd]
  | 2 => simp only [vshufSrc, odd]
  | 3 =>
    by_cases h : i < 32
    · simp [vshufSrc, h, Nat.mod_eq_of_lt h]
    · have upper : i % 32 = i - 32 := by omega
      simp [vshufSrc, h, upper]
  | 4 => simp [vshufSrc]

/-! ## Bytes of lanes -/

/-- Bytes written little-endian read back. -/
theorem leNat_leBytes (n x : Nat) : leNat (leBytes n x) = x % 256 ^ n := by
  induction n generalizing x with
  | zero => simp [leBytes, leNat, Nat.mod_one]
  | succ n ih =>
    rw [leBytes, leNat, ih, BitVec.toNat_ofNat, Nat.pow_succ' (n := n)]
    exact Nat.mod_mul.symm

/-- The four bytes of each number of a list stand one behind the other. -/
theorem length_flatMap_leBytes (ys : List Nat) : (ys.flatMap (leBytes 4)).length = 4 * ys.length := by
  induction ys with
  | nil => rfl
  | cons y ys ih =>
    rw [List.flatMap_cons, List.length_append, ih, List.length_cons]
    show 4 + _ = _
    omega

/-- Byte j of number k of such a list. -/
theorem getD_flatMap_leBytes (ys : List Nat) {k j : Nat} (hk : k < ys.length) (hj : j < 4) :
    (ys.flatMap (leBytes 4)).getD (4 * k + j) 0 = (leBytes 4 (ys.getD k 0)).getD j 0 := by
  induction ys generalizing k with
  | nil => exact absurd hk (Nat.not_lt_zero k)
  | cons y ys ih =>
    rw [List.flatMap_cons]
    have len : (leBytes 4 y).length = 4 := rfl
    cases k with
    | zero =>
      rw [List.getD_eq_getElem?_getD, List.getElem?_append_left (by omega), Nat.mul_zero, Nat.zero_add, ← List.getD_eq_getElem?_getD]
      rfl
    | succ k =>
      rw [List.getD_eq_getElem?_getD, List.getElem?_append_right (by omega), ← List.getD_eq_getElem?_getD, len,
        show 4 * (k + 1) + j - 4 = 4 * k + j by omega, ih (Nat.lt_of_succ_lt_succ hk)]
      rfl

/-! ## Runs of active lanes -/

/-- A lane stands in one of the runs of a list. -/
def InRun (rs : List (Nat × Nat)) (i : Nat) : Prop := ∃ r ∈ rs, r.1 ≤ i ∧ i < r.1 + r.2

theorem inRun_cons (r : Nat × Nat) (rs : List (Nat × Nat)) (i : Nat) :
    InRun (r :: rs) i ↔ (r.1 ≤ i ∧ i < r.1 + r.2) ∨ InRun rs i := by
  simp [InRun]

/-- The runs of active lanes hold the active lanes. -/
theorem inRun_activeRuns (mask : BitVec 64) (i : Nat) : InRun (activeRuns mask) i ↔ i < 64 ∧ mask.getLsbD i = true := by
  rw [← List.mem_range, ← List.mem_filter]
  unfold activeRuns
  generalize (List.range 64).filter mask.getLsbD = xs
  induction xs with
  | nil => simp [InRun]
  | cons x xs ih =>
    rw [List.foldr_cons, List.mem_cons, ← ih]
    generalize List.foldr _ _ xs = rs
    cases rs with
    | nil => exact (inRun_cons _ _ _).trans (or_congr_left (by omega))
    | cons r rs =>
      obtain ⟨a, n⟩ := r
      dsimp only
      split
      · rw [inRun_cons, inRun_cons, ← or_assoc]
        exact or_congr_left (by omega)
      · rw [inRun_cons]
        exact or_congr_left (by omega)

/-- A part of the lanes of a register. -/
theorem take_drop_lanes (x : Nat → Nat) {a n : Nat} (h : ∀ k, k < n → a + k < 64) :
    (((List.range 64).map x).drop a).take n = (List.range n).map fun k => x (a + k) := by
  apply List.ext_getElem?
  intro k
  rw [List.getElem?_take, List.getElem?_drop, List.getElem?_map, List.getElem?_map]
  by_cases hk : k < n
  · simp [hk, h k hk]
  · simp [hk]

/-! ## Loading and storing lanes (R254) -/

/-- Memory `mem` after lanes have been stored: byte j of each lane stored stands at its place, and every other byte is as before. -/
def LanesStored (m : Mach) (mem : Tab Byte) (q off : Nat) (x : Nat → Nat) (lane : Nat → Prop) : Prop :=
  (∀ i, lane i → ∀ j, j < 4 → Tab.get 0 mem (storeBase q + (off + 4 * i + j) % 2 ^ 15) = (leBytes 4 (x i)).getD j 0) ∧
  ∀ a, (∀ i, lane i → ∀ j, j < 4 → a ≠ storeBase q + (off + 4 * i + j) % 2 ^ 15) → Tab.get 0 mem a = m.byteAt a

/-- Storing one run of lanes. -/
theorem Mach.lsWrite_run (m : Mach) {q : Nat} (off : Nat) (x : Nat → Nat) (r : Nat × Nat) (sound : m.granErr = []) (w : m.memWf)
    (hq : q < 10240) (inside : ∀ i, r.1 ≤ i ∧ i < r.1 + r.2 → i < 64) :
    ∃ mem, m.lsWrite q (off + 4 * r.1) (((((List.range 64).map x).drop r.1).take r.2).flatMap (leBytes 4)) = { m with mem := mem } ∧
      Tab.wf (0 : Byte) mem = true ∧ LanesStored m mem q off x fun i => r.1 ≤ i ∧ i < r.1 + r.2 := by
  obtain ⟨a, n⟩ := r
  dsimp only at inside ⊢
  rw [take_drop_lanes x fun k hk => inside (a + k) ⟨by omega, by omega⟩]
  have len : (((List.range n).map fun k => x (a + k)).flatMap (leBytes 4)).length = 4 * n := by
    rw [length_flatMap_leBytes, List.length_map, List.length_range]
  have short : n ≤ 64 := by
    by_cases h : n = 0
    · omega
    · have := inside (a + (n - 1)) ⟨by omega, by omega⟩
      omega
  obtain ⟨mem, eq, wf, written, rest⟩ := m.lsWrite_spec q (off + 4 * a) _ sound w hq (by rw [len]; omega)
  refine ⟨mem, eq, wf, ?_, ?_⟩
  · intro i hi j hj
    have byte := written (4 * (i - a) + j) (by omega)
    rw [getD_flatMap_leBytes _ (by rw [List.length_map, List.length_range]; omega) hj, getD_map_range, if_pos (by omega), show a + (i - a) = i by omega,
      show off + 4 * a + (4 * (i - a) + j) = off + 4 * i + j by omega] at byte
    exact byte
  · intro b hb
    refine rest b fun k hk => ?_
    have := hb (a + k / 4) ⟨by omega, by omega⟩ (k % 4) (Nat.mod_lt k (by decide))
    rwa [show off + 4 * (a + k / 4) + k % 4 = off + 4 * a + k by omega] at this

/-- Storing runs of lanes one after another stores their lanes. -/
theorem Mach.lsWrite_runs {q : Nat} (off : Nat) (x : Nat → Nat) (hq : q < 10240) (rs : List (Nat × Nat)) (m : Mach)
    (sound : m.granErr = []) (w : m.memWf) (inside : ∀ i, InRun rs i → i < 64) :
    ∃ mem, rs.foldl (fun m r => m.lsWrite q (off + 4 * r.1) (((((List.range 64).map x).drop r.1).take r.2).flatMap (leBytes 4))) m =
        { m with mem := mem } ∧ LanesStored m mem q off x (InRun rs) := by
  induction rs generalizing m with
  | nil => exact ⟨m.mem, rfl, fun i hi => by simp [InRun] at hi, fun _ _ => rfl⟩
  | cons r rs ih =>
    obtain ⟨mem1, eq1, wf1, put1, keep1⟩ := m.lsWrite_run off x r sound w hq fun i hi => inside i ((inRun_cons r rs i).mpr (.inl hi))
    obtain ⟨mem2, eq2, put2, keep2⟩ := ih { m with mem := mem1 } sound wf1 fun i hi => inside i ((inRun_cons r rs i).mpr (.inr hi))
    refine ⟨mem2, by rw [List.foldl_cons, eq1, eq2], ?_, ?_⟩
    · intro i hi j hj
      by_cases later : InRun rs i
      · exact put2 i later j hj
      · rw [keep2, Mach.byteAt, put1 i (((inRun_cons r rs i).mp hi).resolve_right later) j hj]
        intro i' hi' j' hj'
        have lane := inside i hi
        have lane' := inside i' ((inRun_cons r rs i').mpr (.inr hi'))
        have other : i ≠ i' := fun e => later (e ▸ hi')
        omega
    · intro a ha
      rw [keep2 a fun i hi => ha i ((inRun_cons r rs i).mpr (.inr hi))]
      exact keep1 a fun i hi => ha i ((inRun_cons r rs i).mpr (.inl hi))

/-- The four bytes of a lane that has been stored read as the lane. -/
theorem storeNat_lane {m : Mach} {q o x : Nat} (hx : x < 2 ^ 32)
    (byte : ∀ j, j < 4 → m.storeByte q (o + j) = (leBytes 4 x).getD j 0) : m.storeNat q o 4 = x := by
  have bytes : ((List.range 4).map fun j => m.storeByte q (o + j)) = (List.range 4).map fun j => (leBytes 4 x).getD j 0 :=
    List.map_congr_left fun j hj => byte j (List.mem_range.mp hj)
  have all : ((List.range 4).map fun j => (leBytes 4 x).getD j 0) = leBytes 4 x := rfl
  rw [Mach.storeNat, bytes, all, leNat_leBytes]
  exact Nat.mod_eq_of_lt hx

/-- Lane i of the 256 bytes that a load reads. -/
theorem getD_splitLe_lsRead (m : Mach) (q off : Nat) (sound : m.granErr = []) {i : Nat} (hi : i < 64) :
    (splitLe 4 64 (m.lsRead q off 256).1).getD i 0 = m.storeNat q (off + 4 * i) 4 := by
  rw [Mach.lsRead_sound _ _ _ _ sound, Mach.lsBytes_eq _ _ _ _ (by decide)]
  have cut := splitLe_range 4 (m.storeByte q) 64 off
  rw [show 64 * 4 = 256 from rfl] at cut
  rw [cut, getD_map_range, if_pos hi, Nat.mul_comm i]
  rfl

/-- Reading runs of a sound local store changes nothing. -/
theorem foldl_lsRead (m : Mach) (q off : Nat) (sound : m.granErr = []) (rs : List (Nat × Nat)) :
    rs.foldl (fun m r => (m.lsRead q (off + 4 * r.1) (4 * r.2)).2) m = m :=
  foldl_keeps (fun n => n = m) (fun n (r : Nat × Nat) => (n.lsRead q (off + 4 * r.1) (4 * r.2)).2)
    (fun n r same => by rw [same, Mach.lsRead_sound _ _ _ _ sound]) rs m rfl

/-- Counting for Theodolite leaves the memory and its faults. -/
theorem Mach.mem_thd (m : Mach) (k : Nat) (c : Option Nat) (e n : Nat) : (m.thd k c e n).mem = m.mem := by rw [Mach.thd_eq]
theorem Mach.granErr_thd (m : Mach) (k : Nat) (c : Option Nat) (e n : Nat) : (m.thd k c e n).granErr = m.granErr := by
  rw [Mach.thd_eq]
/-- And what the local stores read as. -/
theorem Mach.storeNat_thd (m : Mach) (k : Nat) (c : Option Nat) (e n q o b : Nat) : (m.thd k c e n).storeNat q o b = m.storeNat q o b := by
  unfold Mach.storeNat Mach.storeByte Mach.byteAt
  rw [Mach.mem_thd]

/-! ## Lines of tiles (R258) -/

/-- The slot that a lane names, as the statement divides it out. -/
theorem lineSlot_eq (imm i : Nat) :
    lineSlot imm i =
      if imm / 2 ^ 4 % 2 = 1 then 32 * (i % 32) + (2 * (imm % 16) + i / 32) else 32 * (2 * (imm % 16) + i / 32) + i % 32 := by
  unfold lineSlot
  simp only [bitAt_eq_decide, decide_eq_true_eq]

/-- A lane names a slot of the tile. -/
theorem lineSlot_lt (imm : Nat) {i : Nat} (hi : i < 64) : lineSlot imm i < 1024 := by
  rw [lineSlot_eq]
  split <;> omega

/-- Two lanes name two slots. -/
theorem lineSlot_injective (imm : Nat) {i j : Nat} (hi : i < 64) (hj : j < 64) (h : lineSlot imm i = lineSlot imm j) : i = j := by
  rw [lineSlot_eq, lineSlot_eq] at h
  split at h <;> omega

/-- An entry of the list of a tile's slots. -/
theorem slotNats_getD (t : Tile) {e : Nat} (he : e < 1024) : t.slotNats.getD e 0 = (Tab.get 0 t.slots e).toNat := by
  rw [Tile.slotNats, Tab.toListN_eq, List.map_map, getD_map_range, if_pos he]
  rfl

/-- Reading after writes at different keys: each key written holds its value, the others stand. -/
theorem get_foldl_put {α : Type} [DecidableEq α] (d : α) (key : Nat → Nat) (val : Nat → α) (xs : List Nat) (t : Tab α)
    (inj : ∀ i ∈ xs, ∀ j ∈ xs, key i = key j → i = j) :
    (∀ i ∈ xs, Tab.get d (xs.foldl (fun t i => Tab.put d t (key i) (val i)) t) (key i) = val i) ∧
      ∀ e, (∀ i ∈ xs, e ≠ key i) → Tab.get d (xs.foldl (fun t i => Tab.put d t (key i) (val i)) t) e = Tab.get d t e := by
  induction xs generalizing t with
  | nil => exact ⟨fun i hi => absurd hi List.not_mem_nil, fun _ _ => rfl⟩
  | cons x xs ih =>
    obtain ⟨written, kept⟩ := ih (Tab.put d t (key x) (val x)) fun i hi j hj =>
      inj i (List.mem_cons_of_mem x hi) j (List.mem_cons_of_mem x hj)
    refine ⟨fun i hi => ?_, fun e he => ?_⟩
    · by_cases later : i ∈ xs
      · exact written i later
      · obtain rfl : i = x := (List.mem_cons.mp hi).resolve_right later
        rw [List.foldl_cons, kept _ fun j hj same => later (inj i hi j (List.mem_cons_of_mem i hj) same ▸ hj), Tab.get_put_self]
    · rw [List.foldl_cons, kept e fun i hi => he i (List.mem_cons_of_mem x hi),
        Tab.get_put_of_ne _ _ _ (he x List.mem_cons_self).symm]

/-! ## The instructions that move lanes (R254, R258, R265) -/

/-- VLD gives each active lane its four bytes of the local store. -/
theorem writesLanes_vld {s : State} {q : Nat} {f : CoreFields} (h : Issues s.mach q f 5 0x00) (sound : s.mach.granErr = []) :
    WritesLanes (exec (.vld q f) s) s q f
      (fun i => BitVec.ofNat 32 (s.mach.storeNat q (off4 ((s.mach.getCore q).sreg f.b) + 4 * i) 4)) fun _ => {} := by
  refine writesLanes_of_toLanes (eff := fun m c => m.vld q f c) (G := fun i => ((splitLe 4 64
    ((s.mach.thd (q / 16) (some (q % 16)) 0x0A 1).lsRead q (off4 ((s.mach.getCore q).sreg f.b)) 256).1).getD i 0, {})) h ?_ ?_
    fun _ => rfl
  · dsimp only
    rw [Mach.vld, foldl_lsRead _ _ _ ((Mach.granErr_thd ..).trans sound)]
  · intro i hi
    dsimp only
    rw [getD_splitLe_lsRead _ _ _ ((Mach.granErr_thd ..).trans sound) hi, Mach.storeNat_thd]

/-- VST stores the active lanes of vA, and nothing else changes. -/
theorem completes_vst {s : State} {q : Nat} {f : CoreFields} (h : Issues s.mach q f 5 0x01) (sound : s.mach.granErr = [])
    (w : s.mach.memWf) :
    let c := s.mach.getCore q
    let off := off4 (c.sreg f.b)
    Completes (exec (.vst q f) s) s fun m' =>
      (∀ i, i < 64 → c.isActive f i → m'.storeNat q (off + 4 * i) 4 = (c.laneOf f.a i).toNat) ∧
      (∀ a, (∀ i j, i < 64 → c.isActive f i → j < 4 → a ≠ storeBase q + (off + 4 * i + j) % 2 ^ 15) →
        m'.byteAt a = s.mach.byteAt a) ∧
      GoesOn c (m'.getCore q) ∧ CoreOnly s.mach { m' with mem := s.mach.mem } q := by
  intro c off
  refine ⟨_, rfl, rfl, ?_⟩
  dsimp only [State.onMach]
  rw [Mach.vec_of_issues _ _ h, Mach.vst, CoreSt.vreg_eq]
  have runs (i : Nat) : InRun (activeRuns (c.active f)) i ↔ i < 64 ∧ c.isActive f i = true := inRun_activeRuns _ i
  obtain ⟨mem, eq, stored, kept⟩ := Mach.lsWrite_runs off (fun i => (c.laneOf f.a i).toNat) h.core_lt (activeRuns (c.active f))
    (s.mach.thd (q / 16) (some (q % 16)) 0x0A 1) ((Mach.granErr_thd ..).trans sound) (Mach.memWf_congr (Mach.mem_thd ..) w)
    fun i hi => ((runs i).mp hi).1
  rw [eq]
  generalize hm : ({ s.mach.thd (q / 16) (some (q % 16)) 0x0A 1 with mem := mem } : Mach) = m
  have memory : (m.advance q).mem = mem := by rw [Mach.advance_eq, ← hm]
  have core (r : Nat) : m.getCore r = s.mach.getCore r := by rw [← hm]; exact Mach.getCore_thd ..
  refine ⟨?_, ?_, ?_, ?_, ?_⟩
  · intro i hi active
    refine storeNat_lane (BitVec.isLt _) fun j hj => ?_
    rw [Mach.storeByte, Mach.byteAt, memory]
    exact stored i ((runs i).mpr ⟨hi, active⟩) j hj
  · intro a away
    rw [Mach.byteAt, memory, kept a fun i hi j hj => away i j ((runs i).mp hi).1 ((runs i).mp hi).2 hj, Mach.byteAt, Mach.mem_thd]
    rfl
  · rw [Mach.getCore_advance, core]
    exact CoreSt.goesOn_goOn _ _
  · intro r other
    exact (Mach.getCore_advance_of_ne _ other).trans (core r)
  · rw [Mach.advance_eq, ← hm, Mach.thd_eq]

/-- VPACK of every lane puts the low bits of the lanes into the fields of a part and leaves every other bit. -/
theorem completes_vpack {s : State} {q : Nat} {f : CoreFields} (h : Issues s.mach q f 5 0x0E) (unsigned : bitAt f.imm 7 = false)
    (full : f.flags % 8 = 0) :
    let c := s.mach.getCore q
    let w := packWidth (f.imm % 4)
    let part := f.imm / 2 ^ 4 % 8 % (32 / w)
    let field (v : BitVec 2048) (j : Nat) : Nat := v.toNat / 2 ^ ((64 * part + j) * w) % 2 ^ w
    Completes (exec (.vpack q f) s) s fun m' =>
      let v := Tab.get 0 c.v (f.a % 32)
      let v' := Tab.get 0 (m'.getCore q).v (f.a % 32)
      (∀ j, j < 64 → field v' j = (c.laneOf f.b j).toNat % 2 ^ w) ∧
      (∀ b, b < 2048 → (b < 64 * part * w ∨ 64 * (part + 1) * w ≤ b) → v'.getLsbD b = v.getLsbD b) ∧
      (∀ r i, r % 32 ≠ f.a % 32 → (m'.getCore q).laneOf r i = c.laneOf r i) ∧
      GoesOn { c with v := (m'.getCore q).v } (m'.getCore q) ∧ CoreTallies s.mach m' q {} := by
  intro c w part field
  have width : w = 16 ∨ w = 8 ∨ w = 4 := packWidth_cases _
  have inside : part < 32 / w := Nat.mod_lt _ (by rcases width with h | h | h <;> rw [h] <;> decide)
  have active (i : Nat) (hi : i < 64) : activeLane (c.active f) i = true := by
    rw [activeLane, CoreSt.active, full, CoreSt.mreg, if_pos rfl, BitVec.getLsbD_allOnes, decide_eq_true hi]
  refine ⟨_, rfl, rfl, ?_⟩
  dsimp only [State.onMach]
  have packed : vpack w (fld f.imm 4 3) (bitAt f.imm 7) (c.active f) (c.vreg (f.a % 32)) (c.vreg (f.b % 32)) =
      (packFields w part (lanes (Tab.get 0 c.v (f.a % 32))) (fun i => (c.laneOf f.b i).toNat) 64, {}) := by
    rw [unsigned, CoreSt.vreg_eq c f.b, CoreSt.vreg, fld_eq]
    exact vpack_all_active width _ active _ _ fun j => BitVec.isLt _
  rw [Mach.vec_of_issues _ _ h, Mach.vpackInto, packed]
  dsimp only
  obtain ⟨⟨now, core⟩, rest⟩ := s.mach.thd_tally_simple_spec q (q / 16) 0x0A 1 (some (q % 16)) {} fun c' => c'.setV (f.a % 32)
    (packFields w part (lanes (Tab.get 0 c.v (f.a % 32))) (fun i => (c.laneOf f.b i).toNat) 64)
  rw [core]
  refine ⟨?_, ?_, ?_, CoreSt.goesOn_setV _ _ _ _, rest⟩
  · intro j hj
    rw [CoreSt.v_goOn, CoreSt.setV, Tab.get_put_self]
    exact field_packFields width inside _ _ hj
  · intro b hb outside
    rw [CoreSt.v_goOn, CoreSt.setV, Tab.get_put_self, getLsbD_packFields width inside _ _ hb, if_neg (by omega)]
  · intro r i hr
    rw [CoreSt.laneOf_goOn, CoreSt.laneOf_setV_of_ne _ _ _ hr]

/-- VTPUT puts the active lanes into the slots that they name; the header and every other slot stand. -/
theorem completes_vtput {s : State} {q : Nat} {f : CoreFields} (h : Issues s.mach q f 5 0x1B) :
    let c := s.mach.getCore q
    Completes (exec (.vtput q f) s) s fun m' =>
      let c' := m'.getCore q
      (c'.tile (f.a % 8)).hdr = (c.tile (f.a % 8)).hdr ∧
      (∀ i, i < 64 → c'.slot (f.a % 8) (lineSlot f.imm i) =
        if c.isActive f i then c.laneOf f.b i else c.slot (f.a % 8) (lineSlot f.imm i)) ∧
      (∀ e, (∀ i, i < 64 → e ≠ lineSlot f.imm i) → c'.slot (f.a % 8) e = c.slot (f.a % 8) e) ∧
      (∀ r, r ≠ f.a % 8 → c'.tile r = c.tile r) ∧ GoesOn { c with t := c'.t } c' ∧ CoreOnly s.mach m' q := by
  intro c
  refine ⟨_, rfl, rfl, ?_⟩
  dsimp only [State.onMach]
  rw [Mach.vec_of_issues _ _ h, Mach.vtputInto]
  have member (i : Nat) : i ∈ (List.range 64).filter (activeLane (c.active f)) ↔ i < 64 ∧ c.isActive f i = true := by
    rw [List.mem_filter, List.mem_range]; rfl
  obtain ⟨written, kept⟩ := get_foldl_put 0 (lineSlot f.imm) (fun i => BitVec.ofNat 32 ((c.vreg (f.b % 32)).getD i 0))
    ((List.range 64).filter (activeLane (c.active f))) (c.tile (f.a % 8)).slots fun i hi j hj =>
      lineSlot_injective f.imm ((member i).mp hi).1 ((member j).mp hj).1
  generalize List.foldl _ _ _ = slots at written kept ⊢
  obtain ⟨core, rest⟩ := Mach.simple_spec (s.mach.thd (q / 16) (some (q % 16)) 0x0A 1) q fun c' =>
    c'.setTile (f.a % 8) { c.tile (f.a % 8) with slots := slots }
  rw [Mach.getCore_thd] at core
  rw [core]
  have slot (e : Nat) : ((c.setTile (f.a % 8) { c.tile (f.a % 8) with slots := slots }).goOn
      (s.mach.thd (q / 16) (some (q % 16)) 0x0A 1).now).slot (f.a % 8) e = Tab.get 0 slots e := by
    rw [CoreSt.slot_goOn, CoreSt.slot, CoreSt.setTile_tile, if_pos rfl]
  refine ⟨?_, ?_, ?_, ?_, ?_, rest.of_thd⟩
  · rw [CoreSt.tile_goOn, CoreSt.setTile_tile, if_pos rfl]
  · intro i hi
    rw [slot]
    split
    · next active =>
      rw [written i ((member i).mpr ⟨hi, active⟩), ← CoreSt.lane, CoreSt.lane_eq, BitVec.ofNat_toNat, BitVec.setWidth_eq]
    · next idle =>
      exact kept _ fun j hj same => idle (lineSlot_injective f.imm hi ((member j).mp hj).1 same ▸ ((member j).mp hj).2)
  · intro e he
    rw [slot]
    exact kept e fun i hi => he i ((member i).mp hi).1
  · intro r hr
    rw [CoreSt.tile_goOn, CoreSt.setTile_tile, if_neg hr]
  · rw [CoreSt.t_goOn]
    exact CoreSt.goesOn_goOn _ _

/-- A bit of IMM that the statements find clear. -/
theorem bitAt_eq_false {x i : Nat} (h : x / 2 ^ i % 2 = 0) : bitAt x i = false := by
  rw [bitAt_eq_decide, h]
  rfl

/-- Settles O16: six instructions are lane maps, VLD one over the bytes of the local store; VST, VPACK and VTPUT by the laws of
what they write. -/
theorem vectorMoves : Obligations.VectorMoves := by
  intro s q f c off noTal slot
  have slot_eq : slot = lineSlot f.imm := funext fun i => (lineSlot_eq f.imm i).symm
  have lane (r i : Nat) : c.laneOf r i = BitVec.ofNat 32 (c.lane r i) := by
    rw [CoreSt.lane_eq, BitVec.ofNat_toNat, BitVec.setWidth_eq]
  refine ⟨writesLanes_vld, completes_vst, ?vbcast, ?vsel, ?vperm, ?vshuf, ⟨?vunpack, ?vpack⟩, ?vtget, ?vtput⟩
  case vbcast =>
    refine fun h => writesLanes_of_toLanes h rfl (fun i _ => ?_) fun _ => rfl
    apply BitVec.eq_of_toNat_eq
    rw [BitVec.toNat_setWidth, BitVec.toNat_ofNat, Nat.mod_mod]
  case vsel =>
    refine fun h => writesLanes_of_toLanes h rfl (fun i _ => ?_) fun _ => rfl
    rw [lane, lane, apply_ite (BitVec.ofNat 32)]
  case vperm =>
    refine fun h => writesLanes_of_toLanes h rfl (fun i _ => ?_) fun _ => rfl
    rw [← CoreSt.lane_eq, lane]
  case vshuf =>
    exact fun h kind => writesLanes_of_toLanes h rfl (fun i hi => (lane_vshufSrc c f hi kind).symm) fun _ => rfl
  case vunpack =>
    refine fun h _ unsigned => writesLanes_of_toLanes h rfl (fun i _ => ?_) fun _ => rfl
    rw [bitAt_eq_false unsigned, vunpack_unsigned, fld_eq]
    rfl
  case vpack =>
    exact fun h _ unsigned full => completes_vpack h (bitAt_eq_false unsigned) full
  case vtget =>
    intro h raw
    refine writesLanes_of_toLanes (G := fun i => ((c.tile (f.b % 8)).slotNats.getD (lineSlot f.imm i) 0, {})) h ?_ (fun i hi => ?_)
      fun _ => rfl
    · simp only [Mach.vtgetInto, bitAt_eq_decide, raw, decide_true, if_true]
      rfl
    · rw [slotNats_getD _ (lineSlot_lt f.imm hi), slot_eq, BitVec.ofNat_toNat, BitVec.setWidth_eq]
      rfl
  case vtput =>
    rw [slot_eq]
    exact completes_vtput

end Sys2Proof.Machine
end

section
/-!
SUPPORT. The exact algorithms on finite binary32 lanes, and the obligation about them (R268 to R274).
-/
namespace Sys2Proof.Machine

/-! ## Square roots by bits (R273) -/

/-- The bits below a power of two complete a root whose square stays at or below a number. -/
theorem isqrtGo_spec (x k acc : Nat) (low : acc * acc ≤ x) (high : x < (acc + 2 ^ k) * (acc + 2 ^ k)) :
    isqrtGo x k acc * isqrtGo x k acc ≤ x ∧ x < (isqrtGo x k acc + 1) * (isqrtGo x k acc + 1) := by
  induction k generalizing acc with
  | zero => exact ⟨low, high⟩
  | succ k ih =>
    rw [isqrtGo]
    split
    · next fits => exact ih _ fits (by rwa [Nat.add_assoc, ← Nat.two_mul, ← Nat.pow_succ'])
    · next exceeds => exact ih _ low (Nat.lt_of_not_le exceeds)

/-- The integer square root is the floor of the square root. -/
theorem isqrt_spec (x : Nat) : isqrt x * isqrt x ≤ x ∧ x < (isqrt x + 1) * (isqrt x + 1) := by
  refine isqrtGo_spec x _ 0 (Nat.zero_le x) ?_
  have wide : x < 2 ^ (Nat.log2 x + 1) := Nat.lt_log2_self
  have more : 2 ^ (Nat.log2 x + 1) ≤ 2 ^ (Nat.log2 x / 2 + 1 + (Nat.log2 x / 2 + 1)) := Nat.pow_le_pow_right (by decide) (by omega)
  rw [Nat.zero_add, ← Nat.pow_add]
  exact Nat.lt_of_lt_of_le wide more

/-! ## Exact values -/

/-- A value scaled to a lower exponent is the multiple of its scaling to a higher one. -/
theorem Val.atExp_sub (x : Val) {e e' : Int} (le : e' ≤ e) (hx : e ≤ x.e) :
    x.atExp e' = x.atExp e * ((2 ^ (e - e').toNat : Nat) : Int) := by
  have exponent : (x.e - e').toNat = (x.e - e).toNat + (e - e').toNat := by omega
  rw [Val.atExp, Val.atExp, exponent, Nat.pow_add, Int.natCast_mul, Int.mul_assoc]

/-- Order is decided at any exponent at or below both. -/
theorem Val.lt_at (x y : Val) {e : Int} (hx : e ≤ x.e) (hy : e ≤ y.e) : x.lt y = decide (x.atExp e < y.atExp e) := by
  have le : e ≤ min x.e y.e := Int.le_min.mpr ⟨hx, hy⟩
  have pos : (0 : Int) < ((2 ^ (min x.e y.e - e).toNat : Nat) : Int) := Int.natCast_pos.mpr (Nat.two_pow_pos _)
  rw [Val.lt, x.atExp_sub le (Int.min_le_left _ _), y.atExp_sub le (Int.min_le_right _ _)]
  exact decide_eq_decide.mpr (Int.mul_lt_mul_right pos).symm

/-- So is equality. -/
theorem Val.eq_at (x y : Val) {e : Int} (hx : e ≤ x.e) (hy : e ≤ y.e) : x.eq y = decide (x.atExp e = y.atExp e) := by
  have le : e ≤ min x.e y.e := Int.le_min.mpr ⟨hx, hy⟩
  have pos : (0 : Int) < ((2 ^ (min x.e y.e - e).toNat : Nat) : Int) := Int.natCast_pos.mpr (Nat.two_pow_pos _)
  rw [Val.eq, x.atExp_sub le (Int.min_le_left _ _), y.atExp_sub le (Int.min_le_right _ _)]
  exact decide_eq_decide.mpr (Int.mul_eq_mul_right_iff (Int.ne_of_gt pos)).symm

/-- A value whose magnitude is shifted up and whose exponent is lowered by as much is the same value. -/
theorem Val.eq_shift (neg : Bool) (m : Nat) (e : Int) (k : Nat) : Val.eq ⟨neg, m, e⟩ ⟨neg, m * 2 ^ k, e - k⟩ = true := by
  rw [Val.eq_at (e := e - k) _ _ (by dsimp only; omega) (by dsimp only; omega), decide_eq_true_eq]
  unfold Val.atExp Val.int
  have up : (e - (e - k)).toNat = k := by omega
  have stay : (e - k - (e - k)).toNat = 0 := by omega
  dsimp only
  rw [up, stay]
  have one : ((2 ^ 0 : Nat) : Int) = 1 := rfl
  rw [Int.natCast_mul, one, Int.mul_one]
  cases neg
  · rfl
  · exact Int.neg_mul _ _

/-- The limit of VEXP2 as the model writes it: 128 = 1 × 2^7. -/
theorem Val.lt_128 (x : Val) : x.lt ⟨false, 1, 7⟩ = x.lt ⟨false, 128, 0⟩ := by
  rw [x.lt_at ⟨false, 1, 7⟩ (e := min x.e 0) (Int.min_le_left _ _) (by dsimp only; omega),
    x.lt_at ⟨false, 128, 0⟩ (Int.min_le_left _ _) (Int.min_le_right _ _)]
  have exponent : (7 - min x.e 0).toNat = (0 - min x.e 0).toNat + 7 := by omega
  have limit : Val.atExp ⟨false, 1, 7⟩ (min x.e 0) = Val.atExp ⟨false, 128, 0⟩ (min x.e 0) := by
    unfold Val.atExp Val.int
    dsimp only
    rw [exponent, Nat.pow_add, Nat.mul_comm, Int.natCast_mul]
    exact Int.one_mul _
  rw [limit]

/-- A value below −160 is below 128. -/
theorem Val.lt_128_of_lt_neg_160 (x : Val) (h : x.lt ⟨true, 160, 0⟩ = true) : x.lt ⟨false, 128, 0⟩ = true := by
  rw [x.lt_at (e := min x.e 0) _ (Int.min_le_left _ _) (Int.min_le_right _ _), decide_eq_true_eq] at h ⊢
  have pos : (0 : Int) < ((2 ^ (0 - min x.e 0).toNat : Nat) : Int) := Int.natCast_pos.mpr (Nat.two_pow_pos _)
  refine Int.lt_trans h ?_
  unfold Val.atExp Val.int
  dsimp only
  exact Int.mul_lt_mul_of_pos_right (by decide) pos

/-! ## Finite binary32 lanes (R71, R268) -/

/-- A finite lane reads without a tally. -/
theorem rd32_finite {b : Nat} (nan : (Ieee.b32.read b).nan = false) (inf : (Ieee.b32.read b).inf = false) :
    rd32 b = ((Ieee.b32.read b).val, {}) := by
  rw [rd32, IeeeIn.tal, nan, inf]
  rfl

/-- A finite lane is a subnormal or zero, or has a leading bit above its 23 fraction bits. -/
theorem read_finite {b : Nat} (nan : (Ieee.b32.read b).nan = false) (inf : (Ieee.b32.read b).inf = false) :
    ∃ (neg : Bool) (frac : Nat), frac < 2 ^ 23 ∧
      ((Ieee.b32.read b).val = ⟨neg, frac, -149⟩ ∨ ∃ k : Nat, (Ieee.b32.read b).val = ⟨neg, 2 ^ 23 + frac, -149 + k⟩) := by
  refine ⟨bitAt b 31, fld b 0 23, Nat.mod_lt _ (by decide), ?_⟩
  unfold Ieee.read at *
  dsimp only at *
  split at nan
  · split at nan
    · next special frac => rw [if_pos special, if_pos frac] at inf; exact nomatch inf
    · exact absurd nan (by decide)
  · next ordinary =>
    rw [if_neg ordinary]
    split
    · exact .inl rfl
    · exact .inr ⟨_, rfl⟩

/-- The magnitude of a finite lane has at most 24 bits. -/
theorem read_mag_lt {b : Nat} (nan : (Ieee.b32.read b).nan = false) (inf : (Ieee.b32.read b).inf = false) :
    (Ieee.b32.read b).val.mag < 2 ^ 24 := by
  obtain ⟨neg, frac, small, h | ⟨k, h⟩⟩ := read_finite nan inf
  · rw [h]; exact Nat.lt_trans small (by decide)
  · rw [h]; dsimp only; omega

/-- A zero lane reads as a zero of the least exponent. -/
theorem read_zero {b : Nat} (nan : (Ieee.b32.read b).nan = false) (inf : (Ieee.b32.read b).inf = false)
    (zero : (Ieee.b32.read b).val.mag = 0) : ∃ neg, (Ieee.b32.read b).val = ⟨neg, 0, -149⟩ := by
  obtain ⟨neg, frac, small, h | ⟨k, h⟩⟩ := read_finite nan inf
  · obtain rfl : frac = 0 := by rwa [h] at zero
    exact ⟨neg, h⟩
  · rw [h] at zero
    dsimp only at zero
    omega

/-! ## The exact algorithms (R270 to R274) -/

/-- normalise(x) of a non-zero magnitude of at most 24 bits: a magnitude of exactly 24 bits, and the same value. -/
theorem normalise_spec (x : Val) (pos : x.mag ≠ 0) (small : x.mag < 2 ^ 24) :
    2 ^ 23 ≤ (normalise x).1 ∧ (normalise x).1 < 2 ^ 24 ∧ x.abs.eq ⟨false, (normalise x).1, (normalise x).2 - 23⟩ = true := by
  have leading : 2 ^ Nat.log2 x.mag ≤ x.mag := Nat.log2_self_le pos
  have above : x.mag < 2 ^ (Nat.log2 x.mag + 1) := Nat.lt_log2_self
  have short : Nat.log2 x.mag ≤ 23 := Nat.lt_succ_iff.mp ((Nat.log2_lt pos).mpr small)
  have scale : 2 ^ Nat.log2 x.mag * 2 ^ (23 - Nat.log2 x.mag) = 2 ^ 23 := by rw [← Nat.pow_add]; congr 1; omega
  have scale' : 2 ^ (Nat.log2 x.mag + 1) * 2 ^ (23 - Nat.log2 x.mag) = 2 ^ 24 := by rw [← Nat.pow_add]; congr 1; omega
  have shifted : (normalise x).1 = x.mag * 2 ^ (23 - Nat.log2 x.mag) := by
    rw [normalise, if_pos short, Nat.shiftLeft_eq]
  have exponent : (normalise x).2 - 23 = x.e - ((23 - Nat.log2 x.mag : Nat) : Int) := by
    rw [normalise]
    dsimp only
    omega
  rw [shifted, exponent]
  exact ⟨scale ▸ Nat.mul_le_mul_right _ leading, scale' ▸ Nat.mul_lt_mul_of_pos_right above (Nat.two_pow_pos _),
    Val.eq_shift false x.mag x.e _⟩

section
variable {b : Nat} (nan : (Ieee.b32.read b).nan = false) (inf : (Ieee.b32.read b).inf = false)
include nan inf

/-- VEXP2 saturates from 128 on. -/
theorem vexp2_large (h : (Ieee.b32.read b).val.lt ⟨false, 128, 0⟩ = false) : vexp2 b = (0x7F7FFFFF, { sat := 1 }) := by
  rw [vexp2, rd32_finite nan inf, exp2Val, Val.lt_128, h]
  rfl

/-- VEXP2 goes to zero below −160. -/
theorem vexp2_small (h : (Ieee.b32.read b).val.lt ⟨true, 160, 0⟩ = true) : vexp2 b = (0, { unf := 1 }) := by
  rw [vexp2, rd32_finite nan inf, exp2Val, Val.lt_128, h, Val.lt_128_of_lt_neg_160 _ h]
  rfl

/-- VEXP2 of zero is one. -/
theorem vexp2_zero (zero : (Ieee.b32.read b).val.mag = 0) : vexp2 b = (0x3F800000, {}) := by
  obtain ⟨neg, h⟩ := read_zero nan inf zero
  rw [vexp2, rd32_finite nan inf, h]
  cases neg <;> decide +kernel

/-- VLOG2, VRCP and VRSQ of zero saturate. -/
theorem vlog2_zero (zero : (Ieee.b32.read b).val.mag = 0) : vlog2 b = (0xFF7FFFFF, { sat := 1 }) := by
  rw [vlog2, rd32_finite nan inf]
  dsimp only
  rw [if_pos zero]
  rfl
theorem vrcp_zero (zero : (Ieee.b32.read b).val.mag = 0) : vrcp b = (0x7F7FFFFF, { sat := 1 }) := by
  rw [vrcp, rd32_finite nan inf]
  dsimp only
  rw [if_pos zero]
  rfl
theorem vrsq_zero (zero : (Ieee.b32.read b).val.mag = 0) : vrsq b = (0x7F7FFFFF, { sat := 1 }) := by
  rw [vrsq, rd32_finite nan inf]
  dsimp only
  rw [if_pos zero]
  rfl

/-- VLOG2 and VRSQ of a negative value give +0 and count NAN_IN. -/
theorem vlog2_negative (pos : (Ieee.b32.read b).val.mag ≠ 0) (neg : (Ieee.b32.read b).val.neg = true) :
    vlog2 b = (0, { special := 1 }) := by
  rw [vlog2, rd32_finite nan inf]
  dsimp only
  rw [if_neg pos, if_pos neg]
  rfl
theorem vrsq_negative (pos : (Ieee.b32.read b).val.mag ≠ 0) (neg : (Ieee.b32.read b).val.neg = true) :
    vrsq b = (0, { special := 1 }) := by
  rw [vrsq, rd32_finite nan inf]
  dsimp only
  rw [if_neg pos, if_pos neg]
  rfl

/-- VRCP of a non-zero value is the steps of R272. -/
theorem vrcp_nonzero (pos : (Ieee.b32.read b).val.mag ≠ 0) :
    let n := normalise (Ieee.b32.read b).val
    vrcp b = trunc32 (Ieee.b32.read b).val.neg (2 ^ 47 / n.1) (-n.2 - 24) := by
  dsimp only
  rw [vrcp, rd32_finite nan inf]
  dsimp only
  rw [if_neg pos, Tal.none_plus]

/-- VRSQ of a positive value is the steps of R273. -/
theorem vrsq_positive (pos : (Ieee.b32.read b).val.mag ≠ 0) (neg : (Ieee.b32.read b).val.neg = false) :
    let n := normalise (Ieee.b32.read b).val
    let u := if n.2 % 2 = 1 then n.1 * 2 ^ 24 else n.1 * 2 ^ 23
    let t := if n.2 % 2 = 1 then (n.2 - 47) / 2 else (n.2 - 46) / 2
    vrsq b = trunc32 false (isqrt (2 ^ 94 / u)) (-t - 47) := by
  dsimp only
  rw [vrsq, rd32_finite nan inf]
  dsimp only
  rw [if_neg pos, neg, if_neg Bool.false_ne_true, Tal.none_plus, Nat.shiftLeft_eq, Nat.shiftLeft_eq]

end

/-- Settles O15: the four functions are lane maps; each special input takes its branch of the algorithm, and a non-zero one is
normalised. -/
theorem vectorFunctions : Obligations.VectorFunctions := by
  refine ⟨fun s q f => ?_, fun b _ nan inf => ?_⟩
  · have lane (i : Nat) : ((s.mach.getCore q).vreg (f.b % 32)).getD i 0 = ((s.mach.getCore q).laneOf f.b i).toNat :=
      CoreSt.lane_eq _ _ _
    refine ⟨fun h => ?_, fun h => ?_, fun h => ?_, fun h => ?_⟩ <;>
      exact writesLanes_of_toLanes h rfl (fun i _ => by rw [lane]) fun i => by rw [lane]
  · refine ⟨vexp2_large nan inf, vexp2_small nan inf, fun zero => ?_, fun pos neg => ?_, fun pos => ?_, ?_, ?_⟩
    · exact ⟨vexp2_zero nan inf zero, vlog2_zero nan inf zero, vrcp_zero nan inf zero, vrsq_zero nan inf zero⟩
    · exact ⟨vlog2_negative nan inf pos neg, vrsq_negative nan inf pos neg⟩
    · obtain ⟨low, high, same⟩ := normalise_spec _ pos (read_mag_lt nan inf)
      refine ⟨_, _, low, high, same, vrcp_nonzero nan inf pos, fun neg => ?_⟩
      obtain ⟨fits, exceeds⟩ := isqrt_spec (2 ^ 94 / if (normalise (Ieee.b32.read b).val).2 % 2 = 1
        then (normalise (Ieee.b32.read b).val).1 * 2 ^ 24 else (normalise (Ieee.b32.read b).val).1 * 2 ^ 23)
      exact ⟨_, fits, exceeds, vrsq_positive nan inf pos neg⟩
    · rintro rfl
      decide +kernel
    · rintro rfl
      decide +kernel

end Sys2Proof.Machine
end
